-- ==== Sys2Proof/Word.lean ====
section
/-! DEFINITION. The word types of the Ulukor U96 and their plainest arithmetic (R117, R355). -/

namespace Sys2Proof

/-- A byte (R117). -/
abbrev Byte := BitVec 8
/-- A scalar word (R117). -/
abbrev Word := BitVec 32
/-- A 64-bit quantity: time base values, IO virtual addresses, trace words (R355, R286). -/
abbrev DWord := BitVec 64
/-- A requester identity HREG_RID[11:0] (R375). -/
abbrev Rid := BitVec 12

/-- Debug-port requester identity (R375). -/
def debugRid : Rid := 0xFFF#12

end Sys2Proof
end

