-- ==== Sys2Proof/Syntax.lean ====
section
/-! DEFINITION. The commands of the block: one constructor per row of spec/opcode_table.json, with the
operands the row takes from outside the block (log 1, log 4, DESIGN CHOICE). -/

namespace Sys2Proof

/-- Guard of a long-format word: PINV in bit [30], PRED in [29:27] (R132, R137). -/
structure Guard where
  pinv : Bool
  pred : Fin 8
  deriving DecidableEq, Repr

/-- What the fabric answers to a read of host memory: the bytes, or a RESP code other than OK (R288). -/
inductive Reply where
  | ok (data : List Byte)
  | bad (resp : BitVec 3)
  deriving DecidableEq, Repr

/-- Who reaches an Almanac register: the host through an indirect pair, the furrow on engine g, or a
debug peek (R360, R361, R401). -/
inductive AlmParty where
  | host (rid : Rid)
  | furrow (g : Fin 96)
  | peek
  deriving DecidableEq, Repr

/-- Who reaches a drill register: the furrow on engine g, or the debugger on Field f (R310, R314). -/
inductive DrillWriter where
  | furrow (g : Fin 96)
  | debug (f : Fin 4)
  deriving DecidableEq, Repr

/-- The run registers of a drill (R310). -/
inductive RunReg where
  | dwin | dmode | ddiv | dcnt
  deriving DecidableEq, Repr

/-- What a reset release acts on (R408). -/
inductive ResetTarget where
  | block
  | field (f : Fin 4)
  | engine (g : Fin 96)
  deriving DecidableEq, Repr

/-- Run control target: an engine or the supervisor (R450, R453). -/
inductive RunTarget where
  | engine (g : Fin 96)
  | sup
  deriving DecidableEq, Repr

/-- One valid beat of a stream ingress (R269), its 64 bytes in `data`; `freed` counts the entries of the ingress buffer that the distributor
has read since the beat before (R271). -/
structure Beat where
  sop : Bool
  eop : Bool
  nb : BitVec 6
  err : Bool
  queue : BitVec 8
  ts : BitVec 80
  data : List Byte
  freed : Nat
  deriving DecidableEq, Repr

/-- Consecutive valid beats of a stream ingress, those of a packet among them (R269, R270). -/
structure Packet where
  beats : List Beat
  deriving DecidableEq, Repr

/-- What a Field's supervision firmware has of one end in one cycle (R333, R335, R340): the sense words
of its dwells. `v` and `i` are the words of dwell 6, `b`, for a B end, those of its continuity dwell, `programme` the samples sent to the end
in dwell 6. A word that is not given carries no VALID. -/
structure EndObs where
  endNo : Nat
  v : List Word
  i : List Word
  b : List Word
  programme : List Word
  deriving DecidableEq, Repr

/-- What a Field's supervision firmware has of one cycle: its ends, and the level of the rack alarm pin (R331, R335). -/
structure CycleObs where
  ends : List EndObs
  rack : Bool
  deriving DecidableEq, Repr

/-- The commands. Engine words carry the engine, the guard and bits [18:0] of the word (R132, R163). -/
inductive Instr where
  /-- CMD_TAIL_DOORBELL (R71): A host write to CMD_TAIL rings the doorbell, which crosses to the supervisor and makes the mailbox's descriptors fetchable. -/
  | cmdTailDoorbell (rid : Rid) (mb : Fin 16) (tail : BitVec 16)
  /-- DESCRIPTOR_FETCH (R48): The supervisor fetches one descriptor in round-robin order and checks it in the fixed order; a failing check completes it at once with its error code. -/
  | descriptorFetch (r : Reply)
  /-- COMPLETION_RECORD_WRITE (R50): The supervisor writes a 32-byte completion record, with the CRC word made visible last, and advances CPL_TAIL. -/
  | completionRecordWrite (mb : Fin 16) (resp : BitVec 3)
  /-- RING_ACCESS_RETRY (R40): Every 1 ms after a ring fault the supervisor repeats the failed ring access until it succeeds or EN is written 0. -/
  | ringAccessRetry (mb : Fin 16) (r : Reply)
  /-- MAILBOX_ENABLE (R36): A write of MB_CTRL.EN from 0 to 1 enables the mailbox when both ring sizes are valid, and zeroes its counts and its recent-tag table. -/
  | mailboxEnable (rid : Rid) (mb : Fin 16) (v : Word)
  /-- MAILBOX_DISABLE (R36): A write of MB_CTRL.EN from 1 to 0 ends EVENT_WAIT commands with E_ABORTED and stops descriptor fetch; ENABLED falls once every command in execution has written its record. -/
  | mailboxDisable (rid : Rid) (mb : Fin 16) (v : Word)
  /-- CPL_HEAD_WRITE (R42): A host write to CPL_HEAD consumes completion records and, with message routing, sends a further interrupt message if the condition still holds. -/
  | cplHeadWrite (rid : Rid) (mb : Fin 16) (head : BitVec 16)
  /-- MAILBOX_HOLDOFF_EXPIRY (R42): The oldest pending record reaches HOLDOFF µs of waiting, and the mailbox interrupt condition becomes true. -/
  | mailboxHoldoffExpiry (mb : Fin 16)
  /-- IDENTIFY (R53): Returns the device ID, strap code, mode bits and supervisor firmware build. -/
  | identify (mb : Fin 16) (k : BitVec 16)
  /-- VERSIONS (R53): Writes the supervisor build, digest bits and each Field's CS_VER into the buffer. -/
  | versions (mb : Fin 16) (k : BitVec 16) (resp : BitVec 3)
  /-- CERT_READ (R53): Writes the DER device certificate chain into the buffer. -/
  | certRead (mb : Fin 16) (k : BitVec 16) (resp : BitVec 3)
  /-- ATTEST (R441): Assembles the 624-byte measurement report around the given nonce and signs it with the DeviceID key. -/
  | attest (mb : Fin 16) (k : BitVec 16) (resp : BitVec 3)
  /-- STAGE_OPEN (R55): Opens or reopens a staging session over the Fields of the mask. -/
  | stageOpen (mb : Fin 16) (k : BitVec 16)
  /-- STAGE_WRITE (R52): Checks the configuration records in the buffer and stages them, each replacing any earlier record with the same key. -/
  | stageWrite (mb : Fin 16) (k : BitVec 16) (buf : Reply)
  /-- STAGE_READ (R54): Returns the staged record of the given type and key, or the committed record when none is staged. -/
  | stageRead (mb : Fin 16) (k : BitVec 16) (resp : BitVec 3)
  /-- STAGE_ABORT (R54): Discards the mailbox's staging session. -/
  | stageAbort (mb : Fin 16) (k : BitVec 16)
  /-- SEAL_GET (R392): Builds the seal image for the mask and returns the seal the configuration would have if committed now. -/
  | sealGet (mb : Fin 16) (k : BitVec 16)
  /-- COMMIT (R56): Computes the seal and compares it with SEAL_REF; on a match it applies the configuration, records SEAL_ACT and the parts, and takes the Fields to In service. -/
  | commit (mb : Fin 16) (k : BitVec 16)
  /-- FURROW_CREATE (R75): Checks a furrow descriptor, reserves Plot in a Field of its FIELD_MASK and assigns the lowest free furrow ID. -/
  | furrowCreate (mb : Fin 16) (k : BitVec 16) (buf : Reply)
  /-- FURROW_START (R492): Fetches and checks the firmware, places the furrow under R82 and starts it, or marks it to run from commit, or cold-restarts a FAILED furrow. -/
  | furrowStart (mb : Fin 16) (k : BitVec 16) (code : Reply)
  /-- FURROW_STOP (R492): Takes a running furrow off scheduling while it keeps its context and Plot, or marks it not to run from commit. -/
  | furrowStop (mb : Fin 16) (k : BitVec 16)
  /-- FURROW_DESTROY (R492): Destroys the furrow, ends any twin pair, parks its drills and stops its timers. -/
  | furrowDestroy (mb : Fin 16) (k : BitVec 16)
  /-- FURROW_QUERY (R78): Returns the furrow's state, its engine and Field, its twin and selected side, and its migration count. -/
  | furrowQuery (mb : Fin 16) (k : BitVec 16)
  /-- FURROW_SIGNAL (R98): Places 32 bytes in the furrow's control queue and completes with the acceptance code that the furrow returns. -/
  | furrowSignal (mb : Fin 16) (k : BitVec 16) (answer : Option Word)
  /-- RESTORE (R344): A FURROW_SIGNAL carrying RESTORE for a zone clears BREAK and the B-end drive of its changed-over lines from the next cycle. -/
  | restore (mb : Fin 16) (k : BitVec 16) (answer : Option Word)
  /-- FURROW_MOVE (R57): Migrates the furrow to the given Field and engine, or to the Sower's choice, and returns the measured blackout. -/
  | furrowMove (mb : Fin 16) (k : BitVec 16)
  /-- PLAN_WRITE (R91): Checks a plan table and stores it as plan ARG0 before the first commit. -/
  | planWrite (mb : Fin 16) (k : BitVec 16) (buf : Reply)
  /-- PLAN_READ (R58): Returns the given plan table. -/
  | planRead (mb : Fin 16) (k : BitVec 16) (resp : BitVec 3)
  /-- PLAN_STATUS (R58): Returns the active plan, the transitions since commit and the Ledger sequence of the last transition. -/
  | planStatus (mb : Fin 16) (k : BitVec 16)
  /-- POLICY_SET (R81): Sets the headroom and packing enable that Rolling-mode placement uses. -/
  | policySet (mb : Fin 16) (k : BitVec 16)
  /-- IMAGE_LOAD_CUSTOMER_MICROCODE (R240): Checks a customer microcode image and writes it, with its dispatch entries, into every engine of the named Fields. -/
  | imageLoadCustomerMicrocode (mb : Fin 16) (k : BitVec 16) (buf : Reply) (readback : Bool)
  /-- IMAGE_LOAD_SUPERVISOR_FIRMWARE (R435): Checks a supervisor firmware image, writes it into the inactive boot slot, reads it back and marks the slot pending. -/
  | imageLoadSupervisorFirmware (mb : Fin 16) (k : BitVec 16) (buf : Reply) (readback : Bool)
  /-- IMAGE_QUERY (R59): Returns the image builds, digest bits and boot record state of the target. -/
  | imageQuery (mb : Fin 16) (k : BitVec 16)
  /-- LEDGER_READ (R382): Copies Ledger records from the given sequence number and sets LEDGER_FILL to 0. -/
  | ledgerRead (mb : Fin 16) (k : BitVec 16) (resp : BitVec 3)
  /-- HARROW_RUN_PRESERVING (R262): Runs a preserving March C- test on a bank, one stripe lease at a time, restoring each stripe. -/
  | harrowRunPreserving (mb : Fin 16) (k : BitVec 16)
  /-- HARROW_RUN_DESTRUCTIVE (R263): Moves the bank to HARROW, runs the destructive test, remaps failing rows and leaves the bank FREE or RETIRED. -/
  | harrowRunDestructive (mb : Fin 16) (k : BitVec 16) (failing : List Nat) (again : Bool)
  /-- ENGINE_TEST (R100): Tests an engine and, when the test passes, removes the engine from the retirement map. -/
  | engineTest (mb : Fin 16) (k : BitVec 16) (code : Word) (pass : Bool)
  /-- FIELD_WALK (R349): Walks the zones of the range that have WALK set, four at a time per twin pair, and reports the zones walked and faulted. -/
  | fieldWalk (mb : Fin 16) (k : BitVec 16)
  /-- EVENT_WAIT (R62): Waits for the first event of the mask that occurs after the command starts. -/
  | eventWait (mb : Fin 16) (k : BitVec 16)
  /-- EVENT_WAIT_COMPLETION (R62): An event of the mask occurs, and the waiting command completes with the event bit, Field and Ledger sequence. -/
  | eventWaitCompletion (mb : Fin 16) (k : BitVec 16)
  /-- EVENT_WAIT_TIMEOUT (R62): The EVENT_WAIT timeout expires, and the command completes with E_EXPIRED. -/
  | eventWaitTimeout (mb : Fin 16) (k : BitVec 16)
  /-- STATUS_READ (R61): Writes the state of each Field, each engine and the active plan into the buffer. -/
  | statusRead (mb : Fin 16) (k : BitVec 16) (resp : BitVec 3)
  /-- TALLY_READ (R470): Writes a snapshot of the counter group, taken at one ALM edge, into the buffer. -/
  | tallyRead (mb : Fin 16) (k : BitVec 16) (resp : BitVec 3)
  /-- POWER_READ (R485): Returns the estimated draw on each VDD_ENGn. -/
  | powerRead (mb : Fin 16) (k : BitVec 16)
  /-- LINE_READ (R348): Writes 160 bytes of supervision state per zone into the buffer. -/
  | lineRead (mb : Fin 16) (k : BitVec 16) (resp : BitVec 3)
  /-- MAILBOX_GRANT (R63): Grants rights and FIELDS to a mailbox 1-15. -/
  | mailboxGrant (mb : Fin 16) (k : BitVec 16)
  /-- MAILBOX_REVOKE (R45): Ends the target's EVENT_WAIT commands, resets its rights, passes its furrows to MB00 and aborts its staging session. -/
  | mailboxRevoke (mb : Fin 16) (k : BitVec 16)
  /-- RATE_DECLARE (R64): Declares the clock rate of an ENGn or of FAB to the supervisor. -/
  | rateDeclare (mb : Fin 16) (k : BitVec 16)
  /-- FIELD_DRAIN (R21): Takes a Field to Draining, moves its furrows to other Fields and leaves it Out. -/
  | fieldDrain (mb : Fin 16) (k : BitVec 16)
  /-- FIELD_POWER_OFF (R476): Holds the pads, powers down Plot, lowers PWR_ENG_REQn and waits for PWR_ENG_OKn to fall. -/
  | fieldPowerOff (mb : Fin 16) (k : BitVec 16)
  /-- FIELD_POWER_OFF_RETAINED (R476): As power off, but with the Plot bitcells kept in retention on VDD_SRAM. -/
  | fieldPowerOffRetained (mb : Fin 16) (k : BitVec 16)
  /-- FIELD_POWER_ON (R476): Raises PWR_ENG_REQn and takes the Field to Resetting once PWR_ENG_OKn rises. -/
  | fieldPowerOn (mb : Fin 16) (k : BitVec 16)
  /-- FIELD_POWER_TIMEOUT (R476): PWR_ENG_OKn has not followed within 10 ms, and FIELD_POWER fails with E_HW with the Field left in its former state. -/
  | fieldPowerTimeout (mb : Fin 16) (k : BitVec 16)
  /-- ENGINE_RETIRE (R100): Retires an engine on host request and moves its furrows elsewhere. -/
  | engineRetire (mb : Fin 16) (k : BitVec 16)
  /-- BANK_REPAIR_RETIRE (R267): Vacates a bank, makes it RETIRED and enters it in the retirement map. -/
  | bankRepairRetire (mb : Fin 16) (k : BitVec 16)
  /-- BANK_REPAIR_REMAP (R267): Vacates a bank and repairs it by spare-row remap under the destructive test. -/
  | bankRepairRemap (mb : Fin 16) (k : BitVec 16) (failing : List Nat) (again : Bool)
  /-- RESET_COLD_COMMAND (R65): Writes the completion record, waits for its write response and starts a cold reset. -/
  | resetColdCommand (mb : Fin 16) (k : BitVec 16)
  /-- RESET_WARM_COMMAND (R65): Writes the completion record, waits for its write response and starts a warm reset. -/
  | resetWarmCommand (mb : Fin 16) (k : BitVec 16)
  /-- RESET_FIELD_COMMAND (R65): Resets one Field and completes when the Field reaches Out. -/
  | resetFieldCommand (mb : Fin 16) (k : BitVec 16)
  /-- DEBUG_CHALLENGE (R66): Returns a fresh 32-byte nonce for DEBUG_OPEN. -/
  | debugChallenge (mb : Fin 16) (k : BitVec 16) (resp : BitVec 3)
  /-- DEBUG_OPEN (R66): Verifies the signed challenge under the debug authority key and opens a debug session with the given scope. -/
  | debugOpen (mb : Fin 16) (k : BitVec 16) (buf : Reply)
  /-- DEBUG_CLOSE (R449): Ends the debug session: releases halts, clears freeze, turns off break and watch units and disables trace. -/
  | debugClose (mb : Fin 16) (k : BitVec 16)
  /-- GUARD_KEY_WRITE (R386): The correct key gives the requester an unlock; any other value removes its unlock and counts a bad key. -/
  | guardKeyWrite (rid : Rid) (v : Word)
  /-- GUARD_UNLOCK_EXPIRY (R386): An unlock ends 1 ms after its key write. -/
  | guardUnlockExpiry (rid : Rid)
  /-- SW_RESET_WARM (R388): A guarded write of SW_RESET with LEVEL 01 starts a warm reset. -/
  | swResetWarm (rid : Rid)
  /-- SW_RESET_COLD (R388): A guarded write of SW_RESET with LEVEL 10 starts a cold reset. -/
  | swResetCold (rid : Rid)
  /-- SEAL_REF_WRITE (R391): A guarded write sets the reference for the next COMMIT; in Sealed mode after the first commit it is ignored and recorded. -/
  | sealRefWrite (rid : Rid) (v : Word)
  /-- IDX_ADDR_WRITE (R395): The requester that writes IDX_ADDR takes the indirect pair and sets its address. -/
  | idxAddrWrite (rid : Rid) (p : Fin 4) (v : Word)
  /-- IDX_DATA_READ (R395): Reads the indirect word, holds the response until the data arrives, and advances the address under AINC. -/
  | idxDataRead (rid : Rid) (p : Fin 4)
  /-- IDX_DATA_WRITE (R395): Accepts an indirect write at once and sets BUSY until the write completes in its domain. -/
  | idxDataWrite (rid : Rid) (p : Fin 4) (v : Word)
  /-- IDX_WRITE_COMPLETION (R395): The indirect write completes in its destination domain, and BUSY clears. -/
  | idxWriteCompletion (p : Fin 4)
  /-- FLD_ACK_WRITE (R399): Acknowledges Field state changes and, with message routing, sends a further message when the condition still holds. -/
  | fldAckWrite (rid : Rid) (v : Word)
  /-- ALM_ACK_WRITE (R399): Acknowledges timer events and, with message routing, sends a further message when the condition still holds. -/
  | almAckWrite (rid : Rid) (i : Fin 7) (v : Word)
  /-- INTERRUPT_MESSAGE_WRITE (R399): An interrupt condition becomes true with MSG routing, and a 4-byte message write leaves through Field 0's fabric port. -/
  | interruptMessageWrite (src : Fin 22)
  /-- TB_LO_READ (R359): A host read of TB_LO samples all 64 bits of the time base for the requester. -/
  | tbLoRead (rid : Rid)
  /-- ATN_CAP_READ (R367): A read pops the older capture slot and moves the newer value into it. -/
  | atnCapRead (w : AlmParty) (n : Fin 32)
  /-- REGISTER_WRITE (R7): A write to a register with no row of its own takes effect as its Access code states. -/
  | registerWrite (rid : Rid) (addr : BitVec 20) (size : Nat) (v : Word)
  /-- START_OK (R417): Supervisor firmware writes START_OK: STARTED sets, the failed-start counter clears and a trial slot becomes active. -/
  | startOk
  /-- START_DEADLINE_EXPIRY (R417): START_OK has not been written 2 s after supervisor release, and a warm reset of cause 0xA follows. -/
  | startDeadlineExpiry
  /-- POWER_ON_DETECT (R402): VDD_CORE, VDD_SRAM or AVDD falls below its detector threshold, and a cold reset asserts. -/
  | powerOnDetect
  /-- BLK_RST_N_ASSERT (R404): A low pulse of at least 100 ns on BLK_RST_N causes a cold reset. -/
  | blkRstNAssert (ns : Nat)
  /-- SOC_BRNOUT_ASSERT (R404): SOC_BRNOUT high holds cold reset asserted. -/
  | socBrnoutAssert (high : Bool)
  /-- COLD_RESET (R406): Resets every state item of cold reach and drains nothing. -/
  | coldReset (cause : BitVec 4)
  /-- WARM_RESET (R407): Stops the supervisor, engines and movers, raises MEM_KEEP_REQ and holds the fabric ports until they drain. -/
  | warmReset (cause : BitVec 4)
  /-- FIELD_RESET (R406): Resets one Field, holds its pads, drains its fabric port and aborts its commands and bridge transfers. -/
  | fieldReset (f : Fin 4) (cause : BitVec 4)
  /-- ENGINE_RESET (R406): Resets one engine, whose furrows are lost under R101. -/
  | engineReset (g : Fin 96) (cause : BitVec 4)
  /-- FABRIC_DRAIN_COMPLETION (R291): Every fabric transaction in flight has its response or has timed out, and reset assertion may end. -/
  | fabricDrainCompletion (f : Fin 4)
  /-- RESET_RELEASE (R408): Reset releases domain by domain in the order of its reach; each step waits for the previous one. -/
  | resetRelease (t : ResetTarget) (conv : List (BitVec 6)) (defects : List (Nat × List Nat))
  /-- SUPERVISOR_BOOT (R415): The boot ROM selects a slot, reads it, checks signature, digest and rollback floor, measures it, loads the vendor microcode and runs the firmware. -/
  | supervisorBoot (img : Reply)
  /-- FALLOW_PASS_THROUGH_START (R423): Loads the Fallow set into Field 0 and starts the drills of the last-resort stream path. -/
  | fallowPassThroughStart
  /-- FALLOW_PASS_THROUGH_PACKET (R423): Each packet of the Fallow queue has its samples placed, with CTRL, into the drill frames. -/
  | fallowPassThroughPacket (data : List Byte)
  /-- RETAINED_CONFIG_APPLY (R419): After a warm or Field reset, applies a Field's retained configuration, checks the seal and returns the Field to In service with its furrows restarting. -/
  | retainedConfigApply (f : Fin 4)
  /-- SEED_PROGRAM_PULSE_COMPLETION (R409): A Seed store program pulse ends, and a reset waiting on it may proceed. -/
  | seedProgramPulseCompletion
  /-- MEM_KEEP_ACK_RISE (R479): The memory controller grants keep-alive, and warm-reset release step 3 may proceed. -/
  | memKeepAckRise
  /-- PWR_ENG_OK_CHANGE (R476): PWR_ENG_OKn follows the request: the Field enters Off on its fall, or Resetting on its rise. -/
  | pwrEngOkChange (f : Fin 4) (up : Bool)
  /-- FIELD_UNDERVOLTAGE (R477): VDD_ENGn leaves its range, or PWR_ENG_OKn falls while the Field is not Off, and the event is treated as an ENGn clock fault. -/
  | fieldUndervoltage (f : Fin 4)
  /-- DORMANT_ENTRY (R483): At an LF edge with every condition met, the Almanac enters LF mode, the supervisor stops and PWR_DORMANT_ACK rises. -/
  | dormantEntry
  /-- DORMANT_EXIT (R483): PWR_DORMANT_REQ falls or a host writes any CMD_TAIL, and the block leaves Dormant. -/
  | dormantExit
  /-- CLOCK_FAULT (R28): A clock is absent or off its rate for 2 windows, and the block records it and takes the action for that clock. -/
  | clockFault (c : Fin 10)
  /-- CLOCK_RECOVERY (R28): A faulty clock has been in range for 16 windows, and its Field or the Almanac's normal mode may resume. -/
  | clockRecovery (c : Fin 10)
  /-- LF_MODE_EXIT (R370): At an LF edge after DRL has recovered, ALM increments resume. -/
  | lfModeExit
  /-- PTP_PPS_EDGE (R357): The time base is captured and corrected by step or slew, and k is published in TB_RATE. -/
  | ptpPpsEdge (sec : BitVec 48) (valid : Bool)
  /-- PPS_HOLD_TIMEOUT (R358): PTP_PPS has been absent for 3 s, k keeps its last value and HOLD sets. -/
  | ppsHoldTimeout
  /-- TIMER_MATCH (R364): A timer increment reaches CMP: EVCNT rises, AUTO advances CMP or ONESHOT clears RUN, and the furrow, drills and host interrupt are driven. -/
  | timerMatch (n : Fin 32)
  /-- TIMER_WRITE_LANDING (R365): Writes of CMP, COUNT and PERIOD land together 2 ALM cycles after they complete. -/
  | timerWriteLanding (n : Fin 32)
  /-- ATN_CTL_WRITE (R362): Writes a timer's control, leaving frozen fields unchanged in Sealed mode, and clears the captures when RUN goes from 0 to 1. -/
  | atnCtlWrite (w : AlmParty) (n : Fin 32) (v : Word)
  /-- CAPNOW (R368): A software capture lands 2 ALM cycles after the write completes and captures the count. -/
  | capnow (w : AlmParty) (n : Fin 32)
  /-- TIMER_CAPTURE (R367): A capture source is seen at an ALM edge, and the count enters the two-slot buffer or is counted as lost in OVR. -/
  | timerCapture (n : Fin 32)
  /-- ALM_START (R363): Sets RUN at one ALM edge on every timer that the writer owns and has marked. -/
  | almStart (w : AlmParty) (mask : Word)
  /-- ALM_STOP (R363): Clears RUN at one ALM edge on every timer that the writer owns and has marked. -/
  | almStop (w : AlmParty) (mask : Word)
  /-- WDS_EXPIRY (R371): The supervisor watchdog expires and causes a warm reset of cause 0x6. -/
  | wdsExpiry
  /-- WDF_EXPIRY (R371): A Field watchdog expires and causes a Field reset. -/
  | wdfExpiry (f : Fin 4)
  /-- FIELD_HEARTBEAT (R371): The supervisor's heartbeat reaches a Field and, with every engine having passed a boundary, kicks its WDFn. -/
  | fieldHeartbeat (f : Fin 4)
  /-- WATCHDOG_FREEZE_END (R374): The last halt ends, and the watchdog reloads its full period, clears FROZEN and writes a Ledger record. -/
  | watchdogFreezeEnd (w : Fin 5)
  /-- SEAL_PASS (R393): A sealer pass completes; a mismatch raises status and events and, in Sealed mode, resets the failing Fields. -/
  | sealPass
  /-- LEDGER_RECORD_ACCEPT (R384): Each SUP cycle the Ledger takes one record from the source queues in round-robin order. -/
  | ledgerRecordAccept
  /-- QUEUE_MESSAGE (R430): A control-queue or status-queue message arrives; a message that fails its CRC is discarded unacknowledged. -/
  | queueMessage (f : Fin 4) (seq : BitVec 16) (crcOk : Bool)
  /-- QUEUE_MESSAGE_RETRY (R430): No acknowledgement has come after 4 µs: the sender repeats the message once, and a second failure resets the Field. -/
  | queueMessageRetry (f : Fin 4) (seq : BitVec 16)
  /-- LOAD_MONITOR_WINDOW (R81): Each 1 ms window closes, and the per-furrow engine loads are updated. -/
  | loadMonitorWindow (g : Fin 96) (used : List (Nat × Nat))
  /-- REBALANCE (R83): Every 100 ms the Sower moves furrows off overloaded engines and vacates lightly loaded ones. -/
  | rebalance (f : Fin 4)
  /-- DOZE_ENTRY (R84): An engine with no resident furrow enters Doze 100 µs after its last furrow leaves. -/
  | dozeEntry (g : Fin 96)
  /-- MIGRATION_PREPARE (R95): The sequencer chooses and wakes the target and reserves a context slot and Plot on it. -/
  | migrationPrepare (fid : Nat)
  /-- MIGRATION_QUIESCE (R95): The furrow is taken off the source run list at its next boundary, and blackout begins. -/
  | migrationQuiesce (fid : Nat)
  /-- MIGRATION_QUIESCE_ABORT (R95): No boundary has come within 4 µs: the move aborts, is retried after 1 ms, and is dropped after 3 aborts. -/
  | migrationQuiesceAbort (fid : Nat)
  /-- MIGRATION_CAPTURE (R95): Once the furrow's buffered stores are acknowledged, its 256-byte context is read. -/
  | migrationCapture (fid : Nat)
  /-- MIGRATION_REPOINT (R95): At the next packet boundary the ingress rings are switched or stopped and the egress queues are bound to the target. -/
  | migrationRepoint (fid : Nat)
  /-- MIGRATION_TRANSFER (R95): Whole banks are handed over, or the working set is copied by mover and bridge; a failure hands everything back. -/
  | migrationTransfer (fid : Nat) (failed : Bool)
  /-- MIGRATION_RESUME (R95): The context is written to the target slot, the furrow runs there, and the source slot and Plot are released. -/
  | migrationResume (fid : Nat) (blackoutNs : Word)
  /-- BANK_HANDOVER_COMPLETION (R252): 4 engine cycles after HANDOVER begins, the bank becomes OWNED by the target. -/
  | bankHandoverCompletion (f : Fin 4) (b : Fin 32)
  /-- PLAN_TRANSITION (R93): A failure event matches a transition, and the Sower moves, restarts or unplaces each furrow under the target plan. -/
  | planTransition (kind : BitVec 8) (subject : Fin 4)
  /-- ENGINE_RETIREMENT (R100): The Sower vacates an engine on a retirement event, turns off its clock and enters it in the retirement map. -/
  | engineRetirement (g : Fin 96) (code : Fin 8)
  /-- COLD_RESTART (R101): A lost RESTARTABLE furrow is restarted at ENTRY where the plan or placement puts it, with a new start record. -/
  | coldRestart (fid : Nat) (code : Reply)
  /-- TWIN_SELECTOR_DECISION (R86): At D_s less SEL_MARGIN, the selector chooses the local or the remote copy of frame s, or neither. -/
  | twinSelectorDecision (f : Fin 4) (hdr : Fin 41) (fid : Nat)
  /-- REMOTE_TWIN_COPY_ARRIVAL (R283): A twin frame copy arrives over the bridge and is written into the remote area, or dropped when there is no room:
copy `ord` of those that Field `src` has exported. -/
  | remoteTwinCopyArrival (f : Fin 4) (fid : Nat) (hdr : Fin 41) (src : Fin 4) (ord : Nat)
  /-- INGRESS_PACKET (R279): A packet on a stream ingress is checked, merged when MERGE applies, and written as a record into its queue's ring, or dropped. -/
  | ingressPacket (f : Fin 4) (p : Packet)
  /-- EGRESS_CREDIT_GRANT (R272): An SEn_CRED pulse adds one to the egress credit count. -/
  | egressCreditGrant (f : Fin 4)
  /-- EGRESS_FRAME_SEND (R282): At or after DUE, the egress reader sends a whole frame and advances HIDX. -/
  | egressFrameSend (f : Fin 4) (q : BitVec 8)
  /-- RING_DOORBELL (R277): A furrow store to a ring header resolves and activates the ring, publishes work or deactivates the ring. -/
  | ringDoorbell (fid : Nat) (hdr : Fin 41)
  /-- FABRIC_READ_RESPONSE (R288): Read data returns; a non-OK RESP raises vector 7 or ends the mover transfer. -/
  | fabricReadResponse (f : Fin 4) (id : BitVec 10) (r : Reply)
  /-- FABRIC_WRITE_RESPONSE (R287): A write response confirms visibility; a non-OK RESP on a buffered store becomes a pending vector-8 report. -/
  | fabricWriteResponse (f : Fin 4) (id : BitVec 10) (resp : BitVec 3)
  /-- FABRIC_TIMEOUT (R289): A transaction with no response after 1 ms completes with TIMEOUT. -/
  | fabricTimeout (f : Fin 4) (id : BitVec 10)
  /-- MOVER_DESCRIPTOR_START (R293): The mover fetches a descriptor in ring order, checks it and splits it into 4 KiB units. -/
  | moverDescriptorStart (fid : Nat)
  /-- MOVER_COMPLETION (R294): The mover writes the completion with STATUS last and raises the event when EVENT is set. -/
  | moverCompletion (fid : Nat) (idx : Word)
  /-- BRIDGE_GRANT (R12): The bridge grants one 4 KiB unit to a sending Field in round-robin order. -/
  | bridgeGrant
  /-- DRILL_WORD (R305): A drill executes one program word: fetch, shift over bit times, stash, flag and choice of the next word. One bit time
  passes for each of `pins`, the pads' input levels, as far as the word goes. -/
  | drillWord (f : Fin 4) (d : Fin 16) (pins : List Word)
  /-- DRILL_WAIT_COMPLETION (R306): The ARG condition of a WAIT word holds, and the word proceeds at the next bit-time boundary. -/
  | drillWaitCompletion (f : Fin 4) (d : Fin 16)
  /-- DRILL_STALL_END (R319): A stalled FETCH or STASH finds its whole slot, and the drill continues. -/
  | drillStallEnd (f : Fin 4) (d : Fin 16)
  /-- DRILL_PROGRAM_REWRITE (R302): The supervisor rewrites a corrected program word from the committed copy within 1 ms. -/
  | drillProgramRewrite (f : Fin 4) (a : Fin 1024)
  /-- STOP (R315): A DCTL STOP freezes the drill at the next bit-time boundary. -/
  | stop (w : DrillWriter) (d : Fin 16) (group : BitVec 16)
  /-- RESUME (R316): A DCTL RESUME continues the drill from its frozen state. -/
  | resume (w : DrillWriter) (d : Fin 16) (group : BitVec 16)
  /-- CLEAN (R316): A DCTL CLEAN empties and clears the drill and starts it from word 0. -/
  | clean (w : DrillWriter) (d : Fin 16) (group : BitVec 16)
  /-- PARK (R316): A DCTL PARK empties and clears the drill and leaves it IDLE. -/
  | park (w : DrillWriter) (d : Fin 16) (group : BitVec 16)
  /-- DRILL_RUN_REGISTER_WRITE (R314): A write of DWIN, DMODE, DDIV or DCNT is accepted or refused by drill state and service mode. -/
  | drillRunRegisterWrite (w : DrillWriter) (d : Fin 16) (r : RunReg) (v : Word)
  /-- DRX_DATA_READ (R320): A read pops the head of the RX FIFO, or sets RXUND when the FIFO is empty. -/
  | drxDataRead (w : DrillWriter) (d : Fin 16)
  /-- DTX_DATA_WRITE (R320): A write pushes a word into the TX FIFO, or sets TXOVR when the FIFO is full. -/
  | dtxDataWrite (w : DrillWriter) (d : Fin 16) (v : Word)
  /-- TX_FEEDER_FRAME (R324): The TX feeder moves a drill frame into the TX FIFO at or after DUE and advances HIDX. -/
  | txFeederFrame (f : Fin 4) (d : Fin 16)
  /-- RX_FEEDER_TRANSFER (R324): The RX feeder moves RX FIFO words into the RX ring while the ring has room. -/
  | rxFeederTransfer (f : Fin 4) (d : Fin 16)
  /-- GLEANER_SCRUB_READ (R260): Every 65,536 engine cycles the Gleaner reads the next word of each bank and control store. -/
  | gleanerScrubRead (f : Fin 4)
  /-- GLEANER_REWRITE (R259): The Gleaner rewrites a reported correctable word by an RMW at port A order 1. -/
  | gleanerRewrite (f : Fin 4) (b : Fin 32)
  /-- CONTROL_STORE_REWRITE (R217): The supervisor rewrites a corrected control-store word from its copy within 1 ms. -/
  | controlStoreRewrite (g : Fin 96) (a : BitVec 13)
  /-- HARROW_STRIPE_LEASE (R262): Once no hold or access is in flight, the Harrow leases a stripe, runs the march and restores it. -/
  | harrowStripeLease (f : Fin 4) (b : Fin 32) (failing : List Nat)
  /-- SUPERVISION_CYCLE (R335): Every 70 ms a supervision cycle starts at the SYNC frame with its seven dwells. -/
  | supervisionCycle (f : Fin 4) (obs : CycleObs)
  /-- LINE_POST3 (R346): A store to LINE_POST3 posts a four-word line record to the supervisor through the status queue. -/
  | linePost3 (g : Fin 96) (v : Word)
  /-- LINE_POST_RECEIVE (R347): The supervisor stamps and keeps the latest post of each line, updates the zone's fault bits, and raises events. -/
  | linePostReceive (f : Fin 4)
  /-- LINE_STALE_TIMEOUT (R347): Neither side has posted a line for 20 s, and STALE sets. -/
  | lineStaleTimeout (zone : Nat)
  /-- LINE_DISAGREE_TIMEOUT (R347): The two sides' FAULTS of a line have differed for 30 s, and DISAGREE sets. -/
  | lineDisagreeTimeout (zone : Nat) (line : Nat)
  /-- WALK_STEP (R350): A walk step of a zone runs from a SYNC frame and passes or fails on its dwells; `dwells` is what the ends of the zone show, cycle by
cycle. -/
  | walkStep (zone : Nat) (dwells : List (List EndObs))
  /-- WALK_YIELD (R351): Programme above -60 dBFS returns the zone's ends to normal drive within 3 ms. -/
  | walkYield (zone : Nat)
  /-- WALK_REWALK (R351): After 60 s of quiet programme, a yielded zone is walked again from W1. -/
  | walkRewalk (zone : Nat)
  /-- FIELD_WALK_TIMEOUT (R349): 4 h after its start, FIELD_WALK ends and the zones not yet walked take WALK_DEFERRED. -/
  | fieldWalkTimeout (mb : Fin 16) (k : BitVec 16)
  /-- TALLY_DUMP (R471): At each PERIOD, Tally writes the selected snapshots into the dump ring. -/
  | tallyDump
  /-- BANDWIDTH_WINDOW (R473): A bandwidth window ends, and LAST and PEAK are updated per port. -/
  | bandwidthWindow (f : Fin 4) (p : Fin 6)
  /-- TALLY_SAMPLE (R472): Every SPERIOD-th event is attributed to its word and emitted as a SAMPLE packet and a ring record. -/
  | tallySample (g : Fin 96) (pc : Word) (latency : Nat)
  /-- AGING_MEASUREMENT (R488): The aging monitor measures slack and, below the limit twice in a row, retires the engine. -/
  | agingMeasurement (g : Fin 96) (slack : Nat)
  /-- HALT (R455): ERC_CTL HALT halts the engine or the supervisor at its next boundary. -/
  | halt (t : RunTarget)
  /-- RUN (R456): ERC_CTL RUN releases the halt. -/
  | run (t : RunTarget)
  /-- STEP (R456): ERC_CTL STEP executes one instruction word and halts with CAUSE 2. -/
  | step (t : RunTarget)
  /-- ERC_RDATA_WRITE (R454): Writes the selected register of the halted engine's furrow, with segment images checked. -/
  | ercRdataWrite (t : RunTarget) (v : Word)
  /-- DEBUG_RESET_ENGINE (R403): DBG_RESET LEVEL 1 resets an engine, within the session's scope. -/
  | debugResetEngine (g : Fin 96)
  /-- DEBUG_RESET_FIELD (R403): DBG_RESET LEVEL 2 resets a Field, within the session's scope. -/
  | debugResetField (f : Fin 4)
  /-- DEBUG_RESET_WARM (R403): DBG_RESET LEVEL 3 causes a warm reset, within the session's scope. -/
  | debugResetWarm
  /-- DEBUG_RESET_COLD (R403): DBG_RESET LEVEL 4 causes a cold reset, within the session's scope. -/
  | debugResetCold
  /-- DMM_READ (R462): The debug memory master reads one word of Plot, control store or supervisor SRAM. -/
  | dmmRead
  /-- DMM_WRITE (R462): The debug memory master writes one Plot word and records the write in the Ledger. -/
  | dmmWrite
  /-- PROV_CMD (R437): Programs the selected write-once key into the Seed store. -/
  | provCmd (v : Word)
  /-- DBG_FREEZE_WRITE (R463): Selects freeze options and sets each watchdog's FREEZE bit. -/
  | dbgFreezeWrite (v : Word)
  /-- BW_CTL_WRITE (R460): Configures a break or watch unit and clears ARMED. -/
  | bwCtlWrite (f : Fin 4) (u : Fin 8) (v : Word)
  /-- EXCEPTION_ENTRY (R201): At a boundary the engine reads the descriptor, switches stack when needed, pushes the 12-word frame and enters the handler. -/
  | exceptionEntry (g : Fin 96)
  /-- HEADLAND_HANDLER (R211): The headland handler writes a slot, removes the furrow and has it restarted or left FAILED. -/
  | headlandHandler (g : Fin 96)
  /-- FURROW_SWITCH (R79): At a boundary the engine switches furrows, saving and restoring context and Sheaf state. -/
  | furrowSwitch (g : Fin 96)
  /-- TIME_SLICE_EXPIRY (R79): A furrow has run for 4 µs while another of equal or higher priority is ready. -/
  | timeSliceExpiry (g : Fin 96)
  /-- BANK_HOLD_TIMEOUT (R130): 64 engine cycles after the grant, the hold breaks and HB sets. -/
  | bankHoldTimeout (g : Fin 96)
  /-- CUSTOMER_WATCHDOG_EXPIRY (R238): The customer watchdog reaches 1,024 and raises vector 14. -/
  | customerWatchdogExpiry (g : Fin 96)
  /-- TIME_LO_READ (R116): A furrow read of TIME_LO samples all 64 bits of the time base into its context. -/
  | timeLoRead (g : Fin 96)
  /-- LDA (R147): A = operand. -/
  | lda (g : Fin 96) (gd : Guard) (x : BitVec 19)
  /-- LDAS (R147): A = operand, sign-extended. -/
  | ldas (g : Fin 96) (gd : Guard) (x : BitVec 19)
  /-- LDX (R147): X = operand. -/
  | ldx (g : Fin 96) (gd : Guard) (x : BitVec 19)
  /-- LDXS (R147): X = operand, sign-extended. -/
  | ldxs (g : Fin 96) (gd : Guard) (x : BitVec 19)
  /-- LDY (R147): Y = operand. -/
  | ldy (g : Fin 96) (gd : Guard) (x : BitVec 19)
  /-- LDYS (R147): Y = operand, sign-extended. -/
  | ldys (g : Fin 96) (gd : Guard) (x : BitVec 19)
  /-- LDSP (R147): SP = operand. -/
  | ldsp (g : Fin 96) (gd : Guard) (x : BitVec 19)
  /-- LDAH (R147): A = IMM shifted left by 15. -/
  | ldah (g : Fin 96) (gd : Guard) (x : BitVec 19)
  /-- STA (R147): Stores A. -/
  | sta (g : Fin 96) (gd : Guard) (x : BitVec 19)
  /-- STX (R147): Stores X. -/
  | stx (g : Fin 96) (gd : Guard) (x : BitVec 19)
  /-- STY (R147): Stores Y. -/
  | sty (g : Fin 96) (gd : Guard) (x : BitVec 19)
  /-- STSP (R147): Stores SP. -/
  | stsp (g : Fin 96) (gd : Guard) (x : BitVec 19)
  /-- ADD (R148): A = A + operand, setting flags. -/
  | add (g : Fin 96) (gd : Guard) (x : BitVec 19)
  /-- ADC (R148): A = A + operand + C. -/
  | adc (g : Fin 96) (gd : Guard) (x : BitVec 19)
  /-- SUB (R148): A = A - operand. -/
  | sub (g : Fin 96) (gd : Guard) (x : BitVec 19)
  /-- SBC (R148): A = A - operand - (1 - C). -/
  | sbc (g : Fin 96) (gd : Guard) (x : BitVec 19)
  /-- AND (R148): A = A and operand. -/
  | and (g : Fin 96) (gd : Guard) (x : BitVec 19)
  /-- OR (R148): A = A or operand. -/
  | or (g : Fin 96) (gd : Guard) (x : BitVec 19)
  /-- XOR (R148): A = A xor operand. -/
  | xor (g : Fin 96) (gd : Guard) (x : BitVec 19)
  /-- CMP (R148): Sets the flags of A - operand. -/
  | cmp (g : Fin 96) (gd : Guard) (x : BitVec 19)
  /-- TST (R148): Sets the flags of A and operand. -/
  | tst (g : Fin 96) (gd : Guard) (x : BitVec 19)
  /-- MUL (R148): A = low 32 bits of A x operand. -/
  | mul (g : Fin 96) (gd : Guard) (x : BitVec 19)
  /-- MULH (R148): A = high 32 bits of the signed product. -/
  | mulh (g : Fin 96) (gd : Guard) (x : BitVec 19)
  /-- MULHU (R148): A = high 32 bits of the unsigned product. -/
  | mulhu (g : Fin 96) (gd : Guard) (x : BitVec 19)
  /-- DIV (R149): Signed division, truncated toward 0. -/
  | div (g : Fin 96) (gd : Guard) (x : BitVec 19)
  /-- DIVU (R149): Unsigned division. -/
  | divu (g : Fin 96) (gd : Guard) (x : BitVec 19)
  /-- REM (R149): Signed remainder. -/
  | rem (g : Fin 96) (gd : Guard) (x : BitVec 19)
  /-- REMU (R149): Unsigned remainder. -/
  | remu (g : Fin 96) (gd : Guard) (x : BitVec 19)
  /-- SHL (R149): Logical shift left. -/
  | shl (g : Fin 96) (gd : Guard) (x : BitVec 19)
  /-- SHR (R149): Logical shift right. -/
  | shr (g : Fin 96) (gd : Guard) (x : BitVec 19)
  /-- SAR (R149): Arithmetic shift right. -/
  | sar (g : Fin 96) (gd : Guard) (x : BitVec 19)
  /-- ROR (R149): Rotate right. -/
  | ror (g : Fin 96) (gd : Guard) (x : BitVec 19)
  /-- ADDX (R150): X = X + operand. -/
  | addx (g : Fin 96) (gd : Guard) (x : BitVec 19)
  /-- ADDY (R150): Y = Y + operand. -/
  | addy (g : Fin 96) (gd : Guard) (x : BitVec 19)
  /-- CMPX (R150): Sets the flags of X - operand. -/
  | cmpx (g : Fin 96) (gd : Guard) (x : BitVec 19)
  /-- CMPY (R150): Sets the flags of Y - operand. -/
  | cmpy (g : Fin 96) (gd : Guard) (x : BitVec 19)
  /-- PSET (R150): Combines a flag condition into a predicate. -/
  | pset (g : Fin 96) (gd : Guard) (x : BitVec 19)
  /-- PLD (R150): Loads P1-P7. -/
  | pld (g : Fin 96) (gd : Guard) (x : BitVec 19)
  /-- PST (R150): Stores the predicate image. -/
  | pst (g : Fin 96) (gd : Guard) (x : BitVec 19)
  /-- ADDSP (R150): SP = SP + IMM. -/
  | addsp (g : Fin 96) (gd : Guard) (x : BitVec 19)
  /-- BR (R151): Branches relative or to a loaded word. -/
  | br (g : Fin 96) (gd : Guard) (x : BitVec 19)
  /-- CALL (R152): Pushes a masked frame and calls a relative target. -/
  | call (g : Fin 96) (gd : Guard) (x : BitVec 19)
  /-- CALLF (R152): Pushes a frame and calls a 256-byte-aligned target. -/
  | callf (g : Fin 96) (gd : Guard) (x : BitVec 19)
  /-- CALLI (R152): Pushes a frame and calls the target in Y. -/
  | calli (g : Fin 96) (gd : Guard) (x : BitVec 19)
  /-- RETM (R126): Checks and restores a call frame and returns. -/
  | retm (g : Fin 96) (gd : Guard) (x : BitVec 19)
  /-- RETX (R213): Checks and restores an exception frame and returns. -/
  | retx (g : Fin 96) (gd : Guard) (x : BitVec 19)
  /-- TRAP (R151): Raises vector 32 + t. -/
  | trap (g : Fin 96) (gd : Guard) (x : BitVec 19)
  /-- BRK (R152): Raises vector 12, or halts under BRKHALT. -/
  | brk (g : Fin 96) (gd : Guard) (x : BitVec 19)
  /-- SLD (R153): Loads a checked 128-bit segment image into Ss. -/
  | sld (g : Fin 96) (gd : Guard) (s : Fin 8) (x : BitVec 19)
  /-- SST (R153): Stores the image of Ss. -/
  | sst (g : Fin 96) (gd : Guard) (s : Fin 8) (x : BitVec 19)
  /-- MFPSW (R153): A = PSW. -/
  | mfpsw (g : Fin 96) (gd : Guard) (x : BitVec 19)
  /-- MTPSW (R105): Writes PSW field by field under privilege. -/
  | mtpsw (g : Fin 96) (gd : Guard) (x : BitVec 19)
  /-- RDPROG (R153): A = a word of PROG. -/
  | rdprog (g : Fin 96) (gd : Guard) (x : BitVec 19)
  /-- WRPROG (R153): Writes a word of PROG from A. -/
  | wrprog (g : Fin 96) (gd : Guard) (x : BitVec 19)
  /-- MBAR (R207): Waits until every earlier access of the furrow is acknowledged, with a boundary at every cycle of the wait. -/
  | mbar (g : Fin 96) (gd : Guard) (x : BitVec 19)
  /-- EVWAIT (R155): Yields, returns the pending sources, or waits for an event source. -/
  | evwait (g : Fin 96) (gd : Guard) (x : BitVec 19)
  /-- BANKHOLD (R129): Puts a hold in force on port B of the addressed bank. -/
  | bankhold (g : Fin 96) (gd : Guard) (x : BitVec 19)
  /-- BANKFREE (R130): Ends the bank hold. -/
  | bankfree (g : Fin 96) (gd : Guard) (x : BitVec 19)
  /-- AADD (R257): Atomic add at the bank, returning the old value. -/
  | aadd (g : Fin 96) (gd : Guard) (x : BitVec 19)
  /-- ASWAP (R157): Atomic swap at the bank, returning the old value. -/
  | aswap (g : Fin 96) (gd : Guard) (x : BitVec 19)
  /-- BMOVE (R174): Block move, interruptible and resumed from PROG. -/
  | bmove (g : Fin 96) (gd : Guard) (x : BitVec 19)
  /-- BFILL (R173): Block fill. -/
  | bfill (g : Fin 96) (gd : Guard) (x : BitVec 19)
  /-- BCMP (R175): Block compare, stopping at the first difference. -/
  | bcmp (g : Fin 96) (gd : Guard) (x : BitVec 19)
  /-- CRC32C (R176): Runs the CRC register in A over n bytes. -/
  | crc32c (g : Fin 96) (gd : Guard) (x : BitVec 19)
  /-- VCLR (R184): Clears the selected V registers and, optionally, the accumulators. -/
  | vclr (g : Fin 96) (gd : Guard) (x : BitVec 19)
  /-- VSPLAT (R184): Sets every lane of V[D] to A. -/
  | vsplat (g : Fin 96) (gd : Guard) (x : BitVec 19)
  /-- VEXT (R184): A = one lane of V[S]. -/
  | vext (g : Fin 96) (gd : Guard) (x : BitVec 19)
  /-- VINS (R184): Sets one lane of V[D] to A. -/
  | vins (g : Fin 96) (gd : Guard) (x : BitVec 19)
  /-- VACC (R182): Reads out the accumulators into V[D] with shift and rounding. -/
  | vacc (g : Fin 96) (gd : Guard) (x : BitVec 19)
  /-- VOP_ADDS (R185): Lane saturating add. -/
  | vopAdds (g : Fin 96) (gd : Guard) (x : BitVec 19)
  /-- VOP_SUBS (R185): Lane saturating subtract. -/
  | vopSubs (g : Fin 96) (gd : Guard) (x : BitVec 19)
  /-- VOP_MIN (R185): Lane signed minimum. -/
  | vopMin (g : Fin 96) (gd : Guard) (x : BitVec 19)
  /-- VOP_MAX (R185): Lane signed maximum. -/
  | vopMax (g : Fin 96) (gd : Guard) (x : BitVec 19)
  /-- VOP_MULQ (R185): Lane Q31 multiply, rounded and saturated. -/
  | vopMulq (g : Fin 96) (gd : Guard) (x : BitVec 19)
  /-- VOP_AND (R185): Lane and. -/
  | vopAnd (g : Fin 96) (gd : Guard) (x : BitVec 19)
  /-- VOP_OR (R185): Lane or. -/
  | vopOr (g : Fin 96) (gd : Guard) (x : BitVec 19)
  /-- VOP_XOR (R185): Lane xor. -/
  | vopXor (g : Fin 96) (gd : Guard) (x : BitVec 19)
  /-- VOP_ADD (R185): Lane add modulo 2^32. -/
  | vopAdd (g : Fin 96) (gd : Guard) (x : BitVec 19)
  /-- VOP_SUB (R185): Lane subtract modulo 2^32. -/
  | vopSub (g : Fin 96) (gd : Guard) (x : BitVec 19)
  /-- VOP_NEG (R185): Lane saturating negate. -/
  | vopNeg (g : Fin 96) (gd : Guard) (x : BitVec 19)
  /-- VOP_ABS (R185): Lane saturating absolute value. -/
  | vopAbs (g : Fin 96) (gd : Guard) (x : BitVec 19)
  /-- VMFS (R184): A = SHST or SHSAVE. -/
  | vmfs (g : Fin 96) (gd : Guard) (x : BitVec 19)
  /-- VMTS (R178): Writes SHST, or a checked SHSAVE. -/
  | vmts (g : Fin 96) (gd : Guard) (x : BitVec 19)
  /-- LOADV (R186): VXFER OPK 0: loads vectors into V registers. -/
  | loadv (g : Fin 96) (gd : Guard) (x : BitVec 19)
  /-- STOREV (R186): VXFER OPK 1: stores V registers. -/
  | storev (g : Fin 96) (gd : Guard) (x : BitVec 19)
  /-- CONVIN (R186): VXFER OPK 2: converts vectors to W32. -/
  | convin (g : Fin 96) (gd : Guard) (x : BitVec 19)
  /-- CONVOUT (R186): VXFER OPK 3: converts W32 vectors to format F. -/
  | convout (g : Fin 96) (gd : Guard) (x : BitVec 19)
  /-- LOADACC (R186): VXFER OPK 4: loads the accumulators. -/
  | loadacc (g : Fin 96) (gd : Guard) (x : BitVec 19)
  /-- STOREACC (R186): VXFER OPK 5: stores the accumulators. -/
  | storeacc (g : Fin 96) (gd : Guard) (x : BitVec 19)
  /-- VMAC (R187): Multiply-accumulate steps with cyclic coefficient registers. -/
  | vmac (g : Fin 96) (gd : Guard) (x : BitVec 19)
  /-- VMIX (R188): Indexed multiply-accumulate of input vectors by gains. -/
  | vmix (g : Fin 96) (gd : Guard) (x : BitVec 19)
  /-- VFIR (R189): FIR filter over output vectors with stride. -/
  | vfir (g : Fin 96) (gd : Guard) (x : BitVec 19)
  /-- CUSTOMER_INSTRUCTION (R162): Dispatches a customer opcode, 0xE0-0xFF, to its microcode routine. A reserved opcode comes as this
  command too (log 66, DESIGN CHOICE). -/
  | customerInstruction (g : Fin 96) (gd : Guard) (op : BitVec 8) (x : BitVec 19)
  /-- PAIRED_WORD (R140): Executes two short slots together, committing or faulting as one word. -/
  | pairedWord (g : Fin 96) (w : BitVec 31)
  /-- VBAK_LOSS (R412): VBAK falls below its own detector threshold; the always-on island loses its contents and restarts with all three counters at 0. -/
  | vbakLoss
  /-- SUPERVISOR_CRITICAL_ERROR (R433): A lockstep mismatch, an uncorrectable supervisor ROM or SRAM word, or a supervisor residue or copy mismatch stops the supervisor and asserts a warm reset of cause 0x7, 0x8 or 0x9. -/
  | supervisorCriticalError (kind : Fin 3)
  /-- TIME_BASE_INCREMENT (R356): At each ALM cycle, or at each LF cycle in LF mode, the time base advances by INC and running timers and watchdogs count. -/
  | timeBaseIncrement
  /-- TRACE_PORT_TRANSFER (R464): While TRC_READY is 1, the trace port moves one word per DBG cycle from the trace buffers to TRC_DATA, taking whole packets in round-robin order. -/
  | tracePortTransfer
  /-- REGISTER_READ (R29): A host or debug read of a Field window of a Field that is Off or Resetting, of the debug-only space, or of a wrong size returns 0 or an error response and writes a Ledger record. -/
  | registerRead (rid : Rid) (addr : BitVec 20) (size : Nat)
  /-- BOOT_READ_RETRY (R415): The boot ROM repeats a failed read of the boot slot every 10 ms until it succeeds. -/
  | bootReadRetry (img : Reply)
  /-- HARDWARE_READER_SCRUB (R489): Every 10 ms the hardware readers read every entry of the dispatch tables and Sower tables, correcting or detecting errors under R428. -/
  | hardwareReaderScrub
  /-- SOWER_TABLE_REWRITE (R428): The supervisor rewrites an uncorrectable Sower table entry from its retained copy within 1 ms, and the Sower resumes its actions in the Field. -/
  | sowerTableRewrite (f : Fin 4)
  /-- ESCALATION_RUN_END (R211): A furrow's escalation run ends 1 s after the cold restart that its first escalation caused. -/
  | escalationRunEnd (fid : Nat)
  /-- DEBUG_NONCE_EXPIRY (R66): A debug challenge nonce expires 60 s after issue, after which DEBUG_OPEN with it fails with E_EXPIRED. -/
  | debugNonceExpiry
  /-- PPS_EDGE_TIMEOUT (R359): No PTP_PPS edge has been seen for 1.5 s, and TB_STAT.PPS falls. -/
  | ppsEdgeTimeout
  deriving DecidableEq, Repr

end Sys2Proof
end

