-- ==== Sys2Proof/Decode.lean ====
section
/-! DEFINITION. The command a word spells by the bits of the opcode table. No row of the table has bits (log 1, DESIGN CHOICE). -/

namespace Sys2Proof

/-- No row gives bits, so no word spells a command (log 1, DESIGN CHOICE). -/
def decodeTableWord (_nbits _w : Nat) : Option Instr := none

end Sys2Proof
end

