-- ==== Sys2Proof/Machine/Bits.lean ====
section
/-! DEFINITION. Bit fields, byte order, CRC-32C and pointwise updates: what every family shares. -/

namespace Sys2Proof.Machine

/-- Bit of a Bool as a bit vector of width w. -/
def bit (w : Nat) (b : Bool) : BitVec w := if b then 1 else 0

/-- The n bits of w from bit lo on. -/
def bits {m : Nat} (w : BitVec m) (lo n : Nat) : BitVec n := w.extractLsb' lo n

/-- The n bits of w from bit lo on, as a number. -/
def fieldN {m : Nat} (w : BitVec m) (lo n : Nat) : Nat := (w.extractLsb' lo n).toNat

/-- w with the n bits from lo on replaced by v. -/
def insertBits {m n : Nat} (w : BitVec m) (lo : Nat) (v : BitVec n) : BitVec m :=
  (w &&& ~~~((BitVec.allOnes n).setWidth m <<< lo)) ||| (v.setWidth m <<< lo)

/-- A natural number as a word. -/
def nw (n : Nat) : Word := BitVec.ofNat 32 n

/-- Byte i of a byte list; 0 past its end. -/
def byteAt (l : List Byte) (i : Nat) : Byte := l.getD i 0

/-- Little-endian 16-bit value at byte i (R117). -/
def le16 (l : List Byte) (i : Nat) : BitVec 16 := byteAt l (i + 1) ++ byteAt l i

/-- Little-endian word at byte i (R117). -/
def le32 (l : List Byte) (i : Nat) : Word :=
  byteAt l (i + 3) ++ byteAt l (i + 2) ++ byteAt l (i + 1) ++ byteAt l i

/-- Little-endian 64-bit value at byte i (R117). -/
def le64 (l : List Byte) (i : Nat) : DWord := le32 l (i + 4) ++ le32 l i

/-- The bytes of a 16-bit value, little-endian. -/
def bytes16 (w : BitVec 16) : List Byte := [bits w 0 8, bits w 8 8]

/-- The bytes of a word, little-endian (R117). -/
def bytes32 (w : Word) : List Byte := [bits w 0 8, bits w 8 8, bits w 16 8, bits w 24 8]

/-- The bytes of a 64-bit value, little-endian. -/
def bytes64 (w : DWord) : List Byte := bytes32 (bits w 0 32) ++ bytes32 (bits w 32 32)

/-- The bytes of a list of words. -/
def bytesOf (l : List Word) : List Byte := l.flatMap bytes32

/-- The n words of a byte list from byte i on. -/
def wordsAt (l : List Byte) (i : Nat) : Nat → List Word
  | 0 => []
  | n + 1 => le32 l i :: wordsAt l (i + 4) n

/-- n bytes of a list from byte i on, zeros past its end. -/
def bytesAt (l : List Byte) (i : Nat) : Nat → List Byte
  | 0 => []
  | n + 1 => byteAt l i :: bytesAt l (i + 1) n

/-- The 48 bytes of a digest, big-endian (R416). -/
def digestBytes (x : BitVec 384) : List Byte := (List.range 48).map fun i => bits x (376 - 8 * i) 8

/-- One bit step of CRC-32C, reflected polynomial 0x82F63B78 (R47). -/
def crcBit (c : Word) : Word := if c.getLsbD 0 then (c >>> 1) ^^^ 0x82F63B78#32 else c >>> 1

/-- The CRC register after one byte, no inversion (R47, R176). -/
def crcByte (c : Word) (b : Byte) : Word :=
  crcBit (crcBit (crcBit (crcBit (crcBit (crcBit (crcBit (crcBit (c ^^^ b.setWidth 32))))))))

/-- CRC-32C of a byte string: initial value and final inversion 0xFFFFFFFF (R47). -/
def crc32cOf (l : List Byte) : Word := ~~~(l.foldl crcByte 0xFFFFFFFF#32)

/-- Every member of Fin n, ascending. -/
def allFin (n : Nat) : List (Fin n) := List.finRange n

/-- Each member of a vector rewritten by its index. -/
def vmap {α : Type} {n : Nat} (f : Fin n → α → α) (v : Vector α n) : Vector α n :=
  Vector.ofFn fun i => f i v[i]

/-- Member i of a vector rewritten. -/
def vupd {α : Type} {n : Nat} (v : Vector α n) (i : Fin n) (f : α → α) : Vector α n := v.set i (f v[i])

/-- Whether a 32-bit byte address is aligned to n. -/
def alignedTo (n : Nat) (a : Word) : Bool := a.toNat % n == 0

/-- The whole of n divided by d, rounded up. -/
def ceilDiv (n d : Nat) : Nat := (n + d - 1) / d

/-- The first member of a list that satisfies p, with the list without it. -/
def takeFirst {α : Type} (p : α → Bool) : List α → Option (α × List α)
  | [] => none
  | x :: l => if p x then some (x, l) else (takeFirst p l).map fun r => (r.1, x :: r.2)

/-- Every member that satisfies p rewritten. -/
def updWhere {α : Type} (p : α → Bool) (f : α → α) (l : List α) : List α :=
  l.map fun x => if p x then f x else x

/-- The members of l sorted by a key, equal keys in their order in l. -/
def sortBy {α : Type} (le : α → α → Bool) (l : List α) : List α :=
  l.foldr (fun x r => r.takeWhile (fun y => !le x y) ++ x :: r.dropWhile (fun y => !le x y)) []

/-- Lexicographic order of byte strings as unsigned numbers from byte 0 (R390). -/
def bytesLe : List Byte → List Byte → Bool
  | [], _ => true
  | _ :: _, [] => false
  | a :: l, b :: r => if a = b then bytesLe l r else decide (a.toNat < b.toNat)

end Sys2Proof.Machine
end

