-- ==== Sys2Proof/Machine/Sparse.lean ====
section
/-! DEFINITION. Sparse data by key in one canonical form: keys strictly rising (log 8, DESIGN CHOICE). -/

namespace Sys2Proof.Machine

/-- What the map lists at k. -/
def mapFind {α : Type} (k : Nat) : List (Nat × α) → Option α
  | [] => none
  | (j, v) :: l => if k = j then some v else mapFind k l

/-- The map with k listed as o says, or not listed. -/
def mapPut {α : Type} (k : Nat) (o : Option α) : List (Nat × α) → List (Nat × α)
  | [] => match o with
    | some v => [(k, v)]
    | none => []
  | (j, w) :: l =>
    if k < j then
      match o with
      | some v => (k, v) :: (j, w) :: l
      | none => (j, w) :: l
    else if k = j then
      match o with
      | some v => (k, v) :: l
      | none => l
    else (j, w) :: mapPut k o l

/-- The value at k, or d. -/
def mapGet {α : Type} (d : α) (k : Nat) (l : List (Nat × α)) : α := (mapFind k l).getD d

/-- The map with v at k; the value d is not listed. -/
def mapSet {α : Type} [DecidableEq α] (d : α) (k : Nat) (v : α) (l : List (Nat × α)) : List (Nat × α) :=
  mapPut k (if v = d then none else some v) l

/-- Keys strictly rising. -/
abbrev mapSorted {α : Type} (l : List (Nat × α)) : Prop := (l.map Prod.fst).Pairwise (· < ·)

end Sys2Proof.Machine
end

