-- ==== Sys2Proof/Config.lean ====
section
/-! DEFINITION. What a device or an integrator fixes, and the values the manual leaves open: constants
with no body, so that no proof can see a value of theirs (logs 9, 10, 11, 17, 18, 20, 21, 23, 76, DESIGN CHOICE and PRESUMED). -/

namespace Sys2Proof.Config

/-- The free values: value number n of width w (log 9, DESIGN CHOICE). R4, R191, R235, R288 and others. -/
opaque freeBits (w : Nat) : Nat → BitVec w
/-- A byte of Plot that nothing has written since its bank lost its contents for the n-th time (R23, R406). -/
opaque lostByte : Nat → Nat → Byte
/-- Tie-off FSIDn of a Field: the stream identifier of its fabric requests (R15, R286). -/
opaque fsid : Nat → BitVec 16
/-- Tie-off SUP_SID: the stream identifier of the supervisor's fabric requests (R15, R286). -/
opaque supSid : BitVec 16
/-- First microword of the vendor routine of a long opcode (R232); it lies in the vendor region (log 76, DESIGN CHOICE). -/
opaque vendorAddr : Nat → Fin 7168
/-- Vendor microwords that the routines of an instruction word run through (R217, R219). -/
opaque routine : BitVec 32 → List Nat
/-- Whether the vendor routine of an instruction word ends with EOI (R216, R226). -/
opaque endsEoi : BitVec 32 → Bool
/-- DEVID (R379, R438). -/
opaque devId : DWord
/-- Device certificate chain, DER (R436). -/
opaque certChain : List Byte
/-- Digest of the boot ROM (R416). -/
opaque romDigest : BitVec 384
/-- Version of the ROM firmware of Fallow mode (R441). -/
opaque romVersion : BitVec 16
/-- SHA-384 of a byte string (R416, R434, R239). -/
opaque sha384 : List Byte → BitVec 384
/-- ECDSA P-384 verification: key, digest, signature of 96 bytes (R66, R239, R434). -/
opaque ecdsaVerify : List Byte → BitVec 384 → List Byte → Bool
/-- The key unit's deterministic signature over bytes 0-527 of a report (R439, R441). -/
opaque reportSign : List Byte → List Byte
/-- Whether 96 bytes are a valid point of the P-384 curve (R437). -/
opaque validPoint : List Byte → Bool
/-- The debug nonce drawn at the n-th challenge (R66). -/
opaque nonce : Nat → List Byte
/-- Caerilner firmware key, 96 bytes (R436). -/
opaque caerilnerKey : List Byte
/-- Layout of the STATUS_READ buffer, of the field, engine and plan codes (R61). -/
opaque statusImage : List Nat → List Byte
/-- Layout of the VERSIONS buffer, of build, digest bits and CS_VER words (R53). -/
opaque versionsImage : List Nat → List Byte
/-- Result r of IMAGE_QUERY for a target, from the builds, digests and boot record fields that stand (R59). -/
opaque imageAnswer : Nat → Nat → List Nat → Word
/-- Word of the Seed store's public half at an offset, from its maps and keys (R396). -/
opaque seedWord : List Nat → Nat → Word
/-- POWER_READ estimate in mW of a Field, from the awake engines and the declared rate (R485). -/
opaque powerEstimate : Nat → Nat → Word
/-- Servo law: the rate correction k, before its clamp, that supervisor firmware takes from a capture
and the PTP second (R357, R358). -/
opaque servoRate : DWord → Word → Int
/-- Slew part of INC at an edge, in units of 2^-40 of the nominal rate, before its clamp (R357). -/
opaque servoSlew : DWord → Word → Int
/-- Impedance in Q16.16 ohms from the sense words, pilot, VFS and IFS (R340). -/
opaque zmag : List Word → List Word → Nat → Nat → Nat → Nat
/-- 2|ip|/480 below 2^-16 (R341). -/
opaque lowCurrent : List Word → Nat → Bool
/-- Pilot of one end in units of 1/65,536 of the other end's, from the sense words of a dwell, fp, VFS, VLINE and the pilot level in dB below
the line level (R336, R340, R350). -/
opaque vbFrac : List Word → Nat → Nat → Nat → Nat → Nat
/-- Whether the programme of a dwell stands at -40 dBFS rms or above (R345). -/
opaque programmeLoud : List Word → Bool
/-- Gain K of a programme estimate, in mV per full scale, from sense words, programme and VFS (R345). -/
opaque gainProgramme : List Word → List Word → Nat → Nat
/-- Gain K of a pilot estimate, in mV per full scale, from sense words, pilot frequency, VFS and the pilot level in dB below the line level
(R345). -/
opaque gainPilot : List Word → Nat → Nat → Nat → Nat
/-- 20 log10 of a gain over the nominal gain of a VLINE, in 0.1 dB (R345). -/
opaque gainDev : Nat → Nat → Int
/-- Whether a gain lies beyond 3 dB of the nominal gain of a VLINE (R341). -/
opaque gainBeyond : Nat → Nat → Bool
/-- Pilot scale in 0.1 dB that the latest pilot estimates ask for at a VLINE (R345). -/
opaque pilotScale : List Nat → Nat → Int

end Sys2Proof.Config
end

