-- ==== Sys2Proof/Machine/State.lean ====
section
/-! DEFINITION. The state of the block as plain data: every register, buffer, table and mode the manual
names, and the queue of commands that wait. Reset values are those of the Reset columns at cold reset
(R8); where the manual gives none, the value is the one its log entry names (log 14, DESIGN CHOICE). -/

namespace Sys2Proof.Machine

/-- The block stops on no command: no constructor is raised by any meaning. Errors of the manual are
effects on the state (error codes, Ledger records, vectors, resets). -/
inductive Fault where
  /-- Raised by nothing; safe. It keeps the type inhabited for the host's interface. -/
  | none
  deriving DecidableEq, Repr

/-- Why a command has no meaning. -/
inductive Refusal where
  /-- Raised by exec's arms of commands without a meaning; safe. -/
  | notModelled (mnemonic : String)
  deriving DecidableEq, Repr

/-- Codes of FLD_STATE (R20, R379). -/
inductive FieldSt where
  | inService | draining | out | off | resetting
  deriving DecidableEq, Repr

/-- Codes of ENG_STAT.STATE (R400). -/
inductive EngSt where
  | awake | doze | halted | stuck | retired
  deriving DecidableEq, Repr

/-- Furrow states (R78). -/
inductive FurrowSt where
  | created | running | stopped | moving | unplaced | failed
  deriving DecidableEq, Repr

/-- Bank states of BANK_OWN (R250). -/
inductive BankSt where
  | free | owned | handover | harrow | retired
  deriving DecidableEq, Repr

/-- Drill states of DSTAT (R311). -/
inductive DrillSt where
  | idle | running | waiting | stalled | stopped | frozen
  deriving DecidableEq, Repr

/-- Migration sequencer states (R95). -/
inductive MigSt where
  | prepare | quiesce | capture | repoint | transfer | resume
  deriving DecidableEq, Repr

/-- Status of a coded word: a correctable error, an uncorrectable one, a poisoned one (R258, R259, R428). -/
inductive EccSt where
  | corr | uncorr | poison
  deriving DecidableEq, Repr

/-- Segment register (R107); its reserved bits read 0 (R109). -/
structure Seg where
  base : BitVec 48
  limit : Word
  r : Bool
  w : Bool
  x : Bool
  sup : Bool
  tgt : Bool
  deriving DecidableEq, Repr

/-- Pending vector-8 report (R206). -/
structure Rep8 where
  off : Word
  seg : BitVec 3
  seq : BitVec 16
  more : BitVec 3
  deriving DecidableEq, Repr

/-- A furrow's context (R79, R102): registers as at a boundary. `p` is the predicate image of R125,
`ldv` the old value of R123, `lvl8`, `irqLvl`, `irqArm` the copies of R195, `nosample` the suppression of
R200, `latched` the latched event sources of R154. -/
structure Ctx where
  a : Word
  x : Word
  y : Word
  sp : Word
  pc : Word
  psw : Word
  p : BitVec 8
  seg : Vector Seg 8
  prog0 : Word
  prog1 : Word
  ldv : Word
  excBase : Word
  lvl8 : BitVec 3
  irqLvl : Vector (BitVec 3) 12
  irqArm : BitVec 12
  timeSample : DWord
  storeSeq : BitVec 16
  rep8 : Option Rep8
  nosample : Bool
  latched : BitVec 16
  shsave : Word
  deriving DecidableEq, Repr

/-- Sheaf state of the furrow on the engine (R177); `dirty` is condition 25 of R230. -/
structure Sheaf where
  v : Vector (Vector Word 16) 8
  acc : Vector DWord 16
  shst : Word
  dirty : Bool
  deriving DecidableEq, Repr

/-- A fault or trap of a word, as R202 and R203 report it. -/
structure EngFault where
  vector : BitVec 6
  pc : Word
  addr : Word
  slot : Bool
  seg : BitVec 3
  fetch : Bool
  write : Bool
  more : BitVec 3
  detail : BitVec 16
  deriving DecidableEq, Repr

/-- An escalation on its way to the headland handler (R209, R210). -/
structure Escalation where
  fault : EngFault
  reason : BitVec 4
  level : BitVec 3
  behind : BitVec 6
  deriving DecidableEq, Repr

/-- What an engine does between its words: ready at a boundary; in front of a handler's first word, which is no boundary
(R199); a word has faulted and its entry is
due; an escalation is due; a word waits for fabric data (its 32-bit word and the transaction); a word
waits for room among the operations in flight; a customer routine has run out its watchdog (R238). -/
inductive Phase where
  | ready
  | entered
  | faulted (e : EngFault)
  | escalated (e : Escalation)
  | waitFabric (word : Word) (id : BitVec 10)
  | stalled (word : Word)
  | customerOver (pc : Word)
  deriving DecidableEq, Repr

/-- Run control of an engine or of the supervisor (R453). -/
structure RunCtl where
  pend : Bool
  cause : BitVec 5
  err : Bool
  brkHalt : Bool
  stepInt : Bool
  rsel : BitVec 8
  stepping : Bool
  skipBreak : Bool
  deriving DecidableEq, Repr

/-- A customer microcode image (R215, R232, R239, R242). -/
structure Customer where
  words : List (Nat × BitVec 144)
  disp : List (Nat × BitVec 16)
  build : BitVec 16
  present : Bool
  digest : BitVec 384
  crc : Word
  deriving DecidableEq, Repr

/-- Where a customer routine goes on once the stall it stands in ends: the sequencer and the buffered registers as they stood at its last
commit (R233, R234); `ran` counts the words it has run since, `wait` is the WAIT word it has reached and when (R229). -/
structure MicroSave where
  pc : BitVec 13
  t : Vector Word 4
  mar : Word
  mdr : Word
  stack : List (BitVec 13)
  cycles : Nat
  progress : Bool
  c : Ctx
  ran : Nat
  wait : Option (BitVec 13 × DWord)
  deriving DecidableEq, Repr

/-- A stream engine (R9, R79, R115). `data` holds fabric data that has arrived for the word in
execution (log 6, DEDUCED); `retiring` says that the Sower has begun to vacate it (R100); `mismatch` is a pending hardware mismatch of R425 (log 15, DESIGN CHOICE); `micro` is the stalled customer routine, and
`custOld` the customer image of an engine that an image load has skipped (R218); `stood` is the furrow of a Stuck engine and its context as it
stood (R212), `agedAt` the time of the latest aging measurement (R488). -/
structure Engine where
  st : EngSt
  phase : Phase
  cur : Option Nat
  order : List Nat
  lastLoaded : Option Nat
  sliceUp : Bool
  sheaf : Sheaf
  hold : Option (Fin 32)
  data : List (DWord × Reply)
  mismatch : Option (BitVec 8 × BitVec 4)
  hdlSp : BitVec 22
  load : Nat
  overWins : Nat
  lowReb : Nat
  retiring : Bool
  beat : Bool
  retireDue : Option (Fin 8)
  ctl : RunCtl
  csCorr : List (Nat × List DWord)
  csErr : List (Nat × EccSt)
  csPos : Nat
  dispErr : Option EccSt
  resid : List DWord
  slackLow : Nat
  lastSlack : Nat
  agedAt : Option DWord
  stood : Option (Nat × Ctx)
  linePost : Vector Word 3
  micro : Option MicroSave
  custOld : Option Customer
  trace : List DWord
  traceLost : Nat
  traceSync : Bool
  traceCount : Nat
  traceWords : Nat
  resetHeld : Bool
  deriving DecidableEq, Repr

/-- One extent of a furrow's Plot: engine address and length (R108). -/
structure Extent where
  base : Nat
  len : Nat
  deriving DecidableEq, Repr

/-- A furrow descriptor (R74), read out of its 128 bytes, which `raw` keeps for the seal. -/
structure Desc where
  cls : Nat
  restartable : Bool
  pin : Bool
  twinOf : Nat
  fieldMask : BitVec 4
  priority : Nat
  demand : Nat
  workset : Nat
  codeLen : Nat
  codeAddr : DWord
  codeCrc : Word
  entry : Nat
  ingress : List Nat
  egress : List Nat
  drills : BitVec 16
  selMargin : Nat
  fabBase : Nat
  fabLen : Nat
  param : List Byte
  raw : List Byte
  deriving DecidableEq, Repr

/-- A doorbell store at its commit (R277): the header, its words 0-3, the segment registers and the privilege. -/
structure Doorbell where
  hdr : Nat
  words : Vector Word 4
  segs : Vector Seg 8
  priv : Bool
  deriving DecidableEq, Repr

/-- An active ring, held in extent form (R277): header number (0-3 ingress, 4-7 egress, 8 mover, 9-24 TX
drill, 25-40 RX drill), place, size, remote area, next index, and the doorbells that published work. `closing` says that EN has fallen
while a frame of the ring is on its way: the ring ends with that frame. -/
structure Ring where
  hdr : Nat
  ext : Nat
  off : Nat
  size : Nat
  rext : Nat
  roff : Nat
  rsize : Nat
  fetched : Word
  pubs : List Doorbell
  closing : Bool
  deriving DecidableEq, Repr

/-- A twin frame: a remote copy at its offset in the remote area, or a frame that the selector has chosen and that waits for its
due time; `err` is the offset of its first uncorrectable word (R283, R325). -/
structure TwinFrame where
  own : Bool
  fseq : Word
  due : DWord
  place : Nat
  desc : List Byte
  data : List Byte
  err : Option Nat
  deriving DecidableEq, Repr

/-- Egress selector of one twin-bound ring (R86): its state, the run of local frames in time, the frame decided last, the frames
chosen and not yet sent, and the remote copies. -/
structure Selector where
  hdr : Nat
  remote : Bool
  streak : Nat
  lastLocal : Option Word
  lastSeq : Option Word
  noneRun : Bool
  chosen : List TwinFrame
  far : List TwinFrame
  deriving DecidableEq, Repr

/-- A furrow (R74, R78, R108). `run` is the escalation run of R211: escalations so far and the time of the
cold restart the first one caused; `mbar` says that its next word is an MBAR in its wait (R207); `enSeen` names the headers whose EN was 1 at the last doorbell recognised (R277); `fetched` is the firmware that a FURROW_START before the first commit has fetched (log 33, DEDUCED). -/
structure Furrow where
  id : Nat
  owner : Fin 16
  creator : Fin 16
  desc : Desc
  st : FurrowSt
  engine : Option (Fin 96)
  home : Option (Fin 4)
  extents : List Extent
  ctx : Ctx
  waitMask : Option (BitVec 16)
  mbar : Bool
  restarts : Nat
  migrations : Nat
  runAtCommit : Bool
  startOnCommit : Bool
  twin : Option Nat
  run : Option (Nat × Option DWord)
  rings : List Ring
  enSeen : List Nat
  doorbells : List Doorbell
  sels : List Selector
  ctlq : List (List Word)
  verAtStart : Word × Word
  loads : List Nat
  fetched : List Byte
  ctxErr : Option EccSt
  deriving DecidableEq, Repr

/-- Ownership record and repair state of a bank (R246, R250, R259, R265): the remap table gives a row its spare; `badSpares` are the
spares that fail; `epoch` counts the losses of its contents and is even once a zero fill has followed (log 8, DESIGN CHOICE). -/
structure Bank where
  st : BankSt
  owner : Fin 24
  target : Fin 24
  shared : Bool
  lease : Bool
  stripe : Fin 128
  remap : List (Nat × Nat)
  badSpares : List Nat
  gleanQ : List Nat
  corrections : List (Nat × List DWord)
  epoch : Nat
  deriving DecidableEq, Repr

/-- A drill (R299, R310-R313). `stoppedFrom` and `frozenFrom` name the state to return to, `retry` a FETCH (false) or
STASH (true) still to be tried, `waited` a WAIT whose condition has held, `seen` a flag pulse seen while waiting, `ticks` the
timers whose compare event the drill has not consumed, `began` the timer and the time of the first WAIT on a timer since the program was started
(R331), `feed` the words of a frame still to be fed (`feedChosen`: one
that the selector chose), `wave` the levels that
the latest word drove, lanes in [7:0], K in [8], Y in [9] (log 16, DEDUCED). -/
structure Drill where
  st : DrillSt
  stoppedFrom : DrillSt
  frozenFrom : DrillSt
  pc : BitVec 5
  bits : BitVec 6
  txFifo : List Word
  rxFifo : List Word
  txSh : Vector Word 8
  rxSh : Vector Word 8
  rxCount : Nat
  c0 : Nat
  c1 : Nat
  y : Bool
  k : Bool
  acc : BitVec 20
  dTrim : Nat
  dwin : Word
  dmode : Word
  ddiv : Word
  dcnt : Word
  txund : Bool
  txovr : Bool
  rxovr : Bool
  rxund : Bool
  perr : Bool
  changed : Bool
  retry : Option Bool
  waited : Bool
  seen : Bool
  ticks : BitVec 32
  began : Option (Nat × DWord)
  lastFrame : Nat
  feed : List Word
  feedChosen : Bool
  wave : List Word
  deriving DecidableEq, Repr

/-- Who issued a fabric transaction (R297). -/
inductive TxnOwner where
  | engineLoad (g : Fin 96)
  | engineStore (fid : Nat) (off : Word) (seg : BitVec 3) (seq : BitVec 16)
  | mover (fid : Nat) (idx : Word) (pos : Nat)
  | supervisor
  | message (src : Fin 22)
  | dump
  deriving DecidableEq, Repr

/-- A fabric transaction (R285-R287): its identifier, address, the bytes of a write, the length of a read, and the stream and substream
identifiers and ATTR of its request (R33, R286); its initiator and issue time. -/
structure Txn where
  id : BitVec 10
  write : Bool
  addr : DWord
  len : Nat
  bytes : List Byte
  sid : BitVec 16
  ssv : Bool
  ssid : BitVec 5
  attr : BitVec 4
  owner : TxnOwner
  issued : DWord
  deriving DecidableEq, Repr

/-- A Field mover descriptor in execution (R292-R294). Its places are a fabric address (true), or extent form: extent number
times 2^22 and offset (false; R277). `waiting` is 1 while a fabric transaction of it is in flight, `got` holds what a SEND has
read; `ord` is its number among the bridge transfers of its Field (R13). -/
structure Job where
  fid : Nat
  idx : Word
  slotAddr : Nat
  op : Nat
  event : Bool
  fence : Bool
  tag : BitVec 16
  len : Nat
  src : Bool × Nat
  dst : Bool × Nat
  pattern : Word
  dfurrow : Nat
  dring : Nat
  ord : Nat
  moved : Nat
  waiting : Nat
  status : Nat
  resp : BitVec 3
  bridge : Option (Fin 4)
  got : List Byte
  deriving DecidableEq, Repr

/-- A descriptor of the mover's own (R293, R297): the copy of a twin frame for the partner's selector, its descriptor's 32 bytes and its data
(`copy`), or the working set of a migration to another Field. `cut` says that it has ended under R14. -/
structure OwnJob where
  copy : Bool
  fid : Nat
  hdr : Nat
  dst : Fin 4
  dfid : Nat
  ord : Nat
  len : Nat
  moved : Nat
  cut : Bool
  data : List Byte
  deriving DecidableEq, Repr

/-- A packet that a stream port is taking in: queue and timestamp of its SOP beat, and its data so far (R270). -/
structure RxPacket where
  queue : BitVec 8
  ts : BitVec 80
  data : List Byte
  deriving DecidableEq, Repr

/-- A frame that a stream port is sending: its queue, the furrow and header it is of, the descriptor, the data, the offset of its first
uncorrectable word, the beats still to send, and whether the selector chose it (R272, R282). -/
structure TxFrame where
  queue : Nat
  src : Option (Nat × Nat)
  chosen : Option TwinFrame
  desc : List Byte
  data : List Byte
  err : Option Nat
  beats : Nat
  deriving DecidableEq, Repr

/-- A frame that a furrow left at its source egress when it moved to another Field (R97): queue, descriptor, data, and the offset of
its first uncorrectable word. -/
structure LeftFrame where
  queue : Nat
  desc : List Byte
  data : List Byte
  err : Option Nat
  deriving DecidableEq, Repr

/-- ST 2022-7 window of a primary queue (R284). -/
structure Merge where
  queue : Nat
  h : BitVec 16
  window : List (BitVec 16)
  last : DWord
  deriving DecidableEq, Repr

/-- Break or watch unit (R458). -/
structure BwUnit where
  ctl : Word
  eng : Word
  lo : Word
  hi : Word
  hits : BitVec 8
  armed : Bool
  deriving DecidableEq, Repr

/-- Fabric port, mover and stream port of a Field (R269-R297). `own` holds the mover's own descriptors, `bridgeSeq` numbers the transfers
that cross the bridge; `rrMover` and `rrPort` are the engine and the kind of requester served last (R291, R293); `rxOpen` is the packet that
is coming in, `rxSkip` that its beats are passed over to its EOP, `inHeld` the entries of the ingress buffer in use (R271); `txOpen` is
the frame going out, `left` the frames that moved furrows left behind. -/
structure Ports where
  txns : List Txn
  quarantine : List (BitVec 10)
  jobs : List Job
  counts : List (Nat × Word)
  drops : List (Nat × Word)
  merges : List Merge
  credits : Nat
  rrQueue : Nat
  sent : List (List Byte)
  own : List OwnJob
  bridgeSeq : Nat
  rrMover : Nat
  rrPort : Nat
  rxOpen : Option RxPacket
  rxSkip : Bool
  inHeld : Nat
  txOpen : Option TxFrame
  left : List LeftFrame
  malRun : Bool
  refRun : Bool
  lastWindow : Vector Nat 6
  peakWindow : Vector Nat 6
  rdBytes : BitVec 48
  wrBytes : BitVec 48
  winBase : Vector (BitVec 48) 6
  winAt : Vector DWord 6
  deriving DecidableEq, Repr

/-- One Field (R9, R20). `msgs` holds the messages that no acknowledgement has met, whether each has been repeated and when it was sent last
(R430); `tested` says that the start test of R264 has run since cold reset; `sels` names the ends whose SEL the running supervision cycle carries, `selPos` the next end of the rotation, and `rackPosted` the rack
alarm level posted last (R335, R346). -/
structure Field where
  st : FieldSt
  chg : BitVec 8
  retain : Bool
  pwrReq : Bool
  pwrOk : Bool
  draining : Bool
  relStep : Nat
  tested : Bool
  padHold : Bool
  padOut : BitVec 32
  padOe : BitVec 32
  pinsLive : Bool
  banks : Vector Bank 32
  ecc : List (Nat × EccSt)
  known : List Nat
  gleanPos : Nat
  drillPos : Nat
  drills : Vector Drill 16
  prog : List (Nat × Word)
  progErr : List (Nat × EccSt)
  queueTab : List (List Byte)
  pinTab : List (List Byte)
  cust : Customer
  keptCust : Option Customer
  ports : Ports
  msgs : List (BitVec 16 × Bool × DWord)
  msgSeen : List (BitVec 16)
  posts : List (List Word)
  units : Vector BwUnit 8
  sowerErr : Option EccSt
  stallSower : Bool
  sels : List Nat
  selPos : Nat
  rackPosted : Option Bool
  freezeWin : Bool
  deriving DecidableEq, Repr

/-- A command in execution (R46, R69): descriptor index, opcode, FENCE, TAG, buffer and arguments. `begun` says that it started at a fetch,
as start number `ord` of the block, `started` that it has acted; `hit` is the event an EVENT_WAIT has seen, `effect` that the command has
taken effect. -/
structure ActiveCmd where
  k : BitVec 16
  opcode : BitVec 16
  fence : Bool
  tag : Word
  bufAddr : DWord
  bufLen : Nat
  args : Vector Word 10
  begun : Bool
  ord : Nat
  started : Bool
  effect : Bool
  since : DWord
  hit : Option (Nat × Nat × Word)
  num : Nat
  bad : Nat
  deriving DecidableEq, Repr

/-- A completion record (R49) before PHASE and CRC are set by its place in the ring. -/
structure CplRecord where
  tag : Word
  status : BitVec 16
  index : BitVec 16
  opcode : BitVec 16
  r0 : Word
  r1 : Word
  r2 : Word
  r3 : Word
  reset : Option Bool
  deriving DecidableEq, Repr

/-- What the supervisor's accesses for a mailbox have moved: the requests of the latest one, and the bytes that all of them read and wrote (R32, R33,
R473). -/
structure MbTraffic where
  last : List Txn
  rd : BitVec 48
  wr : BitVec 48
  deriving DecidableEq, Repr

/-- A mailbox pair (R34-R42, R69-R73). `pendAt` holds when each pending record was written (R42); `recOut` and `bufOut` are the record and
the buffer that left for host memory last, `reqs` the accesses to its rings and buffers (R32, R33). -/
structure Mailbox where
  enReq : Bool
  enabled : Bool
  cmdLog2 : BitVec 4
  cplLog2 : BitVec 4
  cmdBase : DWord
  cplBase : DWord
  cmdTail : BitVec 16
  cmdHead : BitVec 16
  cplHead : BitVec 16
  cplTail : BitVec 16
  irqEn : Bool
  irqCount : BitVec 8
  irqHoldoff : BitVec 16
  ringFault : Bool
  retryFetch : Bool
  retryWrite : Bool
  holdoffUp : Bool
  rights : BitVec 20
  active : List ActiveCmd
  records : List CplRecord
  recent : List CplRecord
  pendAt : List DWord
  recOut : List Byte
  bufOut : List Byte
  reqs : MbTraffic
  deriving DecidableEq, Repr

/-- A Ledger record before SEQ and TIME (R383). -/
structure LedgerItem where
  field : BitVec 8
  event : BitVec 16
  obj : BitVec 16
  arg1 : Word
  arg2 : Word
  lost : BitVec 8
  deriving DecidableEq, Repr

/-- A Ledger record (R383). -/
structure LedgerRec where
  seq : Word
  time : DWord
  source : Nat
  item : LedgerItem
  deriving DecidableEq, Repr

/-- The Ledger (R382-R384): the ring of 1,024 records, the fifteen source queues, and the registers. -/
structure Ledger where
  ring : List LedgerRec
  queues : Vector (List LedgerItem) 15
  lost : Vector Nat 15
  rr : Nat
  nextSeq : Word
  seqReg : Word
  fill : Nat
  deriving DecidableEq, Repr

/-- A timer (R360-R367). `due` says that the latest increment reached CMP; `pend` holds writes that have not
landed and `half` the held write of an even timer of a chained pair. -/
structure Timer where
  owner : Option (Option Nat)
  ctl : Word
  count : Word
  cmp : Word
  period : Word
  evcnt : BitVec 8
  cap0 : Option Word
  cap1 : Option Word
  ovr : BitVec 8
  due : Bool
  pendCount : Option Word
  pendCmp : Option Word
  pendPeriod : Option Word
  halfCount : Option Word
  halfCmp : Option Word
  halfPeriod : Option Word
  capDue : Bool
  latch : Word
  deriving DecidableEq, Repr

/-- A watchdog (R371-R374): WDx_CTL and the count in units of one ALM cycle. -/
structure Watchdog where
  period : BitVec 16
  en : Bool
  freeze : Bool
  frozen : Bool
  remain : Nat
  running : Bool
  deriving DecidableEq, Repr

/-- The Almanac (R355-R374). -/
structure Almanac where
  tb : DWord
  tbFrac : Word
  inc : BitVec 40
  rate : BitVec 32
  slew : Int
  set : Bool
  locked : Bool
  lf : Bool
  pps : Bool
  hold : Bool
  ahead : Bool
  loss : Bool
  goodEdges : Nat
  ppsCap : DWord
  ppsAt : DWord
  timers : Vector Timer 32
  wds : Watchdog
  wdf : Vector Watchdog 4
  tbSample : List (Rid × DWord)
  incSample : Vector (BitVec 40) 4
  deadline : Option Nat
  deriving DecidableEq, Repr

/-- Guard, seal, indirect pairs and interrupt page (R386-R399). -/
structure HostWin where
  unlocks : List (Rid × DWord)
  badKeys : BitVec 8
  sealRef : Word
  sealAct : Word
  sealLast : Word
  sealPasses : BitVec 16
  sealParts : Vector Word 5
  sealActParts : Vector Word 5
  sealFail : BitVec 5
  idxAddr : Vector Word 4
  idxHolder : Vector (Option Rid) 4
  idxBusy : Vector Bool 4
  idxErr : Vector Bool 4
  idxWrite : Vector (Option (BitVec 24 × Word × Rid)) 4
  errEn : Word
  fldAck : Word
  almAck : Vector Word 7
  route : Vector Word 22
  msgAddr : Vector DWord 22
  msgData : Vector Word 22
  msgFlight : Vector Bool 22
  msgDue : Vector Bool 22
  msgHeld : Vector Bool 22
  errSeen : Word
  resp : Option Word
  deriving DecidableEq, Repr

/-- A configuration item (R52, R389): record type and body. -/
structure Item where
  ty : Nat
  body : List Byte
  deriving DecidableEq, Repr

/-- A staging session (R55): its staged items by scope (R389). -/
structure Session where
  mb : Fin 16
  mask : BitVec 4
  num : Word
  items : List (Nat × Item)
  deriving DecidableEq, Repr

/-- One side's latest post of a line (R346, R347). -/
structure LinePost where
  zone : Nat
  line : Nat
  field : Fin 4
  words : List Word
  time : DWord
  deriving DecidableEq, Repr

/-- The judgement state of one end of a line (R341, R345): the bits that its observations have set, the runs of estimates that met and that
failed each condition, the latest pilot estimates, the pilot scale in 0.1 dB with the estimates it has stood at a limit, and the cycles
since its DRIVE changed, up to 3. -/
structure EndSt where
  faults : BitVec 8
  setCnt : Vector Nat 8
  clrCnt : Vector Nat 8
  pilots : List Nat
  scale : Int
  atLimit : Nat
  cycles : Nat
  deriving DecidableEq, Repr

/-- The judgement state of one line in a Field's supervision firmware (R340-R346). `crossed` says that the line is changed over, `release`
that its B end returns to listen once the A end shows DRIVING, `owed` that a post of it is due, `posted` the time of the latest one. -/
structure LineSt where
  zone : Nat
  line : Nat
  field : Fin 4
  classA : Bool
  a : EndSt
  b : EndSt
  adrv : Bool
  bdrv : Bool
  crossed : Bool
  release : Bool
  zmag : Word
  dev : Option Int
  gain : Int
  vb : Nat
  seq : BitVec 16
  owed : Bool
  posted : DWord
  deriving DecidableEq, Repr

/-- Walk and report state of a zone (R347-R351). `failed` is WALK_FAIL, `missed` that a step of the present walk failed, `faulted` that a
line fault set during it, `differ` the lines whose sides differ and since when; `since` is the time at which the zone's record took effect. -/
structure ZoneSt where
  zone : Nat
  zfaults : BitVec 13
  step : Nat
  walking : Bool
  yielded : Bool
  yieldAt : DWord
  yields : Nat
  failed : Bool
  missed : Bool
  deferred : Bool
  faulted : Bool
  walked : DWord
  differ : List (Nat × DWord)
  since : DWord
  deriving DecidableEq, Repr

/-- A FIELD_WALK in execution (R349): the Fields whose supervision furrows it holds, whether its start time has come, the zones to walk
and those being walked, and its results. -/
structure Walk where
  mb : Fin 16
  k : BitVec 16
  fields : BitVec 4
  begun : Bool
  todo : List Nat
  now : List Nat
  done : Nat
  faults : Nat
  deriving DecidableEq, Repr

/-- A migration in the sequencer (R95). `handed` and `swapped` say that whole banks were handed over, and that the furrow already stands in
the granules copied, whose former place `extents` then names; `cmd` is the FURROW_MOVE that asked for it; `arrived` holds the records that the destination
Field's queues have filled into the new rings since PREPARE (R97): slot, room needed, header, data. -/
structure Migration where
  fid : Nat
  src : Fin 96
  dst : Fin 96
  st : MigSt
  was : FurrowSt
  aborts : Nat
  extents : List Extent
  handed : Bool
  swapped : Bool
  rechosen : Bool
  cmd : Option (Fin 16 × BitVec 16)
  why : Nat
  arrived : List (Nat × Nat × List Byte × List Byte)
  deriving DecidableEq, Repr

/-- The Sower (R81-R101). `events` are the failure events that wait for the plan, `restarts` the lost furrows that wait for their cold
restart and where, `inTransit` the furrows of the transition in progress (R94), `resetAfter` the Fields that a transition empties and then resets (R22, R402). -/
structure Sower where
  headroom : Nat
  packing : Bool
  plans : List (Nat × List Byte)
  activePlan : Nat
  subs : List (Fin 96 × Fin 96)
  transitions : Word
  lastTransSeq : Word
  migs : List Migration
  events : List (BitVec 8 × Fin 4)
  resetAfter : List (Fin 4)
  inTransit : List Nat
  restarts : List (Nat × Nat)
  rates : Vector Nat 5
  ratesDeclared : Vector Bool 5
  deriving DecidableEq, Repr

/-- Debug control, memory master, provisioning, trace and Tally set-up (R447-R473). `dumpOut` holds dump bytes that wait for the
port; `supLost` counts the supervisor's packets dropped since its latest one accepted (R464). -/
structure Debug where
  session : Option (BitVec 7)
  sessions : Word
  nonce : Option (List Byte × DWord)
  challenges : Nat
  peek : Bool
  xhalt : Bool
  freeze : Word
  dmmCtl : Word
  dmmAddr : Word
  dmmCorr : Bool
  dmmUncorr : Bool
  dmmRefused : Bool
  dmmData : Vector Word 5
  provSel : Word
  provData : Vector Word 24
  provErr : Bool
  trcCtl : Word
  trcFid : Word
  trcLostPwr : BitVec 16
  trcLostFull : BitVec 16
  trcRr : Nat
  trcOut : Option DWord
  trcPkt : Nat
  tallyCfg : List Byte
  tallySeq : Word
  tallyPos : Nat
  samples : List (List Byte)
  dumpOut : List Byte
  supTrace : List DWord
  supLost : Nat
  supCount : Nat
  deriving DecidableEq, Repr

/-- The supervisor pair and its firmware's state (R15, R53-R68, R415-R423). `conf` is the committed configuration by scope, which the
retained region keeps (R419); `confErr` and `custErr` mark Fields whose retained configuration or customer image fails its check
(log 15, DESIGN CHOICE); `committedFields` names the Fields that have been committed, `reapply` those whose retained configuration is still to be applied
after a reset (R419); `starts` counts the commands begun at a fetch (R71); `sram` holds the words of the 512 KiB of supervisor SRAM that the
debug memory master has seen since the firmware last ran (R2, R460; log 9, DESIGN CHOICE); `rack` is the rack alarm level last posted for
each Field (R346); `digest` is the digest of the running image and `vcode` its vendor
microcode section (R434). -/
structure Sup where
  released : Bool
  running : Bool
  ctl : RunCtl
  halted : Bool
  fallow : Nat
  passThrough : Bool
  build : BitVec 16
  vbuild : BitVec 16
  digest : BitVec 384
  vdigest : BitVec 384
  vcode : List Byte
  started : Bool
  committed : Bool
  firstCommit : Bool
  rrMailbox : Nat
  meas : Vector (BitVec 384) 8
  sessions : List Session
  sessionNum : Word
  conf : List (Nat × Item)
  committedFields : BitVec 4
  reapply : BitVec 4
  confErr : BitVec 4
  custErr : BitVec 4
  lines : List LinePost
  judged : List LineSt
  zones : List ZoneSt
  walks : List Walk
  rack : BitVec 4
  starts : Nat
  sram : List (Nat × Word)
  ledgerMark : Bool
  slotUsed : Option Bool
  deriving DecidableEq, Repr

/-- The Seed store (R409, R415, R422, R436, R265, R266). Boot slots are A (false) and B (true). -/
structure Seed where
  blank : Bool
  unreadable : Bool
  slotDigest : Vector (BitVec 384) 2
  slotBuild : Vector (BitVec 16) 2
  slotValid : Vector Bool 2
  active : Bool
  trial : Option Bool
  pending : Option Bool
  floor : BitVec 16
  custKey : Option (List Byte)
  dbgKey : Option (List Byte)
  retiredEngines : List (Fin 96)
  retiredBanks : List Nat
  remaps : List (Nat × Nat × Nat)
  badSpares : List (Nat × Nat)
  pendingRows : List (Nat × Nat)
  fallowSet : Option (List Item)
  pulse : Bool
  deriving DecidableEq, Repr

/-- Always-on island (R412). -/
structure Island where
  coldResets : BitVec 16
  cause : BitVec 4
  failedStarts : BitVec 3
  deriving DecidableEq, Repr

/-- Block-wide reset in force (R404-R408): level (true cold), cause, release steps done (4-7: Fields 0-3 of step 4), and whether it
ended a start (R412). -/
structure BlockReset where
  cold : Bool
  cause : BitVec 4
  step : Nat
  failed : Bool
  deriving DecidableEq, Repr

/-- Strap sample and inputs from the SoC (R357, R404, R410, R464, R476-R483). -/
structure Pins where
  strapCode : BitVec 4
  strapRaw : BitVec 6
  strapAgreed : Bool
  brnout : Bool
  memKeepAck : Bool
  dormantAck : Bool
  trcPwr : Bool
  clkFault : BitVec 10
  deriving DecidableEq, Repr

/-- The state of the block. -/
structure State where
  pending : List Instr
  mailboxes : Vector Mailbox 16
  host : HostWin
  ledger : Ledger
  almanac : Almanac
  fields : Vector Field 4
  engines : Vector Engine 96
  furrows : List Furrow
  plot : List Host.Cell
  sower : Sower
  sup : Sup
  seed : Seed
  island : Island
  reset? : Option BlockReset
  pins : Pins
  dbg : Debug
  tally : List (Nat × BitVec 48)
  bridgeRr : Nat
  freeCtr : Nat
  deriving DecidableEq, Repr

/-! Reset values: the machine at power-on with cold reset asserted and no source left (R402, R406; log 13, DESIGN CHOICE). -/

/-- A segment register with every field 0: it grants nothing (R110). -/
def Seg.zero : Seg :=
  { base := 0, limit := 0, r := false, w := false, x := false, sup := false, tgt := false }

/-- A context of zeros. -/
def Ctx.zero : Ctx :=
  { a := 0, x := 0, y := 0, sp := 0, pc := 0, psw := 0, p := 0, seg := Vector.replicate 8 Seg.zero,
    prog0 := 0, prog1 := 0, ldv := 0, excBase := 0, lvl8 := 0, irqLvl := Vector.replicate 12 0,
    irqArm := 0, timeSample := 0, storeSeq := 0, rep8 := none, nosample := false, latched := 0,
    shsave := 0 }

/-- Sheaf state of zeros (R177). -/
def Sheaf.zero : Sheaf :=
  { v := Vector.replicate 8 (Vector.replicate 16 0), acc := Vector.replicate 16 0, shst := 0,
    dirty := false }

/-- Run control at reset (R453). -/
def RunCtl.reset : RunCtl :=
  { pend := false, cause := 0, err := false, brkHalt := false, stepInt := false, rsel := 0,
    stepping := false, skipBreak := false }

/-- An engine held in engine reset; ENG_STAT reads 1, Doze (R400, R408). -/
def Engine.reset : Engine :=
  { st := .doze, phase := .ready, cur := none, order := [], lastLoaded := none, sliceUp := false,
    sheaf := Sheaf.zero, hold := none, data := [], mismatch := none, hdlSp := 0, load := 0,
    overWins := 0, lowReb := 0, retiring := false, beat := false, retireDue := none,
    ctl := RunCtl.reset, csCorr := [], csErr := [], csPos := 0, dispErr := none, resid := [],
    slackLow := 0, lastSlack := 0, agedAt := none, stood := none, linePost := Vector.replicate 3 0, micro := none, custOld := none, trace := [], traceLost := 0,
    traceSync := false, traceCount := 0, traceWords := 0, resetHeld := true }

/-- A bank at cold reset: FREE, its contents lost once (R250, R406; log 8, DESIGN CHOICE). -/
def Bank.reset : Bank :=
  { st := .free, owner := 0, target := 0, shared := false, lease := false, stripe := 0, remap := [], badSpares := [],
    gleanQ := [], corrections := [], epoch := 1 }

/-- A drill at reset (R310, R327); its run registers follow record 0x0022 and are 0 before one (log 14, DESIGN CHOICE). -/
def Drill.reset : Drill :=
  { st := .idle, stoppedFrom := .idle, frozenFrom := .idle, pc := 0, bits := 0,
    txFifo := [], rxFifo := [], txSh := Vector.replicate 8 0, rxSh := Vector.replicate 8 0, rxCount := 0, c0 := 0, c1 := 0, y := false, k := false, acc := 0, dTrim := 0, dwin := 0, dmode := 0,
    ddiv := 0, dcnt := 0, txund := false, txovr := false, rxovr := false, rxund := false, perr := false,
    changed := false, retry := none, waited := false, seen := false, ticks := 0, began := none, lastFrame := 0, feed := [], feedChosen := false,
    wave := [] }

/-- A break or watch unit at reset (R458). -/
def BwUnit.reset : BwUnit := { ctl := 0, eng := 0, lo := 0, hi := 0, hits := 0, armed := false }

/-- No customer microcode (R241). -/
def Customer.none : Customer :=
  { words := [], disp := [], build := 0, present := false, digest := 0, crc := 0 }

/-- Ports, mover and fabric port of a Field at reset (R269-R297). Egress credits are 0 until the MAC gives one (R272). -/
def Ports.reset : Ports :=
  { txns := [], quarantine := [], jobs := [], counts := [], drops := [], merges := [],
    credits := 0, rrQueue := 0, sent := [], own := [], bridgeSeq := 0, rrMover := 0, rrPort := 0, rxOpen := none, rxSkip := false,
    inHeld := 0, txOpen := none, left := [], malRun := false,
    refRun := false, lastWindow := Vector.replicate 6 0, peakWindow := Vector.replicate 6 0, rdBytes := 0, wrBytes := 0,
    winBase := Vector.replicate 6 0, winAt := Vector.replicate 6 0 }

/-- A Field at cold reset: Resetting (R379). -/
def Field.reset : Field :=
  { st := .resetting, chg := 0, retain := false, pwrReq := true, pwrOk := true, draining := false,
    relStep := 0, tested := false, padHold := false, padOut := 0, padOe := 0, pinsLive := false,
    banks := Vector.replicate 32 Bank.reset, ecc := [], known := [], gleanPos := 0, drillPos := 0,
    drills := Vector.replicate 16 Drill.reset, prog := [], progErr := [], queueTab := [], pinTab := [],
    cust := Customer.none, keptCust := none, ports := Ports.reset, msgs := [], msgSeen := [], posts := [],
    units := Vector.replicate 8 BwUnit.reset, sowerErr := none, stallSower := false,
    sels := [], selPos := 0, rackPosted := none, freezeWin := false }

/-- Reset values of a mailbox pair (R34, R35); rights 0x3 (R44). -/
def Mailbox.reset : Mailbox :=
  { enReq := false, enabled := false, cmdLog2 := 6, cplLog2 := 7, cmdBase := 0, cplBase := 0, cmdTail := 0,
    cmdHead := 0, cplHead := 0, cplTail := 0, irqEn := true, irqCount := 1, irqHoldoff := 0,
    ringFault := false, retryFetch := false, retryWrite := false, holdoffUp := false,
    rights := 0x3#20, active := [], records := [], recent := [], pendAt := [], recOut := [], bufOut := [],
    reqs := { last := [], rd := 0, wr := 0 } }

/-- MB00 holds every right and Field (R44). -/
def mailboxesReset : Vector Mailbox 16 :=
  (Vector.replicate 16 Mailbox.reset).set 0 { Mailbox.reset with rights := 0xF03FF#20 }

/-- The Ledger at cold reset: the cold-reset record waits in queue 0 (R382, R385, R406). -/
def Ledger.reset (cause : BitVec 4) : Ledger :=
  { ring := [],
    queues := (Vector.replicate 15 []).set 0
      [{ field := 0xFF, event := 1, obj := 0, arg1 := cause.setWidth 32, arg2 := 0, lost := 0 }],
    lost := Vector.replicate 15 0, rr := 14, nextSeq := 0, seqReg := 0, fill := 0 }

/-- A timer at reset (R361). -/
def Timer.reset : Timer :=
  { owner := none, ctl := 0, count := 0, cmp := 0xFFFFFFFF, period := 0, evcnt := 0, cap0 := none,
    cap1 := none, ovr := 0, due := false, pendCount := none, pendCmp := none, pendPeriod := none,
    halfCount := none, halfCmp := none, halfPeriod := none, capDue := false, latch := 0 }

/-- ALM cycles per millisecond (R371). -/
def almPerMs : Nat := 98304

/-- WDS at reset: 1,000 ms, enabled, running from the supervisor's release (R371, R372). -/
def Watchdog.wdsReset : Watchdog :=
  { period := 1000, en := true, freeze := false, frozen := false, remain := 1000 * almPerMs,
    running := false }

/-- WDFn at reset: 100 ms, disabled (R372). -/
def Watchdog.wdfReset : Watchdog :=
  { period := 100, en := false, freeze := false, frozen := false, remain := 100 * almPerMs,
    running := false }

/-- Nominal INC (R356). -/
def nominalInc : BitVec 40 := 0xA2C2AAAAB#40

/-- The Almanac at cold reset (R355-R374). -/
def Almanac.reset : Almanac :=
  { tb := 0, tbFrac := 0, inc := nominalInc, rate := 0, slew := 0, set := false, locked := false,
    lf := false, pps := false, hold := false, ahead := false, loss := false, goodEdges := 0, ppsCap := 0, ppsAt := 0,
    timers := Vector.replicate 32 Timer.reset, wds := Watchdog.wdsReset,
    wdf := Vector.replicate 4 Watchdog.wdfReset, tbSample := [], incSample := Vector.replicate 4 0,
    deadline := none }

/-- Guard, seal, indirect pairs and interrupt page at cold reset (R388, R391, R394, R397). -/
def HostWin.reset : HostWin :=
  { unlocks := [], badKeys := 0, sealRef := 0, sealAct := 0, sealLast := 0, sealPasses := 0,
    sealParts := Vector.replicate 5 0, sealActParts := Vector.replicate 5 0, sealFail := 0,
    idxAddr := Vector.replicate 4 0, idxHolder := Vector.replicate 4 none, idxBusy := Vector.replicate 4 false,
    idxErr := Vector.replicate 4 false, idxWrite := Vector.replicate 4 none, errEn := 0x3FF, fldAck := 0,
    almAck := Vector.replicate 7 0, route := Vector.replicate 22 1, msgAddr := Vector.replicate 22 0,
    msgData := Vector.replicate 22 0, msgFlight := Vector.replicate 22 false,
    msgDue := Vector.replicate 22 false, msgHeld := Vector.replicate 22 false, errSeen := 0,
    resp := none }

/-- The Sower at reset: headroom 20 % (R63, R81); rates before a declaration are the top of R24 (log 14, DESIGN CHOICE). -/
def Sower.reset : Sower :=
  { headroom := 20, packing := true, plans := [], activePlan := 0, subs := [], transitions := 0,
    lastTransSeq := 0, migs := [], events := [], resetAfter := [], inTransit := [], restarts := [],
    rates := #v[2000000, 2000000, 2000000, 2000000, 1600000], ratesDeclared := Vector.replicate 5 false }

/-- Debug control, memory master, provisioning, trace and Tally at reset (R451-R473). -/
def Debug.reset : Debug :=
  { session := none, sessions := 0, nonce := none, challenges := 0, peek := true, xhalt := false,
    freeze := 0, dmmCtl := 0, dmmAddr := 0, dmmCorr := false, dmmUncorr := false,
    dmmRefused := false, dmmData := Vector.replicate 5 0, provSel := 0, provData := Vector.replicate 24 0,
    provErr := false, trcCtl := 0, trcFid := 0, trcLostPwr := 0, trcLostFull := 0, trcRr := 0,
    trcOut := none, trcPkt := 0, tallyCfg := [], tallySeq := 0, tallyPos := 0, samples := [], dumpOut := [],
    supTrace := [], supLost := 0, supCount := 0 }

/-- The supervisor in reset (R406, R416). -/
def Sup.reset : Sup :=
  { released := false, running := false, ctl := RunCtl.reset, halted := false, fallow := 0,
    passThrough := false, build := 0, vbuild := 0, digest := 0, vdigest := 0, vcode := [], started := false,
    committed := false, firstCommit := false, rrMailbox := 15,
    meas := Vector.replicate 8 0, sessions := [], sessionNum := 0, conf := [], committedFields := 0, reapply := 0, confErr := 0, custErr := 0, lines := [],
    judged := [], zones := [], walks := [], rack := 0, starts := 0, sram := [], ledgerMark := false,
    slotUsed := none }

/-- The Seed store as shipped: a blank boot record and no key (R415, R437; log 14, DESIGN CHOICE). -/
def Seed.shipped : Seed :=
  { blank := true, unreadable := false, slotDigest := Vector.replicate 2 0,
    slotBuild := Vector.replicate 2 0, slotValid := Vector.replicate 2 false, active := false, trial := none,
    pending := none, floor := 0, custKey := none, dbgKey := none, retiredEngines := [], retiredBanks := [],
    remaps := [], badSpares := [], pendingRows := [], fallowSet := none, pulse := false }

/-- Inputs at power-on: STRAP_SEL open, code 0xF (R411), no brown-out, no fault (log 12, DESIGN CHOICE). -/
def Pins.reset : Pins :=
  { strapCode := 0xF, strapRaw := 63, strapAgreed := true, brnout := false, memKeepAck := false, dormantAck := false, trcPwr := true,
    clkFault := 0 }

/-- The block right after power-on: cold reset of cause 0x0 in force, every Field Resetting (R402, R406, R408). -/
def State.reset : State :=
  { pending := [], mailboxes := mailboxesReset, host := HostWin.reset, ledger := Ledger.reset 0,
    almanac := Almanac.reset, fields := Vector.replicate 4 Field.reset,
    engines := Vector.replicate 96 Engine.reset, furrows := [], plot := [], sower := Sower.reset,
    sup := Sup.reset, seed := Seed.shipped, island := { coldResets := 0, cause := 0, failedStarts := 0 },
    reset? := some { cold := true, cause := 0, step := 0, failed := false }, pins := Pins.reset, dbg := Debug.reset,
    tally := [], bridgeRr := 3, freeCtr := 0 }

end Sys2Proof.Machine
end

