-- ==== Sys2Proof/Machine/Ops.lean ====
section
/-! DEFINITION. The named operations that every family shares: updates of one unit, free values, Ledger
records, events, Tally counts, furrow look-up. -/

namespace Sys2Proof.Machine

/-- What a command answers. -/
abbrev Out := Host.Outcome State Fault Refusal

/-! Units -/

def State.updField (s : State) (f : Fin 4) (h : Field → Field) : State :=
  { s with fields := vupd s.fields f h }

def State.updEngine (s : State) (g : Fin 96) (h : Engine → Engine) : State :=
  { s with engines := vupd s.engines g h }

def State.updMailbox (s : State) (m : Fin 16) (h : Mailbox → Mailbox) : State :=
  { s with mailboxes := vupd s.mailboxes m h }

def State.updPorts (s : State) (f : Fin 4) (h : Ports → Ports) : State :=
  s.updField f fun F => { F with ports := h F.ports }

def State.updBank (s : State) (f : Fin 4) (b : Fin 32) (h : Bank → Bank) : State :=
  s.updField f fun F => { F with banks := vupd F.banks b h }

def State.updDrill (s : State) (f : Fin 4) (d : Fin 16) (h : Drill → Drill) : State :=
  s.updField f fun F => { F with drills := vupd F.drills d h }

/-- Every drill of the block rewritten. -/
def State.mapDrills (s : State) (h : Drill → Drill) : State :=
  let drillsOf (F : Field) : Field := { F with drills := vmap (fun _ d => h d) F.drills }
  { s with fields := vmap (fun _ F => drillsOf F) s.fields }

/-- Every drill of a Field rewritten. -/
def State.mapFieldDrills (s : State) (f : Fin 4) (h : Drill → Drill) : State :=
  s.updField f fun F => { F with drills := vmap (fun _ d => h d) F.drills }

def State.updTimer (s : State) (n : Fin 32) (h : Timer → Timer) : State :=
  { s with almanac := { s.almanac with timers := vupd s.almanac.timers n h } }

def State.updSup (s : State) (h : Sup → Sup) : State := { s with sup := h s.sup }
def State.updDbg (s : State) (h : Debug → Debug) : State := { s with dbg := h s.dbg }
def State.updSower (s : State) (h : Sower → Sower) : State := { s with sower := h s.sower }
def State.updHost (s : State) (h : HostWin → HostWin) : State := { s with host := h s.host }
def State.updAlm (s : State) (h : Almanac → Almanac) : State := { s with almanac := h s.almanac }
def State.updPins (s : State) (h : Pins → Pins) : State := { s with pins := h s.pins }
/-- A record of the Seed store written; a change takes a program pulse (R409, R490). -/
def State.updSeed (s : State) (h : Seed → Seed) : State :=
  { s with seed := if h s.seed = s.seed then s.seed else { h s.seed with pulse := true } }

/-- Field of a global engine (R9). -/
def fieldOf (g : Fin 96) : Fin 4 := ⟨g.val / 24, by omega⟩

/-- Engine within its Field (R9). -/
def localOf (g : Fin 96) : Fin 24 := ⟨g.val % 24, by omega⟩

/-- Global number of an engine of a Field (R9). -/
def globalOf (f : Fin 4) (e : Fin 24) : Fin 96 := ⟨f.val * 24 + e.val, by omega⟩

/-- The engines of a Field, ascending. -/
def fieldEngines (f : Fin 4) : List (Fin 96) := (allFin 24).map (globalOf f)

/-- The furrow of an ID (R75). -/
def State.furrow? (s : State) (id : Nat) : Option Furrow := s.furrows.find? fun F => F.id == id

/-- The furrow of an ID rewritten. -/
def State.updFurrow (s : State) (id : Nat) (h : Furrow → Furrow) : State :=
  { s with furrows := updWhere (fun F => F.id == id) h s.furrows }

/-- A member of Fin n from a number, if it is below n. -/
def toFin? (n k : Nat) : Option (Fin n) := if h : k < n then some ⟨k, h⟩ else none

/-! Free values (log 9, DESIGN CHOICE) -/

/-- The next free value of width w, and the state that has used it. -/
def State.fresh (s : State) (w : Nat) : BitVec w × State :=
  (Config.freeBits w s.freeCtr, { s with freeCtr := s.freeCtr + 1 })

/-! The service mode and the situation of the block (R16-R19, R379) -/

/-- MODE.SEALED (R379). -/
def State.sealed (s : State) : Bool := s.pins.strapCode.getLsbD 3

/-- MODE.DBGAUTH (R379). -/
def State.dbgAuth (s : State) : Bool := s.pins.strapCode.getLsbD 2

/-- Strap bit b1: 1 high impedance, 0 driven low (R411, R413). -/
def State.padHiZ (s : State) : Bool := s.pins.strapCode.getLsbD 1

/-- MODE.FALLOW (R420). -/
def State.inFallow (s : State) : Bool := s.sup.fallow != 0

/-- Sealed mode after the first commit (R18, R362, R391). -/
def State.sealedCommitted (s : State) : Bool := s.sealed && s.sup.firstCommit

/-! The Ledger (R382-R385) -/

/-- A record offered by source src: queued, or lost and counted when the source's queue of 4 is full (R384). -/
def Ledger.offer (L : Ledger) (src : Fin 15) (i : LedgerItem) : Ledger :=
  if L.queues[src].length < 4 then
    { L with
      queues := L.queues.set src
        (L.queues[src] ++ [{ i with lost := BitVec.ofNat 8 (min 255 L.lost[src]) }])
      lost := L.lost.set src 0 }
  else { L with lost := L.lost.set src (L.lost[src] + 1) }

/-- Tally counter i of a group (R469): 48 bits, modulo 2^48. -/
def tallyKey (group i : Nat) : Nat := group * 65536 + i

def State.tallyGet (s : State) (group i : Nat) : BitVec 48 := mapGet 0 (tallyKey group i) s.tally

/-- Counters of one Field, or of its engines, in a group; 0 for a group of the block (R469). -/
def tallyPerField (group : Nat) : Nat :=
  match group with
  | 0 => 10
  | 1 => 6
  | 2 => 216
  | 3 => 5
  | 4 => 3
  | 5 => 48
  | 6 => 192
  | 9 => 512
  | _ => 0

/-- Whether the counters of a Field stand still under a debug halt (R463). -/
def State.tallyFrozen (s : State) (group i : Nat) : Bool :=
  match toFin? 4 (i / tallyPerField group) with
  | some f => tallyPerField group != 0 && s.fields[f].freezeWin
  | none => false

/-- n added to a Tally counter (R469), unless it is frozen (R463). -/
def State.count (s : State) (group i n : Nat) : State :=
  if s.tallyFrozen group i then s else
  { s with tally := mapSet 0 (tallyKey group i) (s.tallyGet group i + BitVec.ofNat 48 n) s.tally }

/-- A Ledger record (R383, R385). A discarded one counts in Tally group 7 (R469). -/
def State.log (s : State) (src : Fin 15) (event : Nat) (field : Option (Fin 4)) (obj : Nat)
    (arg1 arg2 : Word) : State :=
  let i : LedgerItem :=
    { field := match field with
        | some f => BitVec.ofNat 8 f.val
        | none => 0xFF
      event := BitVec.ofNat 16 event, obj := BitVec.ofNat 16 obj, arg1 := arg1, arg2 := arg2, lost := 0 }
  let t := { s with ledger := s.ledger.offer src i }
  if s.ledger.queues[src].length < 4 then t else t.count 7 1 1

/-! Events of EVENT_WAIT (R62) -/

/-- Opcode of EVENT_WAIT (R61). -/
def opEventWait : BitVec 16 := 0x0605#16

/-- Event bit raised for a Field: every EVENT_WAIT in execution whose mask has the bit and that has seen none takes it (R62). -/
def State.raise (s : State) (ev : Nat) (field : Nat) : State :=
  { s with mailboxes := s.mailboxes |> vmap fun _ M =>
      { M with active := M.active.map fun c =>
          if c.opcode = opEventWait ∧ c.started ∧ c.hit = none ∧ c.args[0].getLsbD ev then
            { c with hit := some (ev, field, s.ledger.seqReg) }
          else c } }

/-! Time (R355) -/

/-- Nanoseconds of a time base value since its seconds began counting (R355). -/
def tbNs (t : DWord) : Nat := fieldN t 32 32 * 1000000000 + fieldN t 0 32

/-- The time base value of a number of nanoseconds (R355). -/
def nsTb (n : Nat) : DWord :=
  BitVec.ofNat 32 (n / 1000000000) ++ BitVec.ofNat 32 (n % 1000000000)

/-- The Almanac time base (R355). -/
def State.now (s : State) : DWord := s.almanac.tb

/-- Nanoseconds passed since a time; 0 for a time not yet reached. -/
def State.since (s : State) (t : DWord) : Nat := tbNs s.now - tbNs t

/-! State of a Field (R20) -/

/-- Code of a Field state (R379). -/
def FieldSt.code : FieldSt → BitVec 3
  | .inService => 0
  | .draining => 1
  | .out => 2
  | .off => 3
  | .resetting => 4

/-- A Field takes a state: FLD_CHG counts it and the event is raised (R62, R397). WDFn reloads and runs from
In service (R371). -/
def State.setFieldSt (s : State) (f : Fin 4) (st : FieldSt) : State :=
  if s.fields[f].st = st then s
  else
    let t := s.updField f fun F => { F with st := st, chg := F.chg + 1 }
    let t := t.updAlm fun A => { A with wdf := vupd A.wdf f fun w =>
      match st with
      | .inService => { w with remain := w.period.toNat * almPerMs, running := true }
      | .draining => w
      | _ => { w with running := false, frozen := false } }
    t.raise 1 f.val

end Sys2Proof.Machine
end

