-- ==== Sys2Proof/Machine/Almanac.lean ====
section
/-! DEFINITION. The Almanac: time base, timers, captures, watchdog counts (R355-R374). -/

namespace Sys2Proof.Machine

/-! Timers -/

/-- Fields of ATn_CTL (R362); EVCNT is kept apart. -/
def Timer.run (t : Timer) : Bool := t.ctl.getLsbD 0
def Timer.mode (t : Timer) : Nat := fieldN t.ctl 1 2
def Timer.capsrc (t : Timer) : Nat := fieldN t.ctl 4 4

/-- The even timer of a pair. -/
def evenOf (n : Fin 32) : Fin 32 := ⟨n.val / 2 * 2, by omega⟩
/-- The odd timer of a pair. -/
def oddOf (n : Fin 32) : Fin 32 := ⟨n.val / 2 * 2 + 1, by omega⟩

/-- Whether a timer belongs to a chained pair (R363). -/
def chained (v : Vector Timer 32) (n : Fin 32) : Bool := v[evenOf n].ctl.getLsbD 3

/-- Both captures dropped and OVR cleared, at RUN 0 to 1 (R362). -/
def Timer.clearCaps (t : Timer) : Timer := { t with cap0 := none, cap1 := none, ovr := 0 }

/-- RUN set; a change from 0 to 1 clears the captures (R362, R363). -/
def Timer.start (t : Timer) : Timer :=
  if t.run then t else { t.clearCaps with ctl := insertBits t.ctl 0 1#1 }

/-- RUN cleared (R363). -/
def Timer.stop (t : Timer) : Timer := { t with ctl := insertBits t.ctl 0 0#1 }

/-- Whether a party owns a timer (R360). A peek owns none. -/
def State.ownsTimer (s : State) (w : AlmParty) (n : Fin 32) : Bool :=
  match w with
  | .host _ => s.almanac.timers[n].owner == some none
  | .furrow g => match s.engines[g].cur with
    | some fid => s.almanac.timers[n].owner == some (some fid)
    | none => false
  | .peek => false

/-- Requester identity for a Ledger record; 0 for a furrow. -/
def partyRid : AlmParty → Word
  | .host r => r.setWidth 32
  | .furrow _ => 0
  | .peek => debugRid.setWidth 32

/-- Count after an increment of d, and whether it reached cmp: values are of w bits (R363, R364). -/
def incReach (w count cmp d : Nat) : Nat × Bool :=
  ((count + d) % 2 ^ w, decide ((cmp + 2 ^ w - count - 1) % 2 ^ w < d))

/-- The 64-bit value of a pair. -/
def pair64 (lo hi : Word) : Nat := hi.toNat * 4294967296 + lo.toNat

/-- One increment of d on every running timer; `due` says that it reached CMP (R364). -/
def stepTimers (d : Nat) (v : Vector Timer 32) : Vector Timer 32 :=
  vmap (fun n t =>
    if chained v n then
      let lo := v[evenOf n]
      let hi := v[oddOf n]
      if lo.run then
        let r := incReach 64 (pair64 lo.count hi.count) (pair64 lo.cmp hi.cmp) d
        if n.val % 2 = 0 then { t with count := nw r.1, due := r.2 }
        else { t with count := nw (r.1 / 4294967296) }
      else t
    else if t.run then
      let r := incReach 32 t.count.toNat t.cmp.toNat d
      { t with count := nw r.1, due := r.2 }
    else t) v

/-- A drill notes a compare event of a timer (R306, R366). -/
def State.tickDrills (s : State) (mask : BitVec 32) : State :=
  s.mapDrills fun d => { d with ticks := d.ticks ||| mask }

/-- Latched event source k of a furrow (R154, R366). -/
def State.latch (s : State) (fid k : Nat) : State :=
  s.updFurrow fid fun F => { F with ctx := { F.ctx with latched := F.ctx.latched ||| (1#16 <<< k) } }

/-- A due match takes effect: EVCNT, the AUTO advance or the ONESHOT stop, and what it drives (R363, R364, R366).
A pair acts in its even timer. -/
def State.matchTimer (s : State) (n : Fin 32) : State :=
  let v := s.almanac.timers
  let t := v[n]
  if !t.due then s
  else
    let ch := chained v n
    let s := s.updTimer n fun t => { t with due := false, evcnt := t.evcnt + 1 }
    let s :=
      match t.mode with
      | 1 =>
        if ch then
          let c := pair64 t.cmp v[oddOf n].cmp + pair64 t.period v[oddOf n].period
          (s.updTimer n fun t => { t with cmp := nw c }).updTimer (oddOf n) fun t =>
            { t with cmp := nw (c / 4294967296) }
        else s.updTimer n fun t => { t with cmp := t.cmp + t.period }
      | 2 => if ch then (s.updTimer n Timer.stop).updTimer (oddOf n) Timer.stop else s.updTimer n Timer.stop
      | _ => s
    let mask : BitVec 32 := (1#32 <<< n.val) ||| (if ch then 1#32 <<< (oddOf n).val else 0)
    let s := s.tickDrills mask
    match t.owner with
    | some (some fid) => s.latch fid 11
    | _ => s

/-- Every match that is due takes effect. -/
def State.settle (s : State) : State := (allFin 32).foldl State.matchTimer s

/-- A captured value enters the two slots, or counts in OVR (R367). -/
def Timer.capture (t : Timer) (v : Word) : Timer :=
  match t.cap0, t.cap1 with
  | none, _ => { t with cap0 := some v }
  | some _, none => { t with cap1 := some v }
  | some _, some _ => { t with ovr := if t.ovr = 0xFF then t.ovr else t.ovr + 1 }

/-- A capture of a timer, or of the 64 bits of its pair (R363, R367). -/
def captureTimer (v : Vector Timer 32) (n : Fin 32) : Vector Timer 32 :=
  if chained v n then
    vupd (vupd v (evenOf n) fun t => t.capture v[evenOf n].count) (oddOf n) fun t =>
      t.capture v[oddOf n].count
  else vupd v n fun t => t.capture v[n].count

/-- A read pops the older slot (R367). -/
def Timer.pop (t : Timer) : Timer := { t with cap0 := t.cap1, cap1 := none }

/-- What ATn_CAP shows: the older slot, 0 with none; the high half of the last sample in the odd timer of a pair (R363, R367). -/
def capValue (v : Vector Timer 32) (n : Fin 32) : Word :=
  if chained v n && n.val % 2 == 1 then v[n].latch else v[n].cap0.getD 0

/-- ATn_CAP after a read that pops: a pair pops whole at its even timer (R363, R367). -/
def popCap (v : Vector Timer 32) (n : Fin 32) : Vector Timer 32 :=
  if chained v n then
    if n.val % 2 = 0 then
      vupd (vupd v (oddOf n) fun t => { t.pop with latch := t.cap0.getD 0 }) n Timer.pop
    else v
  else vupd v n Timer.pop

/-- Word at an offset of a timer (R361). -/
def timerWord (v : Vector Timer 32) (n : Fin 32) (off : Nat) : Word :=
  let t := v[n]
  match off with
  | 0x00 => (t.evcnt ++ 0#1 ++ bits t.ctl 0 15 : BitVec 24).setWidth 32
  | 0x04 => if chained v n && n.val % 2 == 1 then t.latch else t.count
  | 0x08 => t.cmp
  | 0x0C => t.period
  | 0x10 => capValue v n
  | 0x14 => (t.ovr ++ bit 1 t.cap1.isSome ++ bit 1 t.cap0.isSome : BitVec 10).setWidth 32
  | _ => 0

/-- What an owner's read at an offset changes: COUNT of a pair is sampled, CAP pops (R363, R367). -/
def timerRead (v : Vector Timer 32) (n : Fin 32) (off : Nat) : Vector Timer 32 :=
  match off with
  | 0x04 =>
    if chained v n && n.val % 2 == 0 then vupd v (oddOf n) fun t => { t with latch := t.count } else v
  | 0x10 => popCap v n
  | _ => v

/-- A value of ATn_CTL with its reserved bits 0 (R5, R362): CHAIN of an odd timer, and what CAPSRC leaves reserved of CAPSEL. -/
def ctlFields (n : Fin 32) (v : Word) : Word :=
  let v := if n.val % 2 = 1 then insertBits v 3 0#1 else v
  let v := match fieldN v 4 4 with
    | 3 => insertBits v 14 0#1
    | 4 => v
    | 5 => v
    | _ => insertBits v 8 0#7
  (bits v 0 15).setWidth 32

/-- ATn_CTL written by the owner (R362): MODE 11 leaves MODE, and frozen fields keep their values in Sealed mode after the first
commit. -/
def ctlAfter (t : Timer) (n : Fin 32) (frozen : Bool) (v : Word) : Word :=
  let v := ctlFields n (if fieldN v 1 2 = 3 then insertBits v 1 (bits t.ctl 1 2) else v)
  if frozen then insertBits v 1 (bits t.ctl 1 14) else v

/-- Whether a write carries another value in a frozen field; a reserved bit is no field (R5, R362). -/
def frozenDiffers (t : Timer) (n : Fin 32) (v : Word) : Bool := bits t.ctl 1 14 != bits (ctlFields n v) 1 14

/-- A write of ATn_CTL by its owner (R362, R368). -/
def State.writeTimerCtl (s : State) (n : Fin 32) (v : Word) : State :=
  let t := s.almanac.timers[n]
  let c := ctlAfter t n s.sealedCommitted v
  let s := if s.sealedCommitted && frozenDiffers t n v then s.log 8 2 none n.val v 0 else s
  s.updTimer n fun t =>
    let u := if !t.run && c.getLsbD 0 then t.clearCaps else t
    { u with ctl := c, capDue := u.capDue || (v.getLsbD 15 && fieldN c 4 4 == 1) }

/-- A write of COUNT, CMP or PERIOD by the owner waits for its landing; the even timer of a pair holds it (R363, R365). -/
def putTimer (v : Vector Timer 32) (n : Fin 32) (off : Nat) (x : Word) : Vector Timer 32 :=
  let ch := chained v n
  let even := n.val % 2 == 0
  match off with
  | 0x04 =>
    if ch && even then vupd v n fun t => { t with halfCount := some x }
    else
      let v := vupd v n fun t => { t with pendCount := some x }
      if ch then vupd v (evenOf n) fun t => { t with pendCount := t.halfCount, halfCount := none } else v
  | 0x08 =>
    if ch && even then vupd v n fun t => { t with halfCmp := some x }
    else
      let v := vupd v n fun t => { t with pendCmp := some x }
      if ch then vupd v (evenOf n) fun t => { t with pendCmp := t.halfCmp, halfCmp := none } else v
  | 0x0C =>
    if ch && even then vupd v n fun t => { t with halfPeriod := some x }
    else
      let v := vupd v n fun t => { t with pendPeriod := some x }
      if ch then vupd v (evenOf n) fun t => { t with pendPeriod := t.halfPeriod, halfPeriod := none } else v
  | _ => v

/-- A write at an offset of a timer by its owner (R361). -/
def State.writeTimer (s : State) (n : Fin 32) (off : Nat) (x : Word) : State :=
  if off = 0 then s.writeTimerCtl n x
  else { s with almanac := { s.almanac with timers := putTimer s.almanac.timers n off x } }

/-- Pending writes of a timer land together (R365). -/
def Timer.land (t : Timer) : Timer :=
  { t with
    count := t.pendCount.getD t.count, cmp := t.pendCmp.getD t.cmp, period := t.pendPeriod.getD t.period,
    pendCount := none, pendCmp := none, pendPeriod := none }

/-- Landing of a timer, or of both timers of a pair, and of a software capture (R363, R365, R368). -/
def landTimer (v : Vector Timer 32) (n : Fin 32) : Vector Timer 32 :=
  let w := if chained v n then vupd (vupd v (evenOf n) Timer.land) (oddOf n) Timer.land
    else vupd v n Timer.land
  if v[n].capDue then vupd (captureTimer w n) n fun t => { t with capDue := false } else w

/-- ALM_START and ALM_STOP: each marked timer that the writer owns, a chained pair only with both bits; every
ignored bit is recorded (R363). -/
def State.almMask (s : State) (w : AlmParty) (mask : Word) (h : Timer → Timer) : State :=
  (allFin 32).foldl (fun t n =>
    if mask.getLsbD n.val then
      if s.ownsTimer w n && (!chained s.almanac.timers n
          || (mask.getLsbD (evenOf n).val && mask.getLsbD (oddOf n).val)) then t.updTimer n h
      else t.log 8 3 none n.val mask (partyRid w)
    else t) s

/-! The time base -/

/-- ALM cycles that one increment stands for (R364, R369). -/
def Almanac.units (A : Almanac) : Nat := if A.lf then 3000 else 1

/-- The time base advanced by n units of 2^-32 ns (R356). -/
def advanceTb (tb : DWord) (frac : Word) (n : Nat) : DWord × Word :=
  let t := frac.toNat + n
  (nsTb (tbNs tb + t / 4294967296), nw t)

/-- A watchdog counted down by d ALM cycles (R371, R374). -/
def Watchdog.tick (w : Watchdog) (d : Nat) : Watchdog :=
  if w.running && w.en && !w.frozen then { w with remain := w.remain - d } else w

/-- A kick reloads the full period; none during a freeze (R374). -/
def Watchdog.kick (w : Watchdog) : Watchdog :=
  if w.frozen then w else { w with remain := w.period.toNat * almPerMs }

/-- Whether the supervisor's firmware runs (R371, R455). -/
def State.supAlive (s : State) : Bool :=
  s.sup.running && !s.sup.halted && !s.pins.clkFault.getLsbD 4 && !s.pins.dormantAck

/-- The block leaves Dormant: PWR_DORMANT_ACK falls, WDS reloads its period and the supervisor resumes (R483). -/
def State.leaveDormant (s : State) : State :=
  if s.pins.dormantAck then
    { s with
      pins := { s.pins with dormantAck := false }
      almanac := { s.almanac with wds := { s.almanac.wds with remain := s.almanac.wds.period.toNat * almPerMs, running := true } } }
  else s

/-- TIME_BASE_INCREMENT (R356, R364, R369, R371): matches of the last increment take effect, the time base
advances by INC, timers, watchdogs and the counter of the start deadline (R417) count. The supervisor's running firmware kicks WDS (log 28, DESIGN CHOICE). -/
def State.almTick (s : State) : State :=
  let s := s.settle
  let A := s.almanac
  let d := A.units
  let r := advanceTb A.tb A.tbFrac (A.inc.toNat * d)
  let wds := if s.supAlive then A.wds.kick else A.wds
  s.updAlm fun A =>
    { A with
      tb := r.1, tbFrac := r.2, timers := stepTimers d A.timers, wds := wds.tick d
      wdf := vmap (fun _ w => w.tick d) A.wdf, deadline := A.deadline.map (· - d) }

/-- TB_RATE k clamped to 500 ppm, in units of 2^-40 (R358). -/
def clampPpm (k : Int) : Int := max (-549755814) (min 549755814 k)

/-- INC for rate k and slew j, both in units of 2^-40: nominal / (1 + k), then the slew (R356, R357; log 18, DESIGN CHOICE). -/
def incOf (k j : Int) : BitVec 40 :=
  let base : Int := (nominalInc.toNat : Int) * 2 ^ 40 / (2 ^ 40 + k)
  BitVec.ofInt 40 (base + base * j / 2 ^ 40)

/-- Step D in units of 2^-20 of DDIV (R308, R310). -/
def ddivSteps (v : Word) : Nat := v.toNat

/-- D' = D x (1 + k) rounded to the nearest 2^-20 (R309). -/
def trimmed (ddiv : Word) (rate : BitVec 32) : Nat :=
  (((ddivSteps ddiv : Int) * (2 ^ 40 + rate.toInt) + 2 ^ 39) / 2 ^ 40).toNat

/-- Each drill with TRACK recomputes D' at a publication of k (R309). -/
def State.retrim (s : State) : State :=
  s.mapDrills fun d =>
    if d.dmode.getLsbD 21 then { d with dTrim := trimmed d.ddiv s.almanac.rate } else d

/-- Mean delay of the synchroniser, 2.5 ALM cycles, in whole nanoseconds (R357; log 18, DESIGN CHOICE). -/
def ppsDelayNs : Int := 25

/-- PTP_PPS_EDGE (R357, R358, R369, R370): capture, which the Almanac makes by itself. The supervisor's firmware then corrects: the first valid
edge, time lost at an unplanned LF entry and errors of more than 1 ms behind step forward; every other error slews; k is published, and in LF mode
keeps its value. `ppsAt` is the time after the edge. -/
def State.ppsEdge (s : State) (sec : BitVec 48) (valid : Bool) : State :=
  let cap := s.almanac.tb
  let s := s.updAlm fun A => { A with ppsCap := cap, ppsAt := cap, pps := true, hold := false }
  if !valid ∨ !s.supAlive then s
  else
    let err : Int := (tbNs cap : Int) - ppsDelayNs - (fieldN sec 0 32 : Int) * 1000000000
    let A := s.almanac
    let step := ((!A.set || A.loss) && err < 0) || err < -1000000
    let good := err.natAbs ≤ 100
    let n := if good then min 4 (A.goodEdges + 1) else 0
    let locked := if err.natAbs > 1000 then false else A.locked || n == 4
    let ahead := err > 1000000000
    let s := if ahead && !A.ahead then s.log 8 6 none 0 (nw (err.toNat / 1000000000)) 0 else s
    let k := if A.lf then A.rate.toInt else clampPpm (Config.servoRate cap (bits sec 0 32))
    let tb := if step then nsTb (tbNs cap + err.natAbs) else A.tb
    let j := if step then 0 else clampPpm (Config.servoSlew cap (bits sec 0 32))
    let s := s.updAlm fun A =>
      { A with
        tb := tb, ppsAt := tb, set := true, goodEdges := n, locked := locked, ahead := ahead, loss := false, slew := j
        rate := BitVec.ofInt 32 k, inc := incOf k j }
    if s.almanac.lf then s else s.retrim

/-! Commands -/

/-- TIME_BASE_INCREMENT (R356, R364). -/
def execTimeBaseIncrement (s : State) : Out := .next s.almTick

/-- PTP_PPS_EDGE (R357). -/
def execPtpPpsEdge (sec : BitVec 48) (valid : Bool) (s : State) : Out := .next (s.ppsEdge sec valid)

/-- Nanoseconds since the latest PPS edge, by the time base (R358, R359; log 18, DESIGN CHOICE). -/
def State.ppsAge (s : State) : Nat := s.since s.almanac.ppsAt

/-- PPS_HOLD_TIMEOUT (R358): 3 s without an edge: k keeps its value, HOLD sets, LOCKED clears (R359). -/
def execPpsHoldTimeout (s : State) : Out :=
  .next (if s.ppsAge < 3000000000 then s
    else s.updAlm fun A => { A with hold := true, locked := false, goodEdges := 0, pps := false })

/-- PPS_EDGE_TIMEOUT (R359): 1.5 s without an edge. -/
def execPpsEdgeTimeout (s : State) : Out :=
  .next (if s.ppsAge < 1500000000 then s else s.updAlm fun A => { A with pps := false })

/-- LF_MODE_EXIT (R370): ALM increments resume once DRL is in range and the block is not Dormant. -/
def execLfModeExit (s : State) : Out :=
  .next (if s.pins.clkFault.getLsbD 7 || s.pins.dormantAck then s
    else s.updAlm fun A => { A with lf := false })

/-- TIMER_MATCH (R364, R366). -/
def execTimerMatch (n : Fin 32) (s : State) : Out := .next (s.matchTimer n)

/-- TIMER_WRITE_LANDING (R365). -/
def execTimerWriteLanding (n : Fin 32) (s : State) : Out :=
  .next (s.updAlm fun A => { A with timers := landTimer A.timers n })

/-- ATN_CTL_WRITE (R360, R362): only the owner writes a timer; another writer is recorded. -/
def execAtnCtlWrite (w : AlmParty) (n : Fin 32) (v : Word) (s : State) : Out :=
  .next (if s.ownsTimer w n then s.writeTimerCtl n v else s.log 8 1 none n.val v (partyRid w))

/-- CAPNOW (R368): the software capture of a timer with CAPSRC 1 lands. -/
def execCapnow (w : AlmParty) (n : Fin 32) (s : State) : Out :=
  .next (if s.ownsTimer w n then
      if s.almanac.timers[n].capsrc = 1 then
        s.updAlm fun A => { A with timers := captureTimer A.timers n }
      else s
    else s.log 8 1 none n.val 0x8000 (partyRid w))

/-- TIMER_CAPTURE (R367, R368): a source 2 to 5 is seen at an ALM edge. -/
def execTimerCapture (n : Fin 32) (s : State) : Out :=
  .next (if 2 ≤ s.almanac.timers[n].capsrc ∧ s.almanac.timers[n].capsrc ≤ 5 then
      s.updAlm fun A => { A with timers := captureTimer A.timers n }
    else s)

/-- ALM_START (R363). -/
def execAlmStart (w : AlmParty) (mask : Word) (s : State) : Out := .next (s.almMask w mask Timer.start)

/-- ALM_STOP (R363). -/
def execAlmStop (w : AlmParty) (mask : Word) (s : State) : Out := .next (s.almMask w mask Timer.stop)

/-- ATN_CAP_READ (R367, R401): the owner's read pops; any other read is a peek. -/
def execAtnCapRead (w : AlmParty) (n : Fin 32) (s : State) : Out :=
  let v := capValue s.almanac.timers n
  let s := s.updHost fun H => { H with resp := some v }
  .next (if s.ownsTimer w n then s.updAlm fun A => { A with timers := popCap A.timers n } else s)

/-- Whether a requester's read is a peek: the debug port with PEEK 1 (R401, R447). -/
def State.isPeek (s : State) (rid : Rid) : Bool := rid == debugRid && s.dbg.peek

/-- The latest TB_LO sample of a requester; 0 with none (R359). -/
def tbSampleOf (l : List (Rid × DWord)) (rid : Rid) : DWord :=
  match l.find? fun e => e.1 == rid with
  | some e => e.2
  | none => 0

/-- TB_LO_READ (R359, R401): samples 64 bits for the requester; a peek leaves the sample. -/
def execTbLoRead (rid : Rid) (s : State) : Out :=
  let s' := s.updHost fun H => { H with resp := some (bits s.now 0 32) }
  .next (if s.isPeek rid then s'
    else s'.updAlm fun A => { A with tbSample := (rid, A.tb) :: A.tbSample.filter fun e => e.1 ≠ rid })

end Sys2Proof.Machine
end

