-- ==== Sys2Proof/Machine/Plot.lean ====
section
/-! DEFINITION. Plot bytes, array codes and the findings of readers (R246-R260, R265, R266, R491). An
address is the engine address [21:0] of R113. -/

namespace Sys2Proof.Machine

/-- Key of a Plot byte: Field and engine address (log 8, DESIGN CHOICE). -/
def plotKey (f : Fin 4) (a : Nat) : Nat := f.val * 4194304 + a % 4194304

/-- Bank of an engine address (R113). -/
def bankOf (a : Nat) : Fin 32 := ⟨a / 131072 % 32, by omega⟩

/-- Row of an engine address within its bank (R246). -/
def rowOf (a : Nat) : Nat := a % 131072 / 128

/-- Number of the 16-byte word of an engine address within its Field. -/
def wordOf (a : Nat) : Nat := a % 4194304 / 16

/-- The loss count of a bank after one more loss; an even count says that the bank was zero-filled since (R23, R264; log 8, DESIGN CHOICE). -/
def lossAfter (e : Nat) : Nat := e + 1 + e % 2

/-- The loss count of a bank after a zero fill of the whole array. -/
def zeroAfter (e : Nat) : Nat := e + e % 2

/-- What a byte of Plot reads as that nothing has written: 0 after a zero fill of the whole array, otherwise
what the array was left with (R23, R264, R406; log 8, DESIGN CHOICE). -/
def State.plotDefault (s : State) (f : Fin 4) (a : Nat) : Byte :=
  let e := s.fields[f].banks[bankOf a].epoch
  if e % 2 = 0 then 0 else Config.lostByte e (plotKey f a)

/-- One byte of Plot. -/
def State.plotByte (s : State) (f : Fin 4) (a : Nat) : Byte :=
  mapGet (s.plotDefault f a) (plotKey f a) s.plot

/-- Field of a Plot key. -/
def cellField (k : Nat) : Fin 4 := ⟨k / 4194304 % 4, by omega⟩

/-- The canonical form of Plot: keys strictly rising within the four Fields, and no byte listed that an unlisted address reads as
(log 8, DESIGN CHOICE). -/
abbrev Memory.wf (s : State) : Prop :=
  mapSorted s.plot ∧ ∀ c ∈ s.plot, c.1 < 16777216 ∧ c.2 ≠ s.plotDefault (cellField c.1) (c.1 % 4194304)

/-- n bytes of Plot from address a. -/
def State.plotBytes (s : State) (f : Fin 4) (a : Nat) : Nat → List Byte
  | 0 => []
  | n + 1 => s.plotByte f a :: s.plotBytes f (a + 1) n

/-- One byte of Plot written; the list stays canonical. -/
def State.putByte (s : State) (f : Fin 4) (a : Nat) (b : Byte) : State :=
  { s with plot := mapSet (s.plotDefault f a) (plotKey f a) b s.plot }

/-- Bytes of Plot written from address a on. -/
def State.putBytes (s : State) (f : Fin 4) (a : Nat) : List Byte → State
  | [] => s
  | b :: l => (s.putByte f a b).putBytes f (a + 1) l

/-- Key of a bank in Seed store tables. -/
def bankKey (f : Fin 4) (b : Fin 32) : Nat := f.val * 32 + b.val

/-- A row enters the pending-repair list (R266); in Sealed mode after commit a Ledger record says so. -/
def State.flagRow (s : State) (f : Fin 4) (a : Nat) : State :=
  let e := (bankKey f (bankOf a), rowOf a)
  let t := if e ∈ s.seed.pendingRows then s
    else s.updSeed fun d => { d with pendingRows := d.pendingRows ++ [e] }
  if s.sealedCommitted then
    t.log 2 7 (some f) (bankOf a).val (nw (rowOf a)) 0
  else t

/-- Nanoseconds in 24 h (R266). -/
def dayNs : Nat := 86400000000000

/-- A corrected error of a word: Tally counts it, the Gleaner keeps up to 4 reports of a bank, and the row
counts toward the threshold of 4 in 24 h (R259, R266). -/
def State.noteCorr (s : State) (f : Fin 4) (a : Nat) : State :=
  let s := s.count 1 (f.val * 6 + 4) 1
  let B := s.fields[f].banks[bankOf a]
  let w := wordOf a
  let old := (mapGet [] (rowOf a) B.corrections).filter fun t => decide (s.since t < dayNs)
  let times := old ++ [s.now]
  let s := s.updBank f (bankOf a) fun B =>
    { B with
      gleanQ := if w ∈ B.gleanQ ∨ 4 ≤ B.gleanQ.length then B.gleanQ else B.gleanQ ++ [w]
      corrections := mapSet [] (rowOf a) (if 4 ≤ times.length then [] else times) B.corrections }
  if 4 ≤ times.length then s.flagRow f a else s

/-- A finding of an uncorrectable word (R491): event 1, 2 (poisoned partial write) or 3 (drill feeder). -/
def State.noteUncorr (s : State) (f : Fin 4) (a : Nat) (event : Nat) : State :=
  let s := s.count 1 (f.val * 6 + 5) 1
  if wordOf a ∈ s.fields[f].known then s
  else
    let s := s.log 4 event (some f) (bankOf a).val (nw (a % 4194304 / 16 * 16)) 0
    let s := s.flagRow f a
    if s.fields[f].known.length < 32 then
      s.updField f fun F => { F with known := F.known ++ [wordOf a] }
    else s

/-- Array code of the word of an address. -/
def State.eccAt (s : State) (f : Fin 4) (a : Nat) : Option EccSt := mapFind (wordOf a) s.fields[f].ecc

/-- The code of the word set or cleared. -/
def State.setEcc (s : State) (f : Fin 4) (a : Nat) (e : Option EccSt) : State :=
  s.updField f fun F => { F with ecc := mapPut (wordOf a) e F.ecc }

/-- A full-word write replaces data and check bits, and the word leaves the list (R258, R491). -/
def State.clearEcc (s : State) (f : Fin 4) (a : Nat) : State :=
  s.updField f fun F =>
    { F with ecc := mapPut (wordOf a) none F.ecc, known := F.known.filter (· ≠ wordOf a) }

/-- A reader finds the word of an address: what it notes, and whether the word is uncorrectable (R259, R491). -/
def State.noteRead (s : State) (f : Fin 4) (a : Nat) (event : Nat) : State × Bool :=
  match s.eccAt f a with
  | none => (s, false)
  | some .corr => (s.noteCorr f a, false)
  | some .uncorr => (s.noteUncorr f a event, true)
  | some .poison => (s.noteUncorr f a event, true)

/-- A reader finds every word of a range: what it notes, and whether one is uncorrectable. -/
def State.noteRange (s : State) (f : Fin 4) (a : Nat) (event : Nat) : Nat → State × Bool
  | 0 => (s, false)
  | n + 1 =>
    let (t, u) := s.noteRead f a event
    let (t', u') := t.noteRange f (a + 16) event n
    (t', u || u')

/-- Words of 16 bytes that n bytes from a touch. -/
def wordsSpan (a n : Nat) : Nat := if n = 0 then 0 else (a + n - 1) / 16 - a / 16 + 1

/-- A write within one 16-byte word: a full word clears its error, a partial write merges and poisons an
uncorrectable word (R247, R258). -/
def State.writeWord (s : State) (f : Fin 4) (a : Nat) (l : List Byte) : State :=
  if l.length = 16 then (s.clearEcc f a).putBytes f a l
  else
    match s.eccAt f a with
    | none => s.putBytes f a l
    | some .corr => ((s.noteCorr f a).setEcc f a none).putBytes f a l
    | some _ => ((s.noteUncorr f a 2).setEcc f a (some .poison)).putBytes f a l

/-- Bytes written over as many words as they touch; n bounds the words. -/
def State.writeWords (s : State) (f : Fin 4) (a : Nat) (l : List Byte) : Nat → State
  | 0 => s
  | n + 1 =>
    if l.isEmpty then s
    else
      let k := 16 - a % 16
      (s.writeWord f a (l.take k)).writeWords f (a + k) (l.drop k) n

/-- Bytes written to Plot by any master (R247, R258). -/
def State.plotWrite (s : State) (f : Fin 4) (a : Nat) (l : List Byte) : State :=
  s.writeWords f a l (l.length / 16 + 2)

/-- Zero fill of a range by the Field mover (R253): whole words, so errors clear. -/
def State.zeroFill (s : State) (f : Fin 4) (a n : Nat) : State :=
  s.plotWrite f a (List.replicate n 0)

/-- A bank's contents become unpredictable (R23, R406; log 8, DESIGN CHOICE). -/
def State.loseBank (s : State) (f : Fin 4) (b : Fin 32) : State :=
  { s.updBank f b fun B => { B with epoch := lossAfter B.epoch } with
    plot := s.plot.filter fun c => decide (¬ (plotKey f (b.val * 131072) ≤ c.1
      ∧ c.1 < plotKey f (b.val * 131072) + 131072)) }

/-- A destructive test leaves a bank zero-filled and free of errors (R261, R263). -/
def State.zeroBank (s : State) (f : Fin 4) (b : Fin 32) : State :=
  let s := s.updField f fun F =>
    { F with
      banks := vupd F.banks b fun B => { B with epoch := zeroAfter B.epoch }
      ecc := F.ecc.filter fun c => decide (c.1 / 8192 ≠ b.val)
      known := F.known.filter fun w => decide (w / 8192 ≠ b.val) }
  { s with plot := s.plot.filter fun c => decide (¬ (plotKey f (b.val * 131072) ≤ c.1
      ∧ c.1 < plotKey f (b.val * 131072) + 131072)) }

end Sys2Proof.Machine
end

