-- ==== Sys2Proof/Machine/Rings.lean ====
section
/-! DEFINITION. A furrow's Plot as masters see it: extents, start record, port block and ring headers (R108,
R127, R249, R275-R277, R322). -/

namespace Sys2Proof.Machine

/-- Extent and offset of a Plot segment in extent form (R107). -/
def Seg.ext? (g : Seg) : Option (Nat × Nat) :=
  if !g.tgt && g.base.getLsbD 47 then some (fieldN g.base 32 4, fieldN g.base 0 22) else none

/-- Engine address of an offset within an extent (R108). -/
def Furrow.plotAddr (F : Furrow) (ext off : Nat) : Option Nat := (F.extents[ext]?).map fun e => e.base + off

/-- Offset of the start record in extent 0 (R127). -/
def Furrow.recordOff (F : Furrow) : Nat := ceilDiv F.desc.codeLen 64 * 64

/-- Length of the start record (R128). -/
def recordLen : Nat := 152

/-- Offset of the port block in extent 0 (R275). -/
def Furrow.portOff (F : Furrow) : Nat := ceilDiv (F.recordOff + recordLen) 1024 * 1024

/-- Offset of a ring header from the port block: ingress, egress and mover rings in the port block, drill rings in the
drill block (R275, R322). -/
def headerOff (h : Nat) : Nat :=
  if h < 9 then h * 32
  else if h < 25 then 0x400 + (h - 9) * 32
  else 0x600 + (h - 25) * 32

/-- Engine address of a ring header. -/
def Furrow.headerAddr (F : Furrow) (h : Nat) : Option Nat := F.plotAddr 0 (F.portOff + headerOff h)

/-- The 32-bit word of a furrow's Plot at an engine address of its Field. -/
def State.plotWord (s : State) (f : Fin 4) (a : Nat) : Word := le32 (s.plotBytes f a 4) 0

/-- Word w of a ring header as it stands in Plot (R276). -/
def State.header (s : State) (F : Furrow) (h w : Nat) : Word :=
  match F.home, F.headerAddr h with
  | some f, some a => s.plotWord f (a + 4 * w)
  | _, _ => 0

/-- The hardware writes a word of a ring header (R276). -/
def State.putHeader (s : State) (F : Furrow) (h w : Nat) (v : Word) : State :=
  match F.home, F.headerAddr h with
  | some f, some a => s.plotWrite f (a + 4 * w) (bytes32 v)
  | _, _ => s

/-- FIDX and HIDX of a header (R276). -/
def State.fidx (s : State) (F : Furrow) (h : Nat) : Word := s.header F h 2
def State.hidx (s : State) (F : Furrow) (h : Nat) : Word := s.header F h 4

/-- The active ring of a header (R277). -/
def Furrow.ring? (F : Furrow) (h : Nat) : Option Ring := F.rings.find? fun r => r.hdr == h

/-- A ring of a furrow rewritten. -/
def State.updRing (s : State) (fid h : Nat) (k : Ring → Ring) : State :=
  s.updFurrow fid fun F => { F with rings := updWhere (fun r => r.hdr == h) k F.rings }

/-- The header whose bytes 0-15 an engine address lies in, if any (R277). -/
def Furrow.doorbellAt (F : Furrow) (a : Nat) : Option Nat :=
  match F.extents[0]? with
  | none => none
  | some e =>
    let o := a - (e.base + F.portOff)
    if a < e.base + F.portOff ∨ e.base + e.len ≤ a ∨ 16 ≤ o % 32 then none
    else if o < 9 * 32 then some (o / 32)
    else if F.desc.drills ≠ 0 ∧ 0x400 ≤ o ∧ o < 0x800 then some ((o - 0x400) / 32 + 9)
    else none

/-- Length of the port block and, with drills, the drill block (R275, R322). -/
def Furrow.blockLen (F : Furrow) : Nat := if F.desc.drills = 0 then 1024 else 2048

/-- Bits of byte o of a ring header that a store may change: words 4-7 are RO, the other bits are fields of the ring's kind (R5, R276). -/
def headerMask (h o : Nat) : Byte :=
  let out : Bool := (4 ≤ h && h < 8) || (9 ≤ h && h < 25)
  match o with
  | 0 => if out then 0xFF else 0xFD
  | 1 => if out then 0x7F else 0x03
  | 2 => 0
  | 3 => 0
  | o => if o < 12 then 0xFF else if o < 16 then (if out then 0xFF else 0) else 0

/-- Bits of a byte of a furrow's Plot that its stores may change: in the port and drill blocks those of its ring headers, everywhere else
all (R5, R275, R276, R322). -/
def Furrow.storeMask (F : Furrow) (a : Nat) : Byte :=
  match F.extents[0]? with
  | none => 0xFF
  | some e =>
    let o := a - (e.base + F.portOff)
    if a < e.base + F.portOff ∨ e.base + e.len ≤ a ∨ F.blockLen ≤ o then 0xFF
    else if o < 9 * 32 then headerMask (o / 32) (o % 32)
    else if o < 0x400 then 0
    else if F.desc.drills.getLsbD ((o - 0x400) / 32 % 16) then headerMask ((o - 0x400) / 32 + 9) (o % 32)
    else 0

/-- Whether n bytes from an engine address lie apart from a furrow's port and drill blocks. -/
def Furrow.offPorts (F : Furrow) (a n : Nat) : Bool :=
  match F.extents[0]? with
  | none => true
  | some e => decide (a + n ≤ e.base + F.portOff ∨ e.base + F.portOff + F.blockLen ≤ a ∨ e.base + e.len ≤ a)

/-- Bytes as a furrow's store leaves them at an engine address. -/
def State.portBytes (s : State) (F : Furrow) (f : Fin 4) (a : Nat) (l : List Byte) : List Byte :=
  (List.range l.length).map fun k =>
    (s.plotByte f (a + k) &&& ~~~F.storeMask (a + k)) ||| (byteAt l k &&& F.storeMask (a + k))

/-- What a furrow's store of bytes l leaves at an engine address: l itself apart from its port and drill blocks (R118, R276). -/
def State.stored (s : State) (F : Furrow) (f : Fin 4) (a : Nat) (l : List Byte) : List Byte :=
  if F.offPorts a l.length then l else s.portBytes F f a l

/-- A furrow's store to Plot (R118, R276). -/
def State.portStore (s : State) (F : Furrow) (f : Fin 4) (a : Nat) (l : List Byte) : State :=
  s.plotWrite f a (s.stored F f a l)

/-- A bank that masters other than an engine may reach for a furrow (R249, R251). -/
def State.bankOpen (s : State) (f : Fin 4) (b : Fin 32) : Bool :=
  s.fields[f].banks[b].st == .owned || s.fields[f].banks[b].st == .handover

/-- Whether a range lies in one extent of the furrow, in banks that masters may reach (R249). -/
def State.rangeOk (s : State) (F : Furrow) (a n : Nat) : Bool :=
  match F.home with
  | none => false
  | some f =>
    (F.extents.any fun e => decide (e.base ≤ a ∧ a + n ≤ e.base + e.len))
      && s.bankOpen f (bankOf a) && s.bankOpen f (bankOf (a + n - 1))

/-- Resolution of a ring place or descriptor segment (R277): checks 1 and 3 of R110 and a Plot segment; the answer is the
extent and the offset in it. -/
def resolvePlot (segs : Vector Seg 8) (priv : Bool) (i : BitVec 3) (off len : Nat) (r w : Bool) :
    Option (Nat × Nat) :=
  let g := segs[i.toNat]?.getD Seg.zero
  if (r && !g.r) || (w && !g.w) || (g.sup && !priv) || decide (g.limit.toNat < off + len) then none
  else g.ext?.map fun e => (e.1, e.2 + off)

/-- The doorbell that published index i: the first whose FIDX lies beyond it (R277). -/
def Ring.pubOf (r : Ring) (i : Word) : Option Doorbell :=
  r.pubs.find? fun d => decide (0 < (d.words[2] - i).toInt)

/-! Events of R154 -/

/-- Number of lanes in a mask. -/
def lanes (m : BitVec 8) : Nat := ((List.range 8).filter fun i => m.getLsbD i).length

/-- TXMASK and RXMASK (R313). -/
def Drill.txMask (d : Drill) : BitVec 8 := d.dmode.extractLsb' 0 8
def Drill.rxMask (d : Drill) : BitVec 8 := d.dmode.extractLsb' 8 8
def Drill.feedOn (d : Drill) : Bool := d.dmode.getLsbD 19

/-- Whether an egress or TX ring has room for a descriptor (R277). -/
def State.ringRoom (s : State) (F : Furrow) (h : Nat) : Bool :=
  match F.ring? h with
  | some r => decide ((s.fidx F h - s.hidx F h).toNat < 2 ^ r.size)
  | none => false

/-- Whether an ingress or RX ring holds bytes that the furrow has not consumed (R277). -/
def State.ringUnread (s : State) (F : Furrow) (h : Nat) : Bool :=
  match F.ring? h with
  | some _ => s.hidx F h != s.fidx F h
  | none => false

/-- Descriptors of furrows on an engine in a Field's mover. -/
def State.jobsOf (s : State) (f : Fin 4) (g : Option (Fin 96)) : Nat :=
  (s.fields[f].ports.jobs.filter fun j => ((s.furrow? j.fid).bind Furrow.engine) == g).length

/-- Descriptors of a Field in the shared slots: those beyond the 8 of each engine (R297). -/
def State.sharedJobs (s : State) (f : Fin 4) : Nat :=
  ((fieldEngines f).map fun g => s.jobsOf f (some g) - 8).sum

/-- Whether a furrow's next descriptor finds a slot (R297). -/
def State.moverSlot (s : State) (f : Fin 4) (g : Option (Fin 96)) : Bool :=
  decide (s.jobsOf f g < 8) || decide (s.sharedJobs f < 32)

/-- The threshold condition of a drill, for the furrow that names it (R321). -/
def State.drillThr (s : State) (F : Option Furrow) (f : Fin 4) (n : Fin 16) : Bool :=
  let d := s.fields[f].drills[n]
  if d.feedOn then
    match F with
    | some F => s.ringRoom F (9 + n.val) || s.ringUnread F (25 + n.val)
    | none => false
  else
    (d.txMask != 0 && decide (d.txFifo.length ≤ 2 * fieldN d.dmode 24 4)) ||
      (d.rxMask != 0 && decide (2 * fieldN d.dmode 28 4 + 2 ≤ d.rxFifo.length))

/-- Event sources of a furrow that are pending (R154). -/
def State.sources (s : State) (F : Furrow) : BitVec 16 :=
  let lvl (k : Nat) : Bool :=
    if k < 4 then s.ringUnread F k
    else if k < 8 then s.ringRoom F k
    else if k = 8 then !F.ctlq.isEmpty
    else if k = 10 then
      match F.home with
      | some f => (allFin 16).any fun d => F.desc.drills.getLsbD d.val && s.drillThr (some F) f d
      | none => false
    else F.ctx.latched.getLsbD k
  (List.range 12).foldl (fun w k => if lvl k then w ||| (1#16 <<< k) else w) 0#16

end Sys2Proof.Machine
end

