-- ==== Sys2Proof/Machine/Drills.lean ====
section
/-! DEFINITION. The drills: program words, lanes, FIFOs, run registers and commands (R299-R321, R326-R329). -/

namespace Sys2Proof.Machine

/-! Pins (R300, R329). A pin record body is 8 bytes: PIN, OWNER, ROLE, IDLE. -/

/-- The record of pin p in a Field's pad control. -/
def Field.pin? (F : Field) (p : Nat) : Option (List Byte) :=
  F.pinTab.find? fun b => (byteAt b 0).toNat == p

def pinOwner (b : List Byte) : Nat := (byteAt b 1).toNat
def pinRole (b : List Byte) : Nat := (byteAt b 2).toNat
def pinIdle (b : List Byte) : Nat := (byteAt b 3).toNat

/-- The pin of a Field that carries role r of drill d. -/
def Field.rolePin (F : Field) (d : Fin 16) (r : Nat) : Option Nat :=
  (F.pinTab.find? fun b => pinOwner b == d.val && pinRole b == r).map fun b => (byteAt b 0).toNat

/-- Level of a pin given to a pad word: driven to a level, or not driven. -/
def padSet (out oe : BitVec 32) (p : Nat) (o : Option Bool) : BitVec 32 × BitVec 32 :=
  match o with
  | some b => (insertBits out p (bit 1 b), insertBits oe p 1#1)
  | none => (insertBits out p 0#1, insertBits oe p 0#1)

/-- Pads of a drill that is IDLE: the IDLE level of each of its pins, its Y lane at YIDLE (R300, R314). -/
def Field.idlePads (F : Field) (d : Fin 16) : Field :=
  F.pinTab.foldl (fun F b =>
    if pinOwner b = d.val ∧ pinRole b < 10 then
      let o : Option Bool :=
        if pinRole b = 9 then some (F.drills[d].dmode.getLsbD 22)
        else match pinIdle b with
          | 0 => some false
          | 1 => some true
          | _ => none
      let r := padSet F.padOut F.padOe (byteAt b 0).toNat o
      { F with padOut := r.1, padOe := r.2 }
    else F) F

/-- Pads of a drill whose program drives: TX lanes, K and Y (R305, R307). -/
def Field.drivePads (F : Field) (d : Fin 16) (lane : BitVec 8) : Field :=
  F.pinTab.foldl (fun F b =>
    if pinOwner b = d.val then
      let r := pinRole b
      let o : Option (Option Bool) :=
        if r < 8 then
          if F.drills[d].txMask.getLsbD r then some (some (lane.getLsbD r)) else some none
        else if r = 8 then some (some F.drills[d].k)
        else if r = 9 then some (some F.drills[d].y)
        else none
      match o with
      | some v =>
        let q := padSet F.padOut F.padOe (byteAt b 0).toNat v
        { F with padOut := q.1, padOe := q.2 }
      | none => F
    else F) F

/-- Every pin at the level that strap bit b1 selects (R413). -/
def Field.defaultPads (F : Field) (hiZ : Bool) : Field :=
  { F with padOut := 0, padOe := if hiZ then 0 else BitVec.allOnes 32 }

/-- Committed pins take their IDLE levels, the others high impedance (R329). -/
def Field.committedPads (F : Field) : Field :=
  (allFin 16).foldl Field.idlePads { F with padOut := 0, padOe := 0 }

/-! Run registers -/

/-- Program window (R310). -/
def Drill.base (d : Drill) : Nat := fieldN d.dwin 0 10
def Drill.last (d : Drill) : Nat := fieldN d.dwin 10 5

/-- Loop counts as DCNT gives them; 0 stands for 65,536 (R310). -/
def loopInit (n : Nat) : Nat := if n = 0 then 65536 else n

/-- Lanes of a drill that some pin carries (R313). -/
def Field.lanesBound (F : Field) (d : Fin 16) : BitVec 8 :=
  (List.range 8).foldl (fun m r => if (F.rolePin d r).isSome then m ||| (1#8 <<< r) else m) 0

/-- D x (1 - 500 ppm) is at least 1 (R309). -/
def trackOk (ddiv : Word) : Bool := decide (1048576 * 2000 ≤ ddivSteps ddiv * 1999)

/-- Whether a value is refused for a run register of a drill whatever its state (R309, R310, R313). -/
def runValueBad (F : Field) (n : Fin 16) (r : RunReg) (v : Word) : Bool :=
  let d := F.drills[n]
  match r with
  | .dwin => decide (1023 < fieldN v 0 10 + fieldN v 10 5)
  | .dmode =>
    let tx : BitVec 8 := bits v 0 8
    let rx : BitVec 8 := bits v 8 8
    tx &&& rx != 0 || (tx ||| rx) &&& ~~~(F.lanesBound n) != 0 || (v.getLsbD 21 && !trackOk d.ddiv)
  | .ddiv => fieldN v 20 12 == 0 || (d.dmode.getLsbD 21 && !trackOk v)
  | .dcnt => false

/-- A run register written; reserved bits read 0. -/
def Drill.putRun (d : Drill) (rate : BitVec 32) (r : RunReg) (v : Word) : Drill :=
  match r with
  | .dwin => { d with dwin := (v.extractLsb' 0 15).setWidth 32, changed := true }
  | .dmode =>
    { d with
      dmode := insertBits v 23 0#1, changed := true
      dTrim := if v.getLsbD 21 then trimmed d.ddiv rate else d.dTrim }
  | .ddiv => { d with ddiv := v, dTrim := if d.dmode.getLsbD 21 then trimmed v rate else d.dTrim }
  | .dcnt => { d with dcnt := v }

/-- A refused write or command of a drill is recorded (R314). -/
def State.drillRefused (s : State) (f : Fin 4) (d : Fin 16) (v : Word) : State :=
  s.log 7 1 (some f) d.val v 0

/-- A write of DWIN, DMODE, DDIV or DCNT (R314): accepted in IDLE and STOPPED, refused in Sealed mode after the first commit. -/
def State.writeRun (s : State) (f : Fin 4) (n : Fin 16) (r : RunReg) (v : Word) : State :=
  let d := s.fields[f].drills[n]
  if s.sealedCommitted || (d.st != .idle && d.st != .stopped) || runValueBad s.fields[f] n r v then
    s.drillRefused f n v
  else s.updDrill f n fun d => d.putRun s.almanac.rate r v

/-! FIFOs as registers (R320) -/

/-- DRX_DATA read: the head popped, or RXUND set (R320). -/
def Drill.popRx (d : Drill) : Word × Drill :=
  match d.rxFifo with
  | w :: l => (w, { d with rxFifo := l })
  | [] => (0, { d with rxund := true })

/-- DTX_DATA write: pushed, or dropped with TXOVR (R320). -/
def Drill.pushTx (d : Drill) (v : Word) : Drill :=
  if d.txFifo.length < 32 then { d with txFifo := d.txFifo ++ [v] } else { d with txovr := true }

/-- Code of DSTAT.STATE (R311). -/
def DrillSt.code : DrillSt → BitVec 3
  | .idle => 0
  | .running => 1
  | .waiting => 2
  | .stalled => 3
  | .stopped => 4
  | .frozen => 5

/-- The furrow that names a drill of a Field (R74). -/
def State.drillFurrow (s : State) (f : Fin 4) (d : Fin 16) : Option Furrow :=
  s.furrows.find? fun F => F.home == some f && F.desc.drills.getLsbD d.val

/-- DSTAT (R311). -/
def State.dstat (s : State) (f : Fin 4) (n : Fin 16) : Word :=
  let d := s.fields[f].drills[n]
  bit 1 d.perr ++ bit 1 (s.drillThr (s.drillFurrow f n) f n) ++ bit 1 d.rxund ++ bit 1 d.rxovr ++
    bit 1 d.txovr ++ bit 1 d.txund ++ BitVec.ofNat 6 d.rxFifo.length ++ BitVec.ofNat 6 d.txFifo.length ++
    d.bits ++ d.pc ++ d.st.code

/-- Word of a drill register as a read without side effects shows it (R310). -/
def State.drillWord (s : State) (f : Fin 4) (n : Fin 16) (off : Nat) : Word :=
  let d := s.fields[f].drills[n]
  match off with
  | 0x00 => d.rxFifo.headD 0
  | 0x08 => s.dstat f n
  | 0x10 => d.dwin
  | 0x14 => d.dmode
  | 0x18 => d.ddiv
  | 0x1C => d.dcnt
  | _ => 0

/-! Commands of DCTL (R312, R314-R316) -/

/-- What CLEAN and PARK do first (R316). K takes its first-half level (log 16, DEDUCED). -/
def Drill.clear (d : Drill) : Drill :=
  { d with
    txFifo := [], rxFifo := [], txSh := Vector.replicate 8 0, rxSh := Vector.replicate 8 0, rxCount := 0
    bits := 0, pc := 0, c0 := loopInit (fieldN d.dcnt 0 16), c1 := loopInit (fieldN d.dcnt 16 16)
    y := d.dmode.getLsbD 22, k := d.dmode.getLsbD 17, perr := false, retry := none, waited := false
    seen := false, feed := [], wave := [], acc := 0, began := none }

/-- Sticky flags cleared by RESUME and CLEAN (R316). -/
def Drill.clearFlags (d : Drill) : Drill :=
  { d with txund := false, txovr := false, rxovr := false, rxund := false }

/-- STOP of a drill: the state it leaves is kept (R314, R315). -/
def Drill.stopNow (d : Drill) : Drill := { d with st := .stopped, stoppedFrom := d.st, changed := false }

/-- A drill command of DCTL; none where the state refuses it (R314). After RESUME a WAIT tests its condition again (R316). -/
def Drill.command (d : Drill) (cmd : Nat) : Option Drill :=
  match cmd, d.st with
  | 1, .running => some d.stopNow
  | 1, .waiting => some d.stopNow
  | 1, .stalled => some d.stopNow
  | 1, .stopped => some d
  | 2, .stopped =>
    if d.changed then none else some { d.clearFlags with st := d.stoppedFrom, acc := 0, seen := false }
  | 3, .idle => some { d.clear.clearFlags with st := .running, stoppedFrom := .idle, changed := false }
  | 3, .stopped => some { d.clear.clearFlags with st := .running, stoppedFrom := .idle, changed := false }
  | 4, .idle => some d
  | 4, .stopped => some { d.clear with st := .idle, stoppedFrom := .idle, changed := false }
  | _, _ => none

/-- A command applied to one drill; PARK gives its pins their IDLE levels; a refusal is recorded (R312, R314). -/
def State.drillCmd (s : State) (f : Fin 4) (n : Fin 16) (cmd : Nat) : State :=
  match s.fields[f].drills[n].command cmd with
  | none => s.drillRefused f n (nw cmd)
  | some d =>
    let s := s.updDrill f n fun _ => d
    if cmd = 4 ∧ s.fields[f].pinsLive then s.updField f fun F => F.idlePads n else s

/-- A DCTL write (R312): CMD on drill d and on each drill of GROUP that `allowed` names; a GROUP bit outside it is
recorded. CMD 0 and 5-7 do nothing. -/
def State.dctl (s : State) (f : Fin 4) (n : Fin 16) (cmd : Nat) (group allowed : BitVec 16) : State :=
  if cmd = 0 ∨ 4 < cmd then s
  else
    (allFin 16).foldl (fun t k =>
      if k = n then t.drillCmd f k cmd
      else if group.getLsbD k.val then
        if allowed.getLsbD k.val then t.drillCmd f k cmd
        else t.log 7 3 (some f) k.val (group.setWidth 32) 0
      else t) s

/-! Program words (R303-R307) -/

/-- The drill stops on a program error (R302, R304). -/
def State.drillError (s : State) (f : Fin 4) (n : Fin 16) : State :=
  (s.updDrill f n fun d => { d.stopNow with perr := true }).log 7 2 (some f) n.val
    (nw (s.fields[f].drills[n].base + s.fields[f].drills[n].pc.toNat)) 0

/-- Whether a program word is in error for a window with this last word (R304, R306). -/
def wordBad (w : Word) (last : Nat) : Bool :=
  let flow := fieldN w 29 3
  let arg : BitVec 8 := bits w 0 8
  let src := fieldN w 5 2
  6 ≤ flow || bits w 8 2 != 0#2 || 32 < fieldN w 18 6 || last < fieldN w 24 5 ||
    (flow != 4 && arg != 0) ||
    (flow == 4 && (src == 3 || (src == 1 && w.getLsbD 7) || (src == 2 && w.getLsbD 4)))

/-- The word after PC in the window (R304). -/
def Drill.following (d : Drill) : BitVec 5 :=
  if d.pc.toNat = d.last then 0 else d.pc + 1

/-- One TX shifter shifted: the bit driven and the shifter after it; zeros follow the 32 bits (R305). -/
def shiftOut (lsbf : Bool) (w : Word) : Bool × Word :=
  if lsbf then (w.getLsbD 0, w >>> 1) else (w.msb, w <<< 1)

/-- One RX bit placed as the TX order would drive it: bit number i since the last STASH (R305; log 16, DEDUCED). -/
def shiftIn (lsbf : Bool) (w : Word) (i : Nat) (b : Bool) : Word :=
  let p := if lsbf then i % 32 else 31 - i % 32
  insertBits w p (bit 1 b)

/-- Bit times of a word: a run of them, of which the shift acts when `count` is above 0; `tail` bit times of the word follow the run. The answer
is the drill, the lane levels at the end and the levels of each bit time. `pins` are the pads' input levels at each sample (R305, R307). -/
def Drill.shift (F : Field) (n : Fin 16) (w : Word) (pins : List Word) (count tail : Nat) :
    Nat → Nat → Drill → BitVec 8 → List Word → Drill × BitVec 8 × List Word
  | 0, _, d, lane, acc => (d, lane, acc)
  | k + 1, b, d, lane, acc =>
    let lsbf := d.dmode.getLsbD 18
    let ddr := d.dmode.getLsbD 16
    let d := if w.getLsbD 11 && k + tail == 0 then
        { d with y := match fieldN w 12 2 with
            | 1 => false
            | 2 => true
            | 3 => !d.y
            | _ => d.y }
      else d
    let (d, lane) := if w.getLsbD 17 && 0 < count then
        (List.range 8).foldl (fun (x : Drill × BitVec 8) i =>
          if x.1.txMask.getLsbD i then
            let r := shiftOut lsbf (x.1.txSh[i]?.getD 0)
            ({ x.1 with txSh := x.1.txSh.setIfInBounds i r.2 }, insertBits x.2 i (bit 1 r.1))
          else x) (d, lane)
      else (d, lane)
    let d := { d with k := if ddr then !d.k else !d.dmode.getLsbD 17 }
    let d := if w.getLsbD 16 && 0 < count then
        let p := pins.getD b 0
        let e := (List.range 8).foldl (fun (x : Drill) i =>
          if x.rxMask.getLsbD i then
            let v := match F.rolePin n i with
              | some q => p.getLsbD q
              | none => false
            { x with rxSh := x.rxSh.setIfInBounds i (shiftIn lsbf (x.rxSh[i]?.getD 0) x.rxCount v) }
          else x) d
        { e with rxCount := e.rxCount + 1 }
      else d
    let lv : Word := (bit 1 d.y ++ bit 1 d.k ++ lane : BitVec 10).setWidth 32
    Drill.shift F n w pins count tail k (b + 1) d lane (acc ++ [lv])

/-- FETCH: one word per TX lane, lane order ascending (R305, R318). -/
def Drill.fetch (d : Drill) : Drill :=
  (List.range 8).foldl (fun (x : Drill) i =>
    if x.txMask.getLsbD i then
      { x with txSh := x.txSh.setIfInBounds i (x.txFifo.headD 0), txFifo := x.txFifo.tail }
    else x) d

/-- STASH: one word per RX lane, lane order ascending (R305, R318). -/
def Drill.stash (d : Drill) : Drill :=
  let e := (List.range 8).foldl (fun (x : Drill) i =>
    if x.rxMask.getLsbD i then { x with rxFifo := x.rxFifo ++ [x.rxSh[i]?.getD 0] } else x) d
  { e with rxSh := Vector.replicate 8 0, rxCount := 0 }

/-- The accumulator after n steps (R308, R309). -/
def Drill.accAfter (d : Drill) (n : Nat) : BitVec 20 :=
  let frac := (if d.dmode.getLsbD 21 then d.dTrim else d.ddiv.toNat) % 1048576
  BitVec.ofNat 20 (d.acc.toNat + frac * n)

/-- Steps of n bit times (R307). -/
def Drill.stepsOf (d : Drill) (n : Nat) : Nat := if d.dmode.getLsbD 16 then n else 2 * n

/-- End of a word: the next word under R304; END stops the drill there. -/
def Drill.next (d : Drill) (w : Word) : Drill :=
  let tgt : BitVec 5 := w.extractLsb' 24 5
  let d := { d with bits := 0, waited := false, seen := false, retry := none }
  match fieldN w 29 3 with
  | 1 => { d with pc := tgt }
  | 2 =>
    if 1 < d.c0 then { d with c0 := d.c0 - 1, pc := tgt }
    else { d with c0 := loopInit (fieldN d.dcnt 0 16), pc := d.following }
  | 3 =>
    if 1 < d.c1 then { d with c1 := d.c1 - 1, pc := tgt }
    else { d with c1 := loopInit (fieldN d.dcnt 16 16), pc := d.following }
  | 5 => { d with pc := d.following }.stopNow
  | _ => { d with pc := d.following }

/-- A flag pulse: the drills of the Field that wait on it in this cycle see it (R306). -/
def State.pulse (s : State) (f : Fin 4) (n : Fin 16) : State :=
  s.mapFieldDrills f fun d =>
    let w := mapGet 0 (d.base + d.pc.toNat) s.fields[f].prog
    if d.st = .waiting ∧ fieldN w 5 2 = 2 ∧ fieldN w 0 4 = n.val then { d with seen := true } else d

/-- After the shift: STASH, flag, next word (R305, R319). -/
def State.drillEnd (s : State) (f : Fin 4) (n : Fin 16) (w : Word) (d : Drill) : State :=
  let put (d : Drill) : State :=
    let s := s.updDrill f n fun _ => d.next w
    if w.getLsbD 10 then s.pulse f n else s
  if w.getLsbD 14 then
    if d.rxFifo.length + lanes d.rxMask ≤ 32 then put d.stash
    else
      let s' := s.count 5 ((f.val * 16 + n.val) * 3 + 2) 1
      let d := { d with rxovr := true }
      if d.dmode.getLsbD 20 then
        s'.updDrill f n fun _ => { d with st := .stalled, retry := some true, bits := w.extractLsb' 18 6 }
      else
        let s'' := s'.updDrill f n fun _ =>
          { d with rxSh := Vector.replicate 8 0, rxCount := 0 }.next w
        if w.getLsbD 10 then s''.pulse f n else s''
  else put d

/-- Levels that a drill's lanes drive (R300). -/
def Field.lanesOut (F : Field) (n : Fin 16) : BitVec 8 :=
  (List.range 8).foldl (fun (l : BitVec 8) i =>
    match F.rolePin n i with
    | some p => insertBits l i (bit 1 (F.padOut.getLsbD p))
    | none => l) 0

/-- Bit times that pass with these input levels: one at least (log 16, DEDUCED). -/
def bitTimes (pins : List Word) : Nat := max pins.length 1

/-- Bit times of a word from BITS on: one for each of `pins`, then the word's end if none is left (R305, R307). A STOP that lands meanwhile finds the
drill at that boundary, and after RESUME the word goes on with the next bit (R315, R316). -/
def State.drillShift (s : State) (f : Fin 4) (n : Fin 16) (w : Word) (pins : List Word) (d : Drill) : State :=
  let count := fieldN w 18 6
  let left := max count 1 - d.bits.toNat
  let run := min (bitTimes pins) left
  let F := s.fields[f]
  let d := if w.getLsbD 11 ∨ d.bits ≠ 0 then d else
    { d with y := match fieldN w 12 2 with
        | 1 => false
        | 2 => true
        | 3 => !d.y
        | _ => d.y }
  let (d, lane, wave) := Drill.shift F n w pins count (left - run) run 0 d (F.lanesOut n) []
  let d := { d with wave := if d.bits = 0 then wave else d.wave ++ wave, acc := d.accAfter (d.stepsOf run) }
  let d := if run < left then { d with bits := d.bits + BitVec.ofNat 6 run } else d
  let s := s.updDrill f n fun _ => d
  let s := s.updField f fun F => F.drivePads n lane
  if run < left then s else s.drillEnd f n w d

/-- The record 0x0050 of the pass-through that runs, for a drill that carries it (R422, R423). -/
def State.passRecord (s : State) (f : Fin 4) (n : Fin 16) : Option (List Byte) :=
  if s.sup.passThrough && f == 0 then
    match ((s.seed.fallowSet.getD []).head?).map Item.body with
    | some b => if (le16 b 6).getLsbD n.val then some b else none
    | none => none
  else none

/-- In the pass-through a drill frame is one pass of the program from word 0; its word k carries channel k mod CHANNELS of the oldest
sample period, 0 and CTRL with none (R423; log 37, DEDUCED). `lastFrame` counts the frame's words so far. -/
def Drill.passFill (d : Drill) (b : List Byte) (fetch : Bool) : Drill :=
  let c := (byteAt b 2).toNat
  let t := if fetch then lanes d.txMask else 0
  let d := if d.pc = 0 then { d with feed := if d.lastFrame = 0 then d.feed else d.feed.drop c, lastFrame := 0 } else d
  let l := (List.range t).map fun i => d.feed.getD ((d.lastFrame + i) % c) ((byteAt b 3).setWidth 32)
  { d with txFifo := d.txFifo ++ l, lastFrame := d.lastFrame + t }

/-- FETCH of a word, then its shift; a short TX FIFO stalls or gives zeros (R319). -/
def State.drillFetch (s : State) (f : Fin 4) (n : Fin 16) (w : Word) (pins : List Word) (d : Drill) : State :=
  let d := match s.passRecord f n with
    | some b => d.passFill b (w.getLsbD 15)
    | none => d
  if w.getLsbD 15 then
    if lanes d.txMask ≤ d.txFifo.length then s.drillShift f n w pins d.fetch
    else
      let s' := s.count 5 ((f.val * 16 + n.val) * 3 + 1) 1
      let d := { d with txund := true }
      if d.dmode.getLsbD 20 then
        s'.updDrill f n fun _ => { d with st := .stalled, retry := some false, bits := 0 }
      else s'.drillShift f n w pins { d with txSh := Vector.replicate 8 0 }
  else s.drillShift f n w pins d

/-- Whether the drills of a Field run: DRL_CLK is usable and the Field is powered and out of reset (R28, R327). -/
def State.drlRuns (s : State) (f : Fin 4) : Bool :=
  !s.pins.clkFault.getLsbD 7 && s.fields[f].st != .off && s.fields[f].st != .resetting

/-- The program word of a drill, its array code, and the word's number (R299, R302). -/
def State.drillFetchWord (s : State) (f : Fin 4) (n : Fin 16) : Word × Option EccSt :=
  let d := s.fields[f].drills[n]
  let a := d.base + d.pc.toNat
  (mapGet 0 a s.fields[f].prog, mapFind a s.fields[f].progErr)

/-- K and the divider after n bit times of a wait, n above 0: K runs on (R307), in DDR mode with one inversion a bit time. -/
def Drill.waitTimes (d : Drill) (n : Nat) : Drill :=
  { d with
    k := if d.dmode.getLsbD 16 then d.k != (n % 2 == 1) else !d.dmode.getLsbD 17
    acc := d.accAfter (d.stepsOf n) }

/-- DRILL_WORD (R305): the next word of a running drill, with a bit time for each of `pins`; a WAIT waits first, and bit times of the wait pass. A word
in progress goes on from BITS (R316). -/
def execDrillWord (f : Fin 4) (d : Fin 16) (pins : List Word) (s : State) : Out :=
  let D := s.fields[f].drills[d]
  .next (if D.st = .waiting ∧ s.drlRuns f then
      (s.updDrill f d fun D => D.waitTimes (bitTimes pins)).updField f fun F => F.drivePads d (F.lanesOut d)
    else if D.st ≠ .running ∨ !s.drlRuns f then s
    else
      let (w, e) := s.drillFetchWord f d
      if D.bits ≠ 0 then s.drillShift f d w pins D
      else if e = some .uncorr ∨ e = some .poison ∨ wordBad w D.last then s.drillError f d
      else if fieldN w 29 3 = 4 ∧ !D.waited then
        s.updDrill f d fun D => { D with st := .waiting, seen := false }
      else s.drillFetch f d w pins D)

/-- Whether the ARG condition of a WAIT word holds (R306). The level of a pad is an input: the command that completes the wait states it
(log 12, DESIGN CHOICE). -/
def Drill.waitHolds (D : Drill) (w : Word) : Bool :=
  let pol := w.getLsbD 7
  match fieldN w 5 2 with
  | 0 => true
  | 1 => D.ticks.getLsbD (fieldN w 0 5)
  | 2 => if pol then true else D.seen
  | _ => false

/-- DRILL_WAIT_COMPLETION (R306): the condition holds, a timer's compare event is consumed, and the word proceeds with
the next DRILL_WORD. -/
def execDrillWaitCompletion (f : Fin 4) (d : Fin 16) (s : State) : Out :=
  let D := s.fields[f].drills[d]
  let w := (s.drillFetchWord f d).1
  .next (if D.st = .waiting ∧ s.drlRuns f ∧ D.waitHolds w then
      s.updDrill f d fun D =>
        { D with
          st := .running, waited := true
          began := if D.began.isNone ∧ fieldN w 5 2 = 1 then some (fieldN w 0 5, s.now) else D.began
          ticks := if fieldN w 5 2 = 1 then D.ticks &&& ~~~(1#32 <<< fieldN w 0 5) else D.ticks }
    else s)

/-- DRILL_STALL_END (R319): the whole slot is there, and the pending FETCH or STASH is tried again. -/
def execDrillStallEnd (f : Fin 4) (d : Fin 16) (s : State) : Out :=
  let D := s.fields[f].drills[d]
  let w := (s.drillFetchWord f d).1
  .next (if D.st = .stalled ∧ s.drlRuns f then
      match D.retry with
      | some false =>
        if lanes D.txMask ≤ D.txFifo.length then
          s.updDrill f d fun D => { D with st := .running, retry := none, waited := true }
        else s
      | some true =>
        if D.rxFifo.length + lanes D.rxMask ≤ 32 then
          s.drillEnd f d w { D with st := .running, retry := none }
        else s
      | none => s.updDrill f d fun D => { D with st := .running }
    else s)

/-- DRILL_PROGRAM_REWRITE (R302): the supervisor rewrites a reported program word from its committed copy. -/
def execDrillProgramRewrite (f : Fin 4) (a : Fin 1024) (s : State) : Out :=
  .next (s.updField f fun F => { F with progErr := mapPut a.val none F.progErr })

/-! Register commands. A furrow acts on the drills of its DRILLS (R310); a debugger's write is recorded (R18). -/

/-- What the debug port may do on Fields and the supervisor (R448): bit n of the first for Field n, bit 4 the supervisor. -/
def State.debugScope (s : State) : BitVec 7 := s.dbg.session.getD 0

/-- DBG_ACCESS writable bits: Fields in [3:0], supervisor in [4] (R448, R451). -/
def State.debugWrite (s : State) : BitVec 5 :=
  if !s.sealed && !s.dbgAuth then 0x1F
  else if s.debugScope.getLsbD 6 then s.debugScope.extractLsb' 0 5 else 0

/-- DBG_ACCESS readable bits (R448, R451). -/
def State.debugRead (s : State) : BitVec 5 :=
  if !s.dbgAuth then 0x1F else s.debugScope.extractLsb' 0 5

/-- Trace control (R448). -/
def State.debugTrace (s : State) : Bool := !s.dbgAuth || s.debugScope.getLsbD 5

/-- A refused debug command is recorded (R448). -/
def State.debugRefused (s : State) (off : Nat) : State := s.log 11 4 none 0 (nw off) 0xFFF

/-- A debugger write to data-plane state is recorded (R18). -/
def State.debugWrote (s : State) (f : Option (Fin 4)) (obj : Nat) (a v : Word) : State := s.log 13 1 f obj a v

/-- Field and drills that a drill writer may reach: a furrow its DRILLS, the debugger every drill of a Field it may
write (R310, R314, R448). -/
def State.drillReach (s : State) (w : DrillWriter) : Option (Fin 4 × BitVec 16) :=
  match w with
  | .furrow g =>
    match s.engines[g].cur with
    | some fid => (s.furrow? fid).map fun F => (fieldOf g, F.desc.drills)
    | none => none
  | .debug f => if s.debugWrite.getLsbD f.val then some (f, 0xFFFF) else none

/-- A command of a drill writer, when it may reach the drill; a debugger's is recorded (R18, R312, R448). -/
def State.drillBy (s : State) (w : DrillWriter) (d : Fin 16) (a v : Word)
    (k : Fin 4 → BitVec 16 → State → State) : State :=
  match s.drillReach w with
  | some (f, m) =>
    if m.getLsbD d.val then
      match w with
      | .furrow _ => k f m s
      | .debug _ => (k f m s).debugWrote (some f) d.val a v
    else s
  | none =>
    match w with
    | .furrow _ => s
    | .debug _ => s.debugRefused 0

/-- STOP (R315). -/
def execStop (w : DrillWriter) (d : Fin 16) (group : BitVec 16) (s : State) : Out :=
  .next (s.drillBy w d 0x0C 1 fun f m s => s.dctl f d 1 group m)

/-- RESUME (R316). -/
def execResume (w : DrillWriter) (d : Fin 16) (group : BitVec 16) (s : State) : Out :=
  .next (s.drillBy w d 0x0C 2 fun f m s => s.dctl f d 2 group m)

/-- CLEAN (R316). -/
def execClean (w : DrillWriter) (d : Fin 16) (group : BitVec 16) (s : State) : Out :=
  .next (s.drillBy w d 0x0C 3 fun f m s => s.dctl f d 3 group m)

/-- PARK (R316). -/
def execPark (w : DrillWriter) (d : Fin 16) (group : BitVec 16) (s : State) : Out :=
  .next (s.drillBy w d 0x0C 4 fun f m s => s.dctl f d 4 group m)

/-- DRILL_RUN_REGISTER_WRITE (R314). -/
def execDrillRunRegisterWrite (w : DrillWriter) (d : Fin 16) (r : RunReg) (v : Word) (s : State) : Out :=
  .next (s.drillBy w d 0x10 v fun f _ s => s.writeRun f d r v)

/-- DRX_DATA_READ (R320): a furrow's read pops, with FEED 0 (R310); a debugger's read is a peek (R401). -/
def execDrxDataRead (w : DrillWriter) (d : Fin 16) (s : State) : Out :=
  .next (match w with
    | .furrow g =>
      match s.drillReach w with
      | some (f, m) =>
        if m.getLsbD d.val && !s.fields[f].drills[d].feedOn then s.updDrill f d fun D => D.popRx.2 else s
      | none => s
    | .debug f =>
      if s.debugRead.getLsbD f.val then
        s.updHost fun H => { H with resp := some (s.drillWord f d 0) }
      else s.updHost fun H => { H with resp := some 0 })

/-- DTX_DATA_WRITE (R320), with FEED 0 (R310). -/
def execDtxDataWrite (w : DrillWriter) (d : Fin 16) (v : Word) (s : State) : Out :=
  .next (s.drillBy w d 0x04 v fun f _ s =>
    if s.fields[f].drills[d].feedOn then s else s.updDrill f d fun D => D.pushTx v)

end Sys2Proof.Machine
end

