-- ==== Sys2Proof/Machine/Fabric.lean ====
section
/-! DEFINITION. Fabric transactions in flight (R285-R291, R297). -/

namespace Sys2Proof.Machine

/-- Fabric IDs of an engine: 16e to 16e + 15 (R297). -/
def engineIds (e : Fin 24) : List Nat := (List.range 16).map (· + 16 * e.val)
/-- Fabric IDs of the mover (R297). -/
def moverIds : List Nat := (List.range 624).map (· + 384)
/-- Fabric IDs of the supervisor on Field 0 (R297). -/
def supIds : List Nat := (List.range 16).map (· + 1008)

/-- Whether an ID is free: no transaction in flight holds it and no late response is awaited (R287, R289). -/
def Ports.idFree (P : Ports) (i : Nat) : Bool :=
  !(P.txns.any fun t => t.id == BitVec.ofNat 10 i) && !(P.quarantine.any fun q => q == BitVec.ofNat 10 i)

/-- Whether a new transaction must wait for an earlier one of the Field that overlaps the same 64-byte block, either of the
two a write (R287). -/
def Ports.blocked (P : Ports) (write : Bool) (addr : DWord) (len : Nat) : Bool :=
  P.txns.any fun t =>
    (write || t.write) &&
      decide (addr.toNat / 64 ≤ (t.addr.toNat + t.len - 1) / 64 ∧ t.addr.toNat / 64 ≤ (addr.toNat + len - 1) / 64)

/-- Whether FAB_CLK is usable (R28). -/
def State.fabRuns (s : State) : Bool := !s.pins.clkFault.getLsbD 5

/-! Requests (R32, R33, R285, R286) -/

/-- Bytes of one transaction from an address: up to `beats` beats from a 32-byte boundary, within 4 KiB (R286). -/
def beatChunk (beats addr left : Nat) : Nat := min left (min (32 * beats - addr % 32) (4096 - addr % 4096))

/-- Bytes of one transaction of the mover or the supervisor: up to 8 beats (R286). -/
def fabChunk (addr left : Nat) : Nat := beatChunk 8 addr left

/-- ADDR of a request: transactions start on a 32-byte boundary (R286). -/
def Txn.start (t : Txn) : DWord := t.addr &&& ~~~31#64
/-- Beats of a transaction; LEN is one less (R285, R286). -/
def Txn.beats (t : Txn) : Nat := (t.addr.toNat % 32 + t.len + 31) / 32
/-- STRB of beat i of a write: the bytes it marks (R285, R286). -/
def Txn.strb (t : Txn) (i : Nat) : BitVec 32 :=
  let o := t.addr.toNat % 32
  (List.range 32).foldl (fun (m : BitVec 32) b => if o ≤ 32 * i + b ∧ 32 * i + b < o + t.len then m ||| 1#32 <<< b else m) 0

/-- Whether a request is the supervisor's (R15, R286). -/
def TxnOwner.isSup : TxnOwner → Bool
  | .supervisor => true
  | .message _ => true
  | .dump => true
  | .engineLoad _ => false
  | .engineStore _ _ _ _ => false
  | .mover _ _ _ => false

/-- Whether a request is the mover's for a COPY. -/
def Ports.copies (P : Ports) : TxnOwner → Bool
  | .mover fid idx _ => P.jobs.any fun j => j.fid == fid && j.idx == idx && j.op == 0
  | _ => false

/-- ATTR: [0] IO-coherent, [1] supervisor traffic, [2] no-allocate on copies of the mover (R286). -/
def Ports.attr (P : Ports) (owner : TxnOwner) : BitVec 4 := 0#1 ++ bit 1 (P.copies owner) ++ bit 1 owner.isSup ++ 1#1

/-- A request of Field f's port: the Field's stream identifier, or the supervisor's; SSV 0 (R15, R286). -/
def State.request (s : State) (f : Fin 4) (id : BitVec 10) (write : Bool) (addr : DWord) (len : Nat) (l : List Byte)
    (owner : TxnOwner) : Txn :=
  { id := id, write := write, addr := addr, len := len, bytes := l
    sid := if owner.isSup then Config.supSid else Config.fsid f.val
    ssv := false, ssid := 0, attr := s.fields[f].ports.attr owner, owner := owner, issued := s.now }

/-- The request of an access to a ring or a buffer of a mailbox: SSV 1 and SSID the mailbox number, through Field 0 (R32, R33, R286). -/
def State.mbRequest (s : State) (mb : Fin 16) (write : Bool) (addr : DWord) (l : List Byte) (len : Nat) : Txn :=
  let id := ((supIds.find? s.fields[(0 : Fin 4)].ports.idFree).map (BitVec.ofNat 10)).getD 0
  { s.request 0 id write addr len l .supervisor with ssv := true, ssid := BitVec.ofNat 5 mb.val }

/-- The requests of such an access, in transactions of up to 8 beats within 4 KiB (R286). n bounds them. -/
def State.mbRequests (s : State) (mb : Fin 16) (write : Bool) (addr : Nat) (l : List Byte) (len : Nat) : Nat → List Txn
  | 0 => []
  | n + 1 =>
    if len = 0 then []
    else
      let c := fabChunk addr len
      s.mbRequest mb write (BitVec.ofNat 64 addr) (l.take c) c :: s.mbRequests mb write (addr + c) (l.drop c) (len - c) n

/-- Bytes of the reads, or of the writes, among some requests. -/
def movedBy (write : Bool) (l : List Txn) : BitVec 48 := BitVec.ofNat 48 (((l.filter fun t => t.write == write).map Txn.len).sum)

/-- An access of the supervisor for a mailbox; its bytes count at Field 0's port, unless that Field's windows are frozen (R15, R463, R473). -/
def State.asks (s : State) (mb : Fin 16) (l : List Txn) : State :=
  s.updMailbox mb fun M =>
    { M with
      reqs := if s.fields[(0 : Fin 4)].freezeWin then { M.reqs with last := l }
        else { last := l, rd := M.reqs.rd + movedBy false l, wr := M.reqs.wr + movedBy true l } }

/-- Bytes that a Field's six ports have moved: stream ingress, stream egress, fabric read, fabric write, bridge out and bridge in (R469,
R473; log 78, DESIGN CHOICE). -/
def State.portTotals (s : State) (f : Fin 4) : Vector (BitVec 48) 6 :=
  let P := s.fields[f].ports
  let sup (h : MbTraffic → BitVec 48) : BitVec 48 := if f = 0 then s.mailboxes.toList.foldl (fun n M => n + h M.reqs) 0 else 0
  #v[s.tallyGet 0 (f.val * 10 + 1), s.tallyGet 0 (f.val * 10 + 8), P.rdBytes + sup MbTraffic.rd, P.wrBytes + sup MbTraffic.wr
    , s.tallyGet 3 (f.val * 5 + 3), s.tallyGet 3 (f.val * 5 + 4)]

/-- A window of every port of a Field begins (R473). -/
def State.openWindows (s : State) (f : Fin 4) : State :=
  let b := s.portTotals f
  s.updPorts f fun P => { P with winBase := b, winAt := Vector.replicate 6 s.now }

/-- Response code of an answer to a read. -/
def replyCode : Reply → BitVec 3
  | .ok _ => 0
  | .bad r => r

/-- Whether an access of the supervisor must wait: no ID is free, or an earlier transaction of Field 0 overlaps it (R287, R297). -/
def State.supBlocked (s : State) (write : Bool) (addr : DWord) (len : Nat) : Bool :=
  len != 0 && ((supIds.find? s.fields[(0 : Fin 4)].ports.idFree).isNone || s.fields[(0 : Fin 4)].ports.blocked write addr len)

/-- A transaction issued with the first free of some IDs; none while it must wait (R287, R297). Its bytes count at the port (R473). -/
def State.issueTxn (s : State) (f : Fin 4) (ids : List Nat) (write : Bool) (addr : DWord) (len : Nat)
    (l : List Byte) (owner : TxnOwner) : Option (BitVec 10 × State) :=
  let P := s.fields[f].ports
  if P.blocked write addr len then none
  else
    match ids.find? P.idFree with
    | none => none
    | some i =>
      let t := s.request f (BitVec.ofNat 10 i) write addr len l owner
      let n : BitVec 48 := if s.fields[f].freezeWin then 0 else BitVec.ofNat 48 len
      some (t.id, s.updPorts f fun P =>
        { P with
          txns := P.txns ++ [t], rdBytes := if write then P.rdBytes else P.rdBytes + n, wrBytes := if write then P.wrBytes + n else P.wrBytes })

/-- Buffered stores of a furrow without a response (R119, R207). -/
def State.storesOut (s : State) (fid : Nat) : Bool :=
  (allFin 4).any fun f => s.fields[f].ports.txns.any fun t =>
    match t.owner with
    | .engineStore i _ _ _ => i == fid
    | _ => false

end Sys2Proof.Machine
end

