-- ==== Sys2Proof/Machine/Mailbox.lean ====
section
/-! DEFINITION. Mailbox pairs: registers, rights, the command table, fetch and checks, completion (R32-R73). -/

namespace Sys2Proof.Machine

/-! Registers and levels (R34-R42) -/

/-- Descriptors waiting: (CMD_TAIL - CMD_HEAD) mod 65,536. -/
def Mailbox.waiting (M : Mailbox) : Nat := (M.cmdTail - M.cmdHead).toNat
/-- Records pending: (CPL_TAIL - CPL_HEAD) mod 65,536. -/
def Mailbox.unread (M : Mailbox) : Nat := (M.cplTail - M.cplHead).toNat
/-- RING_ERR (R38). -/
def Mailbox.ringErr (M : Mailbox) : Bool := decide (2 ^ M.cmdLog2.toNat < M.waiting)
/-- Whether the ring has room for one more record beyond those pending, unwritten and owed (R70). -/
def Mailbox.room (M : Mailbox) : Bool := decide (M.unread + M.records.length + M.active.length < 2 ^ M.cplLog2.toNat)
/-- The interrupt condition (R42). -/
def Mailbox.irq (M : Mailbox) : Bool :=
  M.irqEn && decide (0 < M.unread) &&
    (decide (max 1 M.irqCount.toNat ≤ M.unread) || M.holdoffUp || M.irqHoldoff == 0)

/-- Sizes that MB_CTRL may enable with (R35, R36). -/
def sizesOk (cmd cpl : BitVec 4) : Bool :=
  decide (4 ≤ cmd.toNat ∧ cmd.toNat ≤ 10 ∧ 4 ≤ cpl.toNat ∧ cpl.toNat ≤ 11 ∧ cmd.toNat ≤ cpl.toNat)

/-- Opcodes of long commands: those whose limit exceeds 100 µs (R53-R63, R69). -/
def isLong (op : BitVec 16) : Bool :=
  op.toNat ∈ [0x0103, 0x0104, 0x0202, 0x0205, 0x0206, 0x0301, 0x0302, 0x0303, 0x0304, 0x0306, 0x0307, 0x0401, 0x0501, 0x0602,
    0x0603, 0x0604, 0x0605, 0x0704, 0x0802, 0x0804, 0x0805, 0x0806, 0x0807, 0x0808, 0x0902]

/-- Whether a command of a mailbox is in execution: it began at a fetch or has acted (R69). -/
def ActiveCmd.going (c : ActiveCmd) : Bool := c.begun || c.started

/-- Long commands in execution. -/
def Mailbox.long (M : Mailbox) : Nat := (M.active.filter fun c => c.going && isLong c.opcode).length

/-- Whether a command may start: FENCE waits for every earlier one, a ninth long one for one to end (R69). -/
def Mailbox.mayStart (M : Mailbox) (c : ActiveCmd) : Bool :=
  (!c.fence || (M.active.head?.map ActiveCmd.k) == some c.k) && (!isLong c.opcode || decide (M.long < 8))

/-- Whether the supervisor serves mailboxes: it runs, FAB runs, and Field 0 carries its accesses (R28, R291). -/
def State.supServes (s : State) : Bool :=
  s.supAlive && s.fabRuns && s.fields[(0 : Fin 4)].st != .resetting && s.fields[(0 : Fin 4)].st != .off

/-- Rights of a mailbox; in Fallow mode those of reset (R43, R67). -/
def State.rightsOf (s : State) (m : Fin 16) : BitVec 20 :=
  if s.inFallow then (if m.val = 0 then 0xF03FF#20 else 0x3#20) else s.mailboxes[m].rights

/-- Whether a mailbox has a descriptor that may be fetched, room for its record apart (R36, R38, R69): every command before it is long and
has started or may. -/
def Mailbox.fetchable (M : Mailbox) : Bool :=
  M.enReq && M.enabled && !M.ringErr && decide (0 < M.waiting) &&
    M.active.all fun c => isLong c.opcode && (c.going || M.mayStart c)

/-- CPL_FULL (R38). -/
def Mailbox.full (M : Mailbox) : Bool := M.fetchable && !M.room

/-- MB_STATUS (R38). -/
def State.mbStatus (s : State) (m : Fin 16) : Word :=
  let M := s.mailboxes[m]
  ((BitVec.ofNat 4 M.long ++ 0#1 ++ bit 1 M.irq ++ bit 1 s.inFallow ++ bit 1 (M.cplTail != M.cplHead) ++ bit 1 M.full ++
    bit 1 M.ringFault ++ bit 1 M.ringErr ++ bit 1 M.enabled : BitVec 12)).setWidth 32

/-- MB_CTRL and MB_IRQ as read (R35, R41). -/
def Mailbox.ctrl (M : Mailbox) : Word := (M.cplLog2 ++ M.cmdLog2 ++ 0#3 ++ bit 1 M.enReq : BitVec 12).setWidth 32
def Mailbox.irqReg (M : Mailbox) : Word := M.irqHoldoff ++ M.irqCount ++ 0#7 ++ bit 1 M.irqEn

/-- A register of a mailbox page as read (R34). -/
def State.mbRead (s : State) (m : Fin 16) (off : Nat) : Word :=
  let M := s.mailboxes[m]
  match off with
  | 0x000 => (bit 1 (m.val == 0) ++ BitVec.ofNat 4 m.val : BitVec 5).setWidth 32
  | 0x004 => (s.rightsOf m).setWidth 32
  | 0x008 => M.ctrl
  | 0x00C => s.mbStatus m
  | 0x010 => bits M.cmdBase 0 32
  | 0x014 => bits M.cmdBase 32 32
  | 0x018 => M.cmdTail.setWidth 32
  | 0x01C => M.cmdHead.setWidth 32
  | 0x020 => bits M.cplBase 0 32
  | 0x024 => bits M.cplBase 32 32
  | 0x028 => M.cplHead.setWidth 32
  | 0x02C => M.cplTail.setWidth 32
  | 0x030 => M.irqReg
  | _ => 0

/-- Window offset of a mailbox register (R32). -/
def mbOffset (m : Fin 16) (off : Nat) : Word := nw (0x10000 + m.val * 0x1000 + off)

/-! Completion (R49, R50, R69, R73) -/

/-- ENABLED falls once EN is 0 and every command has its record written (R36). -/
def Mailbox.settle (M : Mailbox) : Mailbox :=
  if !M.enReq && M.active.isEmpty && M.records.isEmpty then { M with enabled := false } else M

/-- A completed command: its record waits to be written, and the recent-tag table keeps it (R73). -/
def Mailbox.complete (M : Mailbox) (r : CplRecord) : Mailbox :=
  { M with records := M.records ++ [r], recent := (r :: M.recent).take 64 }

/-- The record of a descriptor with a status and its results (R49). -/
def cplOf (tag : Word) (status : Nat) (k op : BitVec 16) (r : List Word) (reset : Option Bool) : CplRecord :=
  { tag := tag, status := BitVec.ofNat 16 status, index := k, opcode := op, r0 := r.getD 0 0, r1 := r.getD 1 0
    r2 := r.getD 2 0, r3 := r.getD 3 0, reset := reset }

/-- A command in execution completes with a status and its results. -/
def State.finish (s : State) (mb : Fin 16) (k : BitVec 16) (status : Nat) (r : List Word) (reset : Option Bool := none) : State :=
  s.updMailbox mb fun M =>
    match takeFirst (fun c => c.k == k) M.active with
    | some (c, l) => Mailbox.complete { M with active := l } (cplOf c.tag status c.k c.opcode r reset)
    | none => M

/-- Error codes (R68). -/
def eOk : Nat := 0x0000
def eCrc : Nat := 0x0001
def eVersion : Nat := 0x0002
def eReserved : Nat := 0x0003
def eOpcode : Nat := 0x0004
def eFallow : Nat := 0x0005
def eRights : Nat := 0x0006
def eMode : Nat := 0x0007
def eSealed : Nat := 0x0008
def eArg : Nat := 0x0009
def eBuf : Nat := 0x000A
def eBufCrc : Nat := 0x000B
def eState : Nat := 0x000C
def eSession : Nat := 0x000D
def eNotOwner : Nat := 0x000E
def eNoResource : Nat := 0x000F
def eServiceBusy : Nat := 0x0010
def eObjectBusy : Nat := 0x0011
def eSealRef : Nat := 0x0012
def eSignature : Nat := 0x0013
def eAborted : Nat := 0x0014
def eExpired : Nat := 0x0015
def eInProgress : Nat := 0x0016
def eHw : Nat := 0x0017

/-- A record's 28 bytes and CRC; PHASE is 1 on the first pass through the ring (R49, R50). -/
def recordImage (M : Mailbox) (r : CplRecord) : List Byte :=
  let phase := M.cplTail.toNat / 2 ^ M.cplLog2.toNat % 2 == 0
  let l := bytes32 r.tag ++ bytes16 r.status ++ [bit 8 phase, 0] ++ bytes16 r.index ++ bytes16 r.opcode ++ bytes32 r.r0 ++
    bytes32 r.r1 ++ bytes32 r.r2 ++ bytes32 r.r3
  l ++ bytes32 (crc32cOf l)

/-! The command table (R53-R63) -/

/-- When a command is available (R53). -/
inductive Avail where
  | always | notSealed | sealedPre | sealedOnly | rolling | image | harrow | reset
  deriving DecidableEq, Repr

/-- A row of the command tables: the right's bit, availability, whether Fallow mode knows it, the bits of each argument it uses, and
the shortest buffer it takes. -/
structure CmdSpec where
  right : Nat
  avail : Avail
  fallow : Bool
  args : List Word
  buf : Nat

/-- All bits of an argument. -/
def anyWord : Word := 0xFFFFFFFF#32

/-- The command tables (R53, R54, R57-R59, R61, R63); rights by their bit of R43. -/
def cmdSpec (op : BitVec 16) : Option CmdSpec :=
  match op.toNat with
  | 0x0101 => some ⟨0, .always, true, [], 0⟩
  | 0x0102 => some ⟨0, .always, true, [], 64⟩
  | 0x0103 => some ⟨0, .always, true, [], 4096⟩
  | 0x0104 => some ⟨0, .always, true, List.replicate 8 anyWord, 1024⟩
  | 0x0201 => some ⟨3, .notSealed, false, [0xF#32], 0⟩
  | 0x0202 => some ⟨3, .notSealed, false, [], 0⟩
  | 0x0203 => some ⟨3, .always, false, [anyWord, anyWord], 0⟩
  | 0x0204 => some ⟨3, .notSealed, false, [], 0⟩
  | 0x0205 => some ⟨3, .always, false, [0xF#32], 0⟩
  | 0x0206 => some ⟨3, .notSealed, false, [0xF#32], 0⟩
  | 0x0301 => some ⟨2, .notSealed, false, [], 0⟩
  | 0x0302 => some ⟨2, .notSealed, false, [anyWord], 0⟩
  | 0x0303 => some ⟨2, .notSealed, false, [anyWord], 0⟩
  | 0x0304 => some ⟨2, .notSealed, false, [anyWord], 0⟩
  | 0x0305 => some ⟨1, .always, false, [anyWord], 0⟩
  | 0x0306 => some ⟨2, .always, false, List.replicate 9 anyWord, 0⟩
  | 0x0307 => some ⟨2, .rolling, false, [anyWord, anyWord, anyWord], 0⟩
  | 0x0401 => some ⟨4, .sealedPre, false, [anyWord], 0⟩
  | 0x0402 => some ⟨1, .sealedOnly, false, [anyWord], 0⟩
  | 0x0403 => some ⟨1, .sealedOnly, false, [], 0⟩
  | 0x0404 => some ⟨4, .rolling, false, [anyWord, 1#32], 0⟩
  | 0x0501 => some ⟨5, .image, true, [anyWord, 0xF#32], 0⟩
  | 0x0502 => some ⟨1, .always, false, [anyWord], 0⟩
  | 0x0601 => some ⟨1, .always, true, [anyWord], 0⟩
  | 0x0602 => some ⟨6, .harrow, false, [anyWord, anyWord, anyWord], 0⟩
  | 0x0603 => some ⟨6, .rolling, false, [anyWord], 0⟩
  | 0x0604 => some ⟨6, .always, false, [anyWord, anyWord, anyWord], 0⟩
  | 0x0605 => some ⟨0, .always, false, [0xFF#32, anyWord], 0⟩
  | 0x0701 => some ⟨1, .always, false, [], 256⟩
  | 0x0702 => some ⟨1, .always, false, [anyWord], 0⟩
  | 0x0703 => some ⟨1, .always, false, [], 0⟩
  | 0x0704 => some ⟨1, .always, false, [anyWord, anyWord], 0⟩
  | 0x0801 => some ⟨9, .always, false, [anyWord, 0x1FE#32, 0xF#32], 0⟩
  | 0x0802 => some ⟨9, .always, false, [anyWord], 0⟩
  | 0x0803 => some ⟨7, .notSealed, false, [anyWord, anyWord], 0⟩
  | 0x0804 => some ⟨7, .rolling, false, [anyWord], 0⟩
  | 0x0805 => some ⟨7, .rolling, false, [anyWord, anyWord], 0⟩
  | 0x0806 => some ⟨7, .rolling, false, [anyWord], 0⟩
  | 0x0807 => some ⟨7, .rolling, false, [anyWord, anyWord, anyWord], 0⟩
  | 0x0808 => some ⟨7, .reset, true, [anyWord, anyWord], 0⟩
  | 0x0901 => some ⟨8, .always, false, [], 32⟩
  | 0x0902 => some ⟨8, .always, false, [0x7F#32], 0⟩
  | 0x0903 => some ⟨8, .always, false, [], 0⟩
  | _ => none

/-- A Field's bit in FIELDS; none for a number that names no Field. -/
def fieldBit (n : Nat) : BitVec 4 := if n < 4 then 1#4 <<< n else 0

/-- Whether a zone record lies in a range of zones and has its WALK flag set (R338, R349). -/
def walkRecord (first count : Nat) (x : Item) : Bool :=
  x.ty == 0x0030 && (byteAt x.body 3).getLsbD 0 && decide (first ≤ (le16 x.body 0).toNat ∧ (le16 x.body 0).toNat < first + count)

/-- Fields whose zones a FIELD_WALK of a range walks. -/
def State.walkFields (s : State) (first count : Nat) : BitVec 4 :=
  s.sup.conf.foldl (fun (m : BitVec 4) (e : Nat × Item) => if walkRecord first count e.2 then m ||| fieldBit e.1 else m) 0

/-- Fields that a command names or affects, as far as its descriptor tells (R43, R44, R55). -/
def State.fieldsNamed (s : State) (mb : Fin 16) (op : BitVec 16) (a : Vector Word 10) : BitVec 4 :=
  let n (i : Fin 10) : Nat := a[i].toNat
  match op.toNat with
  | 0x0201 => bits a[0] 0 4
  | 0x0204 => ((s.sup.sessions.find? fun x => x.mb == mb).map Session.mask).getD 0
  | 0x0205 => bits a[0] 0 4
  | 0x0206 => bits a[0] 0 4
  | 0x0302 => ((s.furrow? (n 0)).map fun F => F.desc.fieldMask).getD 0
  | 0x0303 => ((s.furrow? (n 0)).map fun F => F.desc.fieldMask).getD 0
  | 0x0304 => ((s.furrow? (n 0)).map fun F => F.desc.fieldMask).getD 0
  | 0x0306 => ((s.furrow? (n 0)).map fun F => F.desc.fieldMask).getD 0
  | 0x0307 => ((s.furrow? (n 0)).map fun F => F.desc.fieldMask).getD 0 ||| fieldBit (n 1)
  | 0x0401 => 0xF
  | 0x0404 => 0xF
  | 0x0501 => if n 0 = 1 then 0xF else bits a[1] 0 4
  | 0x0602 => fieldBit (n 0)
  | 0x0603 => if n 0 < 96 then fieldBit (n 0 / 24) else 0
  | 0x0604 => s.walkFields (n 0) (n 1)
  | 0x0801 => bits a[2] 0 4
  | 0x0803 => if n 0 = 4 then 0xF else fieldBit (n 0)
  | 0x0804 => fieldBit (n 0)
  | 0x0805 => fieldBit (n 0)
  | 0x0806 => if n 0 < 96 then fieldBit (n 0 / 24) else 0
  | 0x0807 => fieldBit (n 0)
  | 0x0808 => if n 0 < 2 then 0xF else fieldBit (n 1)
  | 0x0902 => if a[0].getLsbD 4 then 0xF else bits a[0] 0 4
  | _ => 0

/-- Test codes of HARROW_RUN that run destructively (R261). -/
def destructive (code : Nat) : Bool := code == 0x10 || code == 0x11

/-- Availability of a command in the service mode: its error code, 0 for none (R53). -/
def State.availError (s : State) (v : Avail) (a : Vector Word 10) : Nat :=
  match v with
  | .always => eOk
  | .notSealed => if s.sealedCommitted then eSealed else eOk
  | .sealedPre => if !s.sealed then eMode else if s.sealedCommitted then eSealed else eOk
  | .sealedOnly => if s.sealed then eOk else eMode
  | .rolling => if s.sealed then eMode else eOk
  | .image => if a[0] = 0 ∧ s.sealedCommitted then eSealed else eOk
  | .harrow => if destructive a[2].toNat && s.sealed then eMode else eOk
  | .reset => if a[0] = 2 ∧ s.sealed then eMode else eOk

/-- Whether a command of the Fallow subset is in it with these arguments (R67). -/
def inFallowSet (op : BitVec 16) (a : Vector Word 10) : Bool :=
  match op.toNat with
  | 0x0501 => a[0] == 1
  | 0x0808 => a[0] == 0 || a[0] == 1
  | _ => true

/-! Fetch and checks (R46, R48, R73) -/

/-- The arguments of a descriptor's 64 bytes. -/
def descArgs (l : List Byte) : Vector Word 10 := Vector.ofFn fun i : Fin 10 => le32 l (20 + 4 * i.val)

/-- The first failing check of a descriptor after its CRC and its RETRY look-up, with RESULT0; 0 for none (R46, R48). -/
def State.checkDesc (s : State) (mb : Fin 16) (l : List Byte) : Nat × Word :=
  let op := le16 l 0
  let a := descArgs l
  if byteAt l 3 ≠ 0x01 then (eVersion, 0)
  else
    match cmdSpec op with
    | none => (eOpcode, 0)
    | some p =>
      if byteAt l 2 &&& 0xFC ≠ 0 ∨ (allFin 10).any (fun i => a[i] &&& ~~~(p.args.getD i.val 0) != 0) then (eReserved, 0)
      else if s.inFallow && !(p.fallow && inFallowSet op a) then (eFallow, 0)
      else
        let r := s.rightsOf mb
        if !r.getLsbD p.right || s.fieldsNamed mb op a &&& ~~~(bits r 16 4) != 0 then (eRights, 0)
        else
          let e := s.availError p.avail a
          if e ≠ eOk then (e, 0)
          else
            let addr := le64 l 8
            let len := (le32 l 16).toNat
            if 16777216 < len ∨ addr.toNat % 64 ≠ 0 ∨ (len = 0 ∧ addr ≠ 0) then (eArg, 0)
            else if len < p.buf then (eArg, nw p.buf)
            else (eOk, 0)

/-- A command that may start begins, as the block's next start (R69, R71). -/
def State.beginCmd (s : State) (mb : Fin 16) (k : BitVec 16) : State :=
  let M := s.mailboxes[mb]
  match M.active.find? fun c => c.k == k with
  | some c =>
    if !c.going && M.mayStart c then
      let n := s.sup.starts
      (s.updMailbox mb fun M => { M with active := updWhere (fun c => c.k == k) (fun c => { c with begun := true, ord := n }) M.active }).updSup
        fun u => { u with starts := n + 1 }
    else s
  | none => s

/-- Commands of a mailbox that have waited and may start begin, in descriptor order (R69). -/
def State.beginWaiting (s : State) (mb : Fin 16) : State :=
  s.mailboxes[mb].active.foldl (fun (s : State) (c : ActiveCmd) => s.beginCmd mb c.k) s

/-- Address of the slot of descriptor k in a command ring, and of record k in a completion ring (R34, R39, R46). -/
def Mailbox.cmdSlot (M : Mailbox) (k : BitVec 16) : DWord :=
  M.cmdBase + BitVec.ofNat 64 (64 * (k.toNat % 2 ^ M.cmdLog2.toNat))
def Mailbox.cplSlot (M : Mailbox) (k : BitVec 16) : DWord :=
  M.cplBase + BitVec.ofNat 64 (32 * (k.toNat % 2 ^ M.cplLog2.toNat))

/-- A descriptor that has been read takes its place among the commands, or completes at once (R48, R73). The record of E_IN_PROGRESS enters
the table of recent tags; the copy of a stored record does not (log 61, DESIGN CHOICE). -/
def State.takeDesc (s : State) (mb : Fin 16) (l : List Byte) : State :=
  let s := s.beginWaiting mb
  let M := s.mailboxes[mb]
  let k := M.cmdHead
  let tag := le32 l 4
  let op := le16 l 0
  let s := s.updMailbox mb fun M => { M with cmdHead := M.cmdHead + 1, ringFault := false, retryFetch := false }
  let now (status : Nat) (r : List Word) : State := s.updMailbox mb fun M => M.complete (cplOf tag status k op r none)
  let old := M.recent.find? fun r => r.tag == tag
  let retry := (byteAt l 2).getLsbD 1
  if crc32cOf (l.take 60) ≠ le32 l 60 then
    s.updMailbox mb fun M => { M with records := M.records ++ [cplOf tag eCrc k op [] none] }
  else
    match if retry then old else none with
    | some r => s.updMailbox mb fun M => { M with records := M.records ++ [{ r with index := k, reset := none }] }
    | none =>
      if retry && M.active.any (fun c => c.tag == tag) then now eInProgress []
      else
        let (e, r0) := s.checkDesc mb l
        if e ≠ eOk then now e [r0]
        else
          let c : ActiveCmd :=
            { k := k, opcode := op, fence := (byteAt l 2).getLsbD 0, tag := tag, bufAddr := le64 l 8
              bufLen := (le32 l 16).toNat, args := descArgs l, begun := false, ord := 0, started := false, effect := false, since := s.now, hit := none
              num := 0, bad := 0 }
          (s.updMailbox mb fun M => { M with active := M.active ++ [c] }).beginCmd mb k

/-- Whether the read of the mailbox's next descriptor must wait for the port (R287). -/
def State.fetchWaits (s : State) (mb : Fin 16) : Bool :=
  s.supBlocked false (s.mailboxes[mb].cmdSlot s.mailboxes[mb].cmdHead) 64

/-- A fetch of the mailbox's next descriptor from its slot, with the fabric's answer; a fault is repeated later (R32, R39, R40). -/
def State.fetchDesc (s : State) (mb : Fin 16) (r : Reply) : State :=
  let q := s.mbRequest mb false (s.mailboxes[mb].cmdSlot s.mailboxes[mb].cmdHead) [] 64
  let s := s.asks mb [q]
  match r with
  | .ok l => s.takeDesc mb (bytesAt l 0 64)
  | .bad _ => s.updMailbox mb fun M => { M with ringFault := true, retryFetch := true }

/-- The mailbox that the supervisor serves next, round-robin (R71). -/
def State.nextMailbox (s : State) : Option (Fin 16) :=
  ((List.range 16).map fun i => (⟨(s.sup.rrMailbox + 1 + i) % 16, by omega⟩ : Fin 16)).find? fun m =>
    s.mailboxes[m].fetchable && s.mailboxes[m].room && !s.mailboxes[m].retryFetch && !s.mailboxes[m].retryWrite

/-- DESCRIPTOR_FETCH (R48, R71). -/
def execDescriptorFetch (r : Reply) (s : State) : Out :=
  .next (
    if !s.supServes then s
    else
      match s.nextMailbox with
      | none => s
      | some m => if s.fetchWaits m then s else (s.updSup fun u => { u with rrMailbox := m.val }).fetchDesc m r)

/-! Registers written (R36, R42) -/

/-- A further interrupt message is due after a write of an acknowledging register where the condition still holds (R399). -/
def State.acked (s : State) (src : Fin 22) (cond : Bool) : State :=
  s.updHost fun H =>
    if cond then { H with msgDue := H.msgDue.set src true }
    else { H with msgDue := H.msgDue.set src false, msgHeld := H.msgHeld.set src false }

/-- Source of a mailbox among the interrupt sources. -/
def mbSource (m : Fin 16) : Fin 22 := ⟨m.val, by omega⟩

/-- EVENT_WAIT commands of a mailbox end with E_ABORTED (R36, R45). -/
def State.endWaits (s : State) (mb : Fin 16) : State :=
  (s.mailboxes[mb].active.filter fun c => c.opcode == opEventWait).foldl (fun s c => s.finish mb c.k eAborted []) s

/-- Whether the oldest pending record has waited HOLDOFF, by the time base (R42; log 61, DESIGN CHOICE). -/
def State.heldOff (s : State) (mb : Fin 16) : Bool :=
  match s.mailboxes[mb].pendAt with
  | [] => false
  | t :: _ => decide (s.mailboxes[mb].irqHoldoff.toNat * 1000 ≤ s.since t)

/-- A write of MB_CTRL (R35, R36). One that asks for the sizes that stand changes nothing and is not recorded while ENABLED is 1
(log 61, DESIGN CHOICE). -/
def State.writeMbCtrl (s : State) (rid : Rid) (mb : Fin 16) (v : Word) : State :=
  let M := s.mailboxes[mb]
  let off := mbOffset mb 8
  let cmd : BitVec 4 := bits v 4 4
  let cpl : BitVec 4 := bits v 8 4
  let differs := cmd != M.cmdLog2 || cpl != M.cplLog2
  let s := if M.enabled then (if differs then s.log 1 1 none mb.val off (rid.setWidth 32) else s)
    else s.updMailbox mb fun M => { M with cmdLog2 := cmd, cplLog2 := cpl }
  let N := s.mailboxes[mb]
  let en := v.getLsbD 0
  if en && !M.enReq then
    if sizesOk N.cmdLog2 N.cplLog2 then
      s.updMailbox mb fun M =>
        { M with enReq := true, enabled := true, cmdHead := 0, cmdTail := 0, cplHead := 0, cplTail := 0, recent := []
                 pendAt := [], holdoffUp := false }
    else s.log 1 2 none mb.val off (rid.setWidth 32)
  else if !en && M.enReq then
    let s := s.updMailbox mb fun M => { M with enReq := false }
    let s := s.endWaits mb
    s.updMailbox mb fun M =>
      Mailbox.settle
        { M with retryFetch := false, retryWrite := false, records := if M.retryWrite then M.records.drop 1 else M.records }
  else s

/-- A write of a mailbox page (R34, R36, R41). -/
def State.mbWrite (s : State) (rid : Rid) (mb : Fin 16) (off : Nat) (v : Word) : State :=
  let M := s.mailboxes[mb]
  let frozen := s.log 1 1 none mb.val (mbOffset mb off) (rid.setWidth 32)
  let lo (d : DWord) (v : Word) : DWord := bits d 32 32 ++ v
  let hi (d : DWord) (v : Word) : DWord := v ++ bits d 0 32
  match off with
  | 0x008 => s.writeMbCtrl rid mb v
  | 0x010 => if M.enabled then frozen else s.updMailbox mb fun M => { M with cmdBase := lo M.cmdBase (v &&& 0xFFFFF000#32) }
  | 0x014 => if M.enabled then frozen else s.updMailbox mb fun M => { M with cmdBase := hi M.cmdBase v }
  | 0x018 => (s.updMailbox mb fun M => { M with cmdTail := bits v 0 16 }).leaveDormant
  | 0x020 => if M.enabled then frozen else s.updMailbox mb fun M => { M with cplBase := lo M.cplBase (v &&& 0xFFFFF000#32) }
  | 0x024 => if M.enabled then frozen else s.updMailbox mb fun M => { M with cplBase := hi M.cplBase v }
  | 0x028 =>
    let s := s.updMailbox mb fun M =>
      { M with cplHead := bits v 0 16, pendAt := M.pendAt.drop (M.pendAt.length - (M.cplTail - bits v 0 16).toNat) }
    let s := s.updMailbox mb fun M => { M with holdoffUp := s.heldOff mb }
    s.acked (mbSource mb) s.mailboxes[mb].irq
  | 0x030 =>
    let s := s.updMailbox mb fun M => { M with irqEn := v.getLsbD 0, irqCount := bits v 8 8, irqHoldoff := bits v 16 16 }
    let s := s.updMailbox mb fun M => { M with holdoffUp := s.heldOff mb }
    if s.mailboxes[mb].irq then s else s.acked (mbSource mb) false
  | _ => s

/-- CMD_TAIL_DOORBELL (R34, R71). -/
def execCmdTailDoorbell (rid : Rid) (mb : Fin 16) (tail : BitVec 16) (s : State) : Out :=
  .next (s.mbWrite rid mb 0x018 (tail.setWidth 32))

/-- MAILBOX_ENABLE (R36). -/
def execMailboxEnable (rid : Rid) (mb : Fin 16) (v : Word) (s : State) : Out :=
  .next (s.writeMbCtrl rid mb (insertBits v 0 1#1))

/-- MAILBOX_DISABLE (R36). -/
def execMailboxDisable (rid : Rid) (mb : Fin 16) (v : Word) (s : State) : Out :=
  .next (s.writeMbCtrl rid mb (insertBits v 0 0#1))

/-- CPL_HEAD_WRITE (R42). -/
def execCplHeadWrite (rid : Rid) (mb : Fin 16) (head : BitVec 16) (s : State) : Out :=
  .next (s.mbWrite rid mb 0x028 (head.setWidth 32))

/-- MAILBOX_HOLDOFF_EXPIRY (R42): the oldest pending record has waited HOLDOFF. -/
def execMailboxHoldoffExpiry (mb : Fin 16) (s : State) : Out :=
  .next (if s.mailboxes[mb].unread = 0 ∨ s.heldOff mb = false then s else s.updMailbox mb fun M => { M with holdoffUp := true })

/-! A command in execution (R46, R51, R69-R71) -/

/-- Whether a command writes its buffer (some true), reads it (some false) or uses none (R53-R63). -/
def bufferUse (op : BitVec 16) : Option Bool :=
  if op.toNat ∈ [0x0102, 0x0103, 0x0104, 0x0203, 0x0402, 0x0601, 0x0701, 0x0702, 0x0704, 0x0901] then some true
  else if op.toNat ∈ [0x0202, 0x0301, 0x0401, 0x0501, 0x0902] then some false
  else none

/-- Whether the access to a command's buffer must wait for the port (R287). -/
def State.bufWaits (s : State) (c : ActiveCmd) : Bool :=
  match bufferUse c.opcode with
  | some w => s.supBlocked w c.bufAddr c.bufLen
  | none => false

/-- The command of a row, once the supervisor may start it or has, and its buffer can be reached (R69, R287). -/
def State.cmd? (s : State) (mb : Fin 16) (k : BitVec 16) (op : Nat) : Option ActiveCmd :=
  if !s.supServes then none
  else
    match s.mailboxes[mb].active.find? fun c => c.k == k && c.opcode == BitVec.ofNat 16 op with
    | some c => if (c.going || s.mailboxes[mb].mayStart c) && !s.bufWaits c then some c else none
    | none => none

/-- The supervisor reads the buffer of a command (R32, R33, R51). -/
def State.readBuf (s : State) (mb : Fin 16) (c : ActiveCmd) : State :=
  s.asks mb (s.mbRequests mb false c.bufAddr.toNat [] c.bufLen (c.bufLen / 32 + 2))

/-- A command in execution rewritten. -/
def State.updCmd (s : State) (mb : Fin 16) (k : BitVec 16) (h : ActiveCmd → ActiveCmd) : State :=
  s.updMailbox mb fun M => { M with active := updWhere (fun c => c.k == k) h M.active }

/-- A command starts and stays in execution. -/
def State.start (s : State) (mb : Fin 16) (k : BitVec 16) : State :=
  s.updCmd mb k fun c => { c with started := true, since := if c.started then c.since else s.now }

/-- A command writes its buffer: too short gives E_ARG with the length, a fault E_BUF; RESULT3 is the CRC of the bytes (R51). -/
def State.answer (s : State) (mb : Fin 16) (c : ActiveCmd) (resp : BitVec 3) (l : List Byte) (r : List Word) : State :=
  if c.bufLen < l.length then s.finish mb c.k eArg [nw l.length]
  else
    let s := s.asks mb (s.mbRequests mb true c.bufAddr.toNat l l.length (l.length / 32 + 2))
    if resp ≠ 0 then s.finish mb c.k eBuf []
    else
    (s.updMailbox mb fun M => { M with bufOut := l }).finish mb c.k eOk [r.getD 0 0, r.getD 1 0, r.getD 2 0, crc32cOf l]

/-- The command that asks for an object: its mailbox and descriptor index; none for the Sower. -/
abbrev Asker := Option (Fin 16 × BitVec 16)

/-- Start number of the command that asks, once it has begun (R71). -/
def State.askOrd (s : State) (me : Asker) : Option Nat :=
  me.bind fun p => (s.mailboxes[p.1].active.find? fun c => c.k == p.2 && c.begun).map ActiveCmd.ord

/-- Whether another long command in execution, begun before the one that asks, has an object (R71; log 62, DEDUCED). -/
def State.holdsObject (s : State) (me : Asker) (p : Fin 16 → ActiveCmd → Bool) : Bool :=
  (allFin 16).any fun m => s.mailboxes[m].active.any fun c =>
    c.going && isLong c.opcode && me != some (m, c.k) && p m c &&
      match s.askOrd me with
      | some n => c.started || decide (c.ord < n)
      | none => true

/-- A Field held by FIELD_DRAIN, FIELD_POWER, RESET, COMMIT or IMAGE_LOAD. -/
def State.fieldHeld (s : State) (me : Asker) (f : Nat) : Bool :=
  s.holdsObject me fun _ c =>
    ((c.opcode == 0x0804 || c.opcode == 0x0805) && c.args[0].toNat == f) ||
      (c.opcode == 0x0808 && c.args[0] == 2 && c.args[1].toNat == f) ||
      (c.opcode == 0x0206 && (bits c.args[0] 0 4 : BitVec 4).getLsbD f) ||
      (c.opcode == 0x0501 && c.args[0] == 0 && (bits c.args[1] 0 4 : BitVec 4).getLsbD f)

/-- A bank held by HARROW_RUN or BANK_REPAIR. -/
def State.bankHeld (s : State) (me : Asker) (f b : Nat) : Bool :=
  s.holdsObject me fun _ c => (c.opcode == 0x0602 || c.opcode == 0x0807) && c.args[0].toNat == f && c.args[1].toNat == b

/-- An engine held by ENGINE_RETIRE or ENGINE_TEST. -/
def State.engineHeld (s : State) (me : Asker) (g : Nat) : Bool :=
  s.holdsObject me fun _ c => (c.opcode == 0x0806 || c.opcode == 0x0603) && c.args[0].toNat == g

/-- The staging session of a mailbox held by a STAGE_WRITE or COMMIT of it. -/
def State.sessionHeld (s : State) (me : Asker) (mb : Fin 16) : Bool :=
  s.holdsObject me fun m c => m == mb && (c.opcode == 0x0202 || c.opcode == 0x0206)

/-- A furrow held by a FURROW_START, FURROW_STOP, FURROW_DESTROY or FURROW_MOVE. -/
def State.moveHeld (s : State) (me : Asker) (fid : Nat) : Bool :=
  s.holdsObject me fun _ c =>
    (c.opcode == 0x0302 || c.opcode == 0x0303 || c.opcode == 0x0304 || c.opcode == 0x0307) && c.args[0].toNat == fid

/-- Whether a furrow is a supervision furrow: a DRILL furrow with a twin (R339). -/
def Furrow.supervises (F : Furrow) : Bool := F.desc.cls == 1 && F.twin.isSome

/-- A furrow held by a command on it or by a FIELD_WALK of its Field (R71, R349). -/
def State.furrowHeld (s : State) (me : Asker) (fid : Nat) : Bool :=
  s.moveHeld me fid || s.furrows.any fun F => F.id == fid && F.supervises && s.sup.walks.any fun w => F.desc.fieldMask &&& w.fields != 0

end Sys2Proof.Machine
end

