-- ==== Sys2Proof/Machine/Granules.lean ====
section
/-! DEFINITION. Granules, banks and headland stacks as they are taken, their release, and the end of a migration (R80, R95, R208, R253). -/

namespace Sys2Proof.Machine

/-- Why a migration was begun: a FURROW_MOVE, the plan, a retirement, a FIELD_DRAIN, an engine over its target, a bank to be vacated, an
engine emptied without waking another (R83, R93, R100, R266). -/
def forMove : Nat := 0
def forPlan : Nat := 1
def forRetire : Nat := 2
def forDrain : Nat := 3
def forBalance : Nat := 4
def forVacate : Nat := 5
def forEmpty : Nat := 6

/-- Bytes of a granule and of a bank (R80, R113). -/
def granuleBytes : Nat := 4096
def bankBytes : Nat := 131072

/-- Extents that stand in a Field: of the furrows whose home it is, and of the targets of migrations into it; what a migration copied
within the Field came from is kept until RESUME (R95). -/
def State.extentsIn (s : State) (f : Fin 4) : List Extent :=
  (s.furrows.filter fun F => F.home == some f).flatMap Furrow.extents ++
    (s.sower.migs.filter fun m => fieldOf m.dst == f).flatMap Migration.extents

/-- Whether an engine is the target of a migration: the Sower has reserved it (R84). -/
def State.isTarget (s : State) (g : Fin 96) : Bool := s.sower.migs.any fun m => m.dst == g

/-- Engine addresses of the headland stacks of a Field, from the bottom (R208). -/
def State.headlands (s : State) (f : Fin 4) : List Nat :=
  (fieldEngines f).filterMap fun g =>
    if s.engines[g].hdlSp = 0 then none else some (s.engines[g].hdlSp.toNat - granuleBytes)

/-- Whether a granule of a Field is free of extents and headland stacks. -/
def State.granuleFree (s : State) (f : Fin 4) (a : Nat) : Bool :=
  !((s.extentsIn f).any fun e => decide (e.base < a + granuleBytes ∧ a < e.base + e.len)) &&
    !((s.headlands f).any fun h => h == a)

/-- Banks of a Field in a state. -/
def State.banksIn (s : State) (f : Fin 4) (st : BankSt) : List (Fin 32) :=
  (allFin 32).filter fun b => s.fields[f].banks[b].st == st

/-- A bank returns to FREE, its contents unchanged (R253). -/
def State.freeBank (s : State) (f : Fin 4) (b : Fin 32) : State :=
  s.updBank f b fun B => { B with st := .free, owner := 0, target := 0, shared := false }

/-- The headland stack of an engine without a furrow, and without an extent in its banks, is given up (R208, R253; log 32, DEDUCED). -/
def State.dropHeadlands (s : State) (f : Fin 4) : State :=
  (fieldEngines f).foldl (fun (s : State) (g : Fin 96) =>
    let mine (b : Fin 32) : Bool := s.fields[f].banks[b].st == .owned && s.fields[f].banks[b].owner == localOf g
    let used := s.furrows.any (fun F => F.engine == some g) || s.sower.migs.any (fun m => m.dst == g) ||
      (s.extentsIn f).any fun e => mine (bankOf e.base)
    if s.engines[g].hdlSp = 0 ∨ used then s else s.updEngine g fun E => { E with hdlSp := 0 }) s

/-- Banks that no extent and no headland stack holds any more become FREE (R253). -/
def State.releaseEmpty (s : State) (f : Fin 4) : State :=
  let s := s.dropHeadlands f
  (s.banksIn f .owned).foldl (fun s b =>
    if (List.range 32).all fun i => s.granuleFree f (b.val * bankBytes + i * granuleBytes) then s.freeBank f b else s) s

/-- A migration ends before RESUME: what it has reserved is released, its copy is given up, and the FURROW_MOVE that asked for it ends with E_ABORTED (R72,
R95). -/
def State.endMig (s : State) (fid : Nat) : State :=
  match s.sower.migs.find? fun m => m.fid == fid with
  | none => s
  | some m =>
    let s := s.updSower fun W => { W with migs := W.migs.filter fun x => x.fid ≠ fid }
    let s := s.updPorts (fieldOf m.src) fun P => { P with own := P.own.filter fun o => o.copy || o.fid != fid }
    let s := s.releaseEmpty (fieldOf m.dst)
    match m.cmd with
    | some (mb, k) => s.finish mb k eAborted []
    | none => s

end Sys2Proof.Machine
end

