-- ==== Sys2Proof/Machine/Trace.lean ====
section
/-! DEFINITION. Trace packets and their buffers (R464-R468). -/

namespace Sys2Proof.Machine

/-- Word 0 of a packet (R467). -/
def packetHead (type len src furrow : Nat) (pay : Word) : DWord :=
  pay ++ BitVec.ofNat 4 0 ++ BitVec.ofNat 12 furrow ++ BitVec.ofNat 1 0 ++ BitVec.ofNat 7 src ++
    BitVec.ofNat 1 0 ++ BitVec.ofNat 3 len ++ BitVec.ofNat 4 type

/-- A packet: its head and its following words (R467). -/
def packet (type src furrow : Nat) (pay : Word) (l : List DWord) : List DWord :=
  packetHead type l.length src furrow pay :: l

/-- TRC_CTL.EN and the Field's bit (R465, R466). -/
def State.traced (s : State) (f : Fin 4) : Bool :=
  s.dbg.trcCtl.getLsbD 0 && s.dbg.trcCtl.getLsbD (2 + f.val) && !s.inFallow

/-- Whether packets of a furrow with this PSW are emitted on a Field (R466). -/
def State.tracesFurrow (s : State) (f : Fin 4) (fid : Nat) (psw : Word) : Bool :=
  s.traced f && psw.getLsbD 6 && (!s.dbg.trcFid.getLsbD 12 || fieldN s.dbg.trcFid 0 12 == fid)

/-- SYNC of a furrow (R467): PC, CSEL, PRIV, ML, time. -/
def syncPacket (src furrow : Nat) (c : Ctx) (time : DWord) : List DWord :=
  packet 0 src furrow c.pc
    [(bits c.psw 8 3 ++ bits c.psw 15 1 ++ bits c.psw 16 3 : BitVec 7).setWidth 64, time]

/-- A count of words emitted by the block (R469, group 7). -/
def State.countPacket (s : State) (n : Nat) : State := s.count 7 0 n

/-- One packet into an engine's buffer of 64 words, or dropped and counted (R464). After a drop the next packet
accepted follows a LOSS packet and a SYNC. -/
def State.emit (s : State) (g : Fin 96) (furrow : Nat) (c : Ctx) (p : List DWord) : State :=
  let E := s.engines[g]
  let pre : List DWord :=
    if E.traceSync then
      packet 7 g.val furrow (nw (min E.traceLost 0xFFFFFFFF)) [] ++ syncPacket g.val furrow c s.now
    else []
  let all := pre ++ p
  if E.trace.length + all.length ≤ 64 then
    (s.updEngine g fun E =>
      { E with trace := E.trace ++ all, traceSync := false, traceLost := 0, traceCount := E.traceCount + 1 })
  else
    (s.updEngine g fun E => { E with traceSync := true, traceLost := E.traceLost + 1 }).updDbg fun d =>
      { d with trcLostFull := if d.trcLostFull = 0xFFFF then d.trcLostFull else d.trcLostFull + 1 }

/-- A packet of a furrow, with the periodic SYNC of 2^(SYNCP + 8) packets (R465, R467). -/
def State.emitFurrow (s : State) (g : Fin 96) (fid : Nat) (c : Ctx) (p : List DWord) : State :=
  if s.tracesFurrow (fieldOf g) fid c.psw then
    let t := s.emit g fid c p
    if 2 ^ (fieldN s.dbg.trcCtl 7 4 + 8) ≤ t.engines[g].traceCount then
      (t.emit g fid c (syncPacket g.val fid c s.now)).updEngine g fun E => { E with traceCount := 0 }
    else t
  else s

/-- FLOW of a taken transfer, an entry or RETX; the word count restarts (R467). -/
def State.emitFlow (s : State) (g : Fin 96) (fid : Nat) (c : Ctx) (vector : Nat) (entry retx : Bool) : State :=
  let n := min s.engines[g].traceWords 65535
  let w : DWord := (bit 1 retx ++ bit 1 entry ++ BitVec.ofNat 6 vector ++ BitVec.ofNat 16 n).setWidth 64
  let t := s.emitFurrow g fid c (packet 1 g.val fid c.pc [w])
  if s.tracesFurrow (fieldOf g) fid c.psw then t.updEngine g fun E => { E with traceWords := 0 } else t

/-- SYNC of a furrow on an engine (R467). -/
def State.emitSync (s : State) (g : Fin 96) (fid : Nat) (c : Ctx) : State :=
  let t := s.emitFurrow g fid c (syncPacket g.val fid c s.now)
  if s.tracesFurrow (fieldOf g) fid c.psw then t.updEngine g fun E => { E with traceWords := 0 } else t

/-- A packet of an engine that needs EN and the Field only: DOZE and HALT (R466). -/
def State.emitEngine (s : State) (g : Fin 96) (furrow : Nat) (c : Ctx) (p : List DWord) : State :=
  if s.traced (fieldOf g) then s.emit g furrow c p else s

/-- HALT packet (R467): cause, and 1 in bit 8 on release. -/
def State.emitHalt (s : State) (g : Fin 96) (furrow : Nat) (c : Ctx) (cause : BitVec 5) (rel : Bool) : State :=
  s.emitEngine g furrow c
    (packet 6 g.val furrow ((bit 1 rel ++ 0#3 ++ cause : BitVec 9).setWidth 32) [s.now])

end Sys2Proof.Machine
end

