-- ==== Sys2Proof/Machine/RunCtl.lean ====
section
/-! DEFINITION. Holds and freezes of engines, control-store fetches and the microcode words of a Field (R130, R217, R242, R326, R374,
R453, R463). -/

namespace Sys2Proof.Machine

/-- CS_VER words of a Field (R242). -/
def State.csVer (s : State) (f : Fin 4) (w : Nat) : Word :=
  let C := s.fields[f].cust
  match w with
  | 0 => (0x01#8 ++ s.sup.vbuild).setWidth 32
  | 1 => if C.present then (1#1 ++ C.build).setWidth 32 else 0
  | 2 => if C.present then le32 (digestBytes C.digest) 0 else 0
  | _ => le32 (digestBytes s.sup.vdigest) 0

/-- Whether a Field holds the customer microcode that a furrow was started with (R243). -/
def State.sameMicrocode (s : State) (F : Furrow) (f : Fin 4) : Bool := (s.csVer f 1, s.csVer f 2) == F.verAtStart

/-- The customer image that an engine holds: its Field's, or the one it kept while an image load skipped it (R218). -/
def State.custOf (s : State) (g : Fin 96) : Customer := (s.engines[g].custOld).getD s.fields[fieldOf g].cust

/-- HB in PSW (R104). -/
def setHb (p : Word) : Word := p ||| 0x20#32

/-- A hold in force breaks, and HB sets in the furrow on the engine (R130). -/
def State.breakHold (s : State) (g : Fin 96) : State :=
  match s.engines[g].hold with
  | none => s
  | some _ =>
    let s := s.updEngine g fun E => { E with hold := none }
    match s.engines[g].cur with
    | some fid => s.updFurrow fid fun F => { F with ctx := { F.ctx with psw := setHb F.ctx.psw } }
    | none => s

/-- A corrected control-store error: the fourth in 24 h at one address retires the engine (R99 code 5, R217). -/
def State.noteCs (s : State) (g : Fin 96) (a : Nat) : State :=
  let old := (mapGet [] a s.engines[g].csCorr).filter fun t => decide (s.since t < dayNs)
  let times := old ++ [s.now]
  s.updEngine g fun E =>
    { E with
      csCorr := mapSet [] a times E.csCorr
      retireDue := if E.retireDue.isNone && 4 ≤ times.length then some 5 else E.retireDue }

/-- Fetch of a microword: none where it is uncorrectable (R217). -/
def State.csFetch (s : State) (g : Fin 96) (a : Nat) : Option State :=
  match mapFind a s.engines[g].csErr with
  | none => some s
  | some .corr => some (s.noteCs g a)
  | some _ => none

/-- Furrows resident on an engine (R79). -/
def State.residents (s : State) (g : Fin 96) : List Furrow := s.furrows.filter fun F => F.engine == some g

/-- Whether the freeze options are honoured (R19, R463). -/
def State.freezeHonoured (s : State) : Bool := !s.sealed || s.dbg.session.isSome

/-- Whether some engine of a Field is halted (R463). -/
def State.anyHalted (s : State) (f : Fin 4) : Bool := (fieldEngines f).any fun g => s.engines[g].st == .halted

/-- A drill frozen by the debug option (R326). -/
def Drill.freeze (d : Drill) : Drill :=
  match d.st with
  | .running => { d with st := .frozen, frozenFrom := .running }
  | .waiting => { d with st := .frozen, frozenFrom := .waiting }
  | .stalled => { d with st := .frozen, frozenFrom := .stalled }
  | _ => d

/-- A frozen drill returns to the state it left (R326). -/
def Drill.thaw (d : Drill) : Drill := if d.st = .frozen then { d with st := d.frozenFrom } else d

/-- Freezes of a Field as DBG_FREEZE and the halts of its engines ask (R326, R374, R463). The end of a
watchdog's freeze is WATCHDOG_FREEZE_END. -/
def State.applyFreeze (s : State) (f : Fin 4) : State :=
  let on := s.freezeHonoured && s.anyHalted f
  let s := if on && s.dbg.freeze.getLsbD f.val then s.mapFieldDrills f Drill.freeze else s.mapFieldDrills f Drill.thaw
  let s := s.updField f fun F => { F with freezeWin := on && s.dbg.freeze.getLsbD (9 + f.val) }
  let holds := (fieldEngines f).any fun g => s.engines[g].st == .halted && !(s.residents g).isEmpty
  if s.freezeHonoured && holds && s.almanac.wdf[f].freeze then
    s.updAlm fun A => { A with wdf := vupd A.wdf f fun w => { w with frozen := true } }
  else s

/-- The furrow on an engine, 0xFFF for none (R453). -/
def State.onEngine (s : State) (g : Fin 96) : Nat := (s.engines[g].cur).getD 0xFFF

/-- Context of the furrow on an engine, for packets. -/
def State.ctxOn (s : State) (g : Fin 96) : Ctx :=
  match s.engines[g].cur with
  | some fid => ((s.furrow? fid).map Furrow.ctx).getD Ctx.zero
  | none => Ctx.zero

/-- Whether an engine's next word may issue as far as its phase goes. -/
def Phase.canIssue (p : Phase) : Bool := p == .ready || p == .entered

/-- Whether an engine stands at a boundary now (R199): no word, entry or escalation is unfinished. -/
def Engine.atBoundary (E : Engine) : Bool := E.cur == none || E.phase == .ready

end Sys2Proof.Machine
end

