-- ==== Sys2Proof/Machine/Place.lean ====
section
/-! DEFINITION. The Sower's resources and placement: Plot allocation, loads, R82, plans, starting and losing a furrow (R75, R80-R84,
R88-R93, R101, R127, R128, R243, R253, R275, R322). -/

namespace Sys2Proof.Machine

/-! Plot allocation (R80, R108) -/

/-- Whether a furrow takes whole banks (R80). -/
def Desc.wholeBanks (d : Desc) : Bool := decide (64 ≤ d.workset)

/-- Units a furrow takes: whole banks, or granules (R80). -/
def Desc.units (d : Desc) : Nat := if d.wholeBanks then ceilDiv d.workset 128 else ceilDiv d.workset 4

/-- Free granules of a bank, by number. -/
def State.freeGranules (s : State) (f : Fin 4) (b : Fin 32) : List Nat :=
  (List.range 32).filter fun i => s.granuleFree f (b.val * bankBytes + i * granuleBytes)

/-- The first run of n numbers in a rising list. -/
def findRun (l : List Nat) (n : Nat) : Option Nat := l.find? fun a => (List.range n).all fun i => decide (a + i ∈ l)

/-- Runs of the given lengths, each the first that is left. -/
def takeRuns (l : List Nat) : List Nat → Option (List (Nat × Nat))
  | [] => some []
  | n :: ns =>
    match findRun l n with
    | none => none
    | some a => (takeRuns (l.filter fun i => decide (i < a ∨ a + n ≤ i)) ns).map fun r => (a, n) :: r

/-- The runs of a rising list. -/
def runsOf (l : List Nat) : List (Nat × Nat) :=
  l.foldr (fun x r => match r with
    | (a, k) :: t => if x + 1 = a then (x, k + 1) :: t else (x, 1) :: (a, k) :: t
    | [] => [(x, 1)]) []

/-- n units out of the free ones: one run where there is one, else the lowest, in at most 16 runs; or runs of given lengths (R108). -/
def allocUnits (free : List Nat) (n : Nat) (lens : Option (List Nat)) : Option (List (Nat × Nat)) :=
  match lens with
  | some l => takeRuns free l
  | none =>
    match findRun free n with
    | some a => some [(a, n)]
    | none =>
      let r := runsOf (free.take n)
      if n ≤ free.length ∧ r.length ≤ 16 then some r else none

/-- What an allocation takes: extents, banks that become owned (with SHARED), and the top of a new headland stack. -/
structure Alloc where
  extents : List Extent
  banks : List (Fin 32 × Bool)
  hdl : Option Nat
  deriving DecidableEq, Repr

/-- Shared banks that an engine owns. -/
def State.sharedOf (s : State) (f : Fin 4) (e : Fin 24) : List (Fin 32) :=
  (s.banksIn f .owned).filter fun b => s.fields[f].banks[b].shared && s.fields[f].banks[b].owner == e

/-- Whether an engine still lacks its headland stack (R208). -/
def State.needsHeadland (s : State) (g : Fin 96) : Bool := s.engines[g].hdlSp == 0

/-- Units that CREATED furrows have reserved in a Field but do not hold yet: whole banks, or granules (R75; log 29, DESIGN CHOICE). -/
def State.reservedUnits (s : State) (f : Fin 4) (but : Nat) (whole : Bool) : Nat :=
  ((s.furrows.filter fun F => F.home == some f && F.extents.isEmpty && F.id != but && F.desc.wholeBanks == whole).map fun F =>
    F.desc.units).sum

/-- Banks that those reservations take. -/
def State.reservedBanks (s : State) (f : Fin 4) (but : Nat) : Nat :=
  s.reservedUnits f but true + ceilDiv (s.reservedUnits f but false) 32

/-- FREE banks that may be allocated to a furrow: all but as many as others have reserved. -/
def State.freeBanks (s : State) (f : Fin 4) (fid : Nat) : List (Fin 32) :=
  let l := s.banksIn f .free
  l.take (l.length - s.reservedBanks f fid)

/-- Granules in one shared bank, its headland stack beside them where one is needed. -/
def State.allocShared (s : State) (f : Fin 4) (g : Fin 96) (b : Fin 32) (new : Bool) (n : Nat) (lens : Option (List Nat)) :
    Option Alloc :=
  let free := if new then List.range 32 else s.freeGranules f b
  match allocUnits free n lens with
  | none => none
  | some r =>
    let rest := free.filter fun i => !(r.any fun q => decide (q.1 ≤ i ∧ i < q.1 + q.2))
    let ext := r.map fun q => { base := b.val * bankBytes + q.1 * granuleBytes, len := q.2 * granuleBytes : Extent }
    let bk := if new then [(b, true)] else []
    if s.needsHeadland g then
      match rest with
      | [] => none
      | i :: _ => some { extents := ext, banks := bk, hdl := some (b.val * bankBytes + (i + 1) * granuleBytes) }
    else some { extents := ext, banks := bk, hdl := none }

/-- The first answer of a list. -/
def firstSome {α β : Type} (h : α → Option β) : List α → Option β
  | [] => none
  | x :: l => match h x with
    | some y => some y
    | none => firstSome h l

/-- FREE banks for a furrow: those of a plan's BANKS (R89), otherwise what others have not reserved. -/
def State.banksFor (s : State) (f : Fin 4) (fid : Nat) (only : Option Word) : List (Fin 32) :=
  match only with
  | some m => (s.banksIn f .free).filter fun b => m.getLsbD b.val
  | none => s.freeBanks f fid

/-- Allocation of a furrow's Plot for an engine (R80, R108): `only` bounds the banks in Sealed mode (R89), `lens` gives the lengths
of the extents that a migration must keep, in units. -/
def State.alloc (s : State) (g : Fin 96) (F : Furrow) (only : Option Word) (lens : Option (List Nat)) : Option Alloc :=
  let f := fieldOf g
  let may (b : Fin 32) : Bool := match only with
    | some m => m.getLsbD b.val
    | none => true
  let free := s.banksFor f F.id only
  if F.desc.wholeBanks then
    match allocUnits (free.map Fin.val) F.desc.units lens with
    | none => none
    | some r =>
      let ext := r.map fun q => { base := q.1 * bankBytes, len := q.2 * bankBytes : Extent }
      let took := (allFin 32).filter fun b => r.any fun q => decide (q.1 ≤ b.val ∧ b.val < q.1 + q.2)
      let bk := took.map fun b => (b, false)
      if s.needsHeadland g then
        match firstSome (fun b => s.allocShared f g b false 0 (some [])) (s.sharedOf f (localOf g)) with
        | some a => some { extents := ext, banks := bk, hdl := a.hdl }
        | none =>
          match (s.freeBanks f F.id).filter fun b => b ∉ took with
          | [] => none
          | b :: _ =>
            some { extents := ext, banks := bk ++ [(b, true)], hdl := some (b.val * bankBytes + granuleBytes) }
      else some { extents := ext, banks := bk, hdl := none }
  else
    match firstSome (fun b => s.allocShared f g b false F.desc.units lens)
        ((s.sharedOf f (localOf g)).filter may) with
    | some a => some a
    | none => firstSome (fun b => s.allocShared f g b true F.desc.units lens) (free.take 1)

/-- Banks of an allocation become OWNED, and the engine gets its headland stack, with a sound header of COUNT 0 (R208; log 32, DEDUCED). -/
def State.takeAlloc (s : State) (g : Fin 96) (a : Alloc) : State :=
  let f := fieldOf g
  let s := a.banks.foldl (fun s b => s.updBank f b.1 fun B =>
    { B with st := .owned, owner := localOf g, target := 0, shared := b.2 }) s
  match a.hdl with
  | some t =>
    let s := s.updEngine g fun E => { E with hdlSp := BitVec.ofNat 22 t }
    let header := List.replicate 60 0 ++ bytes32 (crc32cOf (List.replicate 60 0))
    s.plotWrite f (t - granuleBytes) (List.replicate (granuleBytes - 64) 0 ++ header)
  | none => s

/-- Zero fill of what a furrow receives (R253). -/
def State.fillAlloc (s : State) (f : Fin 4) (a : Alloc) : State :=
  let s := a.banks.foldl (fun s b => if b.2 then s else s.zeroBank f b.1) s
  a.extents.foldl (fun s e => if e.len % bankBytes = 0 then s else s.zeroFill f e.base e.len) s

/-- A furrow's Plot is released (R253). -/
def State.releasePlot (s : State) (fid : Nat) : State :=
  match s.furrow? fid with
  | none => s
  | some F =>
    let t := s.updFurrow fid fun F => { F with extents := [], home := none }
    match F.home with
    | some f => t.releaseEmpty f
    | none => t

/-! Loads (R81) -/

/-- Declared rate of a Field in kHz; 2.0 GHz where none is declared (R24, R64). -/
def State.rateOf (s : State) (f : Fin 4) : Nat := s.sower.rates[f.val]

/-- A furrow's load on an engine of a Field, in 0.1 % times the Field's rate in kHz (R81). -/
def Furrow.loadScaled (F : Furrow) : Nat := max (F.desc.demand * 2000000) ((F.loads.foldl max 0) * 1000)

/-- Furrows that an engine holds or is about to receive. -/
def State.holds (s : State) (g : Fin 96) : List Furrow :=
  s.furrows.filter fun F => F.engine == some g || s.sower.migs.any fun m => m.fid == F.id && m.dst == g

/-- An engine's load, scaled as above. -/
def State.loadOn (s : State) (g : Fin 96) : Nat := ((s.holds g).map Furrow.loadScaled).sum

/-- The target, in 0.1 % (R81). -/
def State.target (s : State) : Nat := 1000 - 10 * s.sower.headroom

/-- Whether scaled loads on two engines compare as a < b. -/
def State.lighter (s : State) (g h : Fin 96) : Bool :=
  decide (s.loadOn g * s.rateOf (fieldOf h) < s.loadOn h * s.rateOf (fieldOf g))

/-- Furrows resident in a Field (R75). -/
def State.residentsIn (s : State) (f : Fin 4) : Nat :=
  (s.furrows.filter fun F => F.home == some f || s.sower.migs.any fun m => m.fid == F.id && fieldOf m.dst == f).length

/-- Whether a furrow may run in a Field: its mask, the Field's state, customer microcode, and the 512 residents (R75, R82, R243). -/
def State.fieldOk (s : State) (F : Furrow) (f : Fin 4) : Bool :=
  F.desc.fieldMask.getLsbD f.val && s.fields[f].st == .inService &&
    (F.st == .created || s.sameMicrocode F f) &&
    (F.home == some f || decide (s.residentsIn f < 512))

/-- Whether the Sower may place on an engine at all (R82, R100). -/
def State.usable (s : State) (g : Fin 96) : Bool :=
  (s.engines[g].st == .awake || s.engines[g].st == .doze) && s.engines[g].retireDue == none &&
    !s.engines[g].resetHeld

/-- Banks that a furrow's extents touch. -/
def Furrow.banks (F : Furrow) : List (Fin 32) :=
  (allFin 32).filter fun b => F.extents.any fun e => decide (e.base < (b.val + 1) * bankBytes ∧ b.val * bankBytes < e.base + e.len)

/-- Where a lost furrow is to restart: on a given engine, wherever R101 places it, or in its own Field (R419). -/
def restartHere (g : Fin 96) : Nat := g.val
def restartAnywhere : Nat := 96
def restartHome : Nat := 97

/-- Whether a furrow may stay in its granules on an engine: the engine owns their banks, or the furrow returns after a reset, which freed
them, and no other furrow that runs holds a granule there (R101, R419). -/
def State.adoptable (s : State) (g : Fin 96) (F : Furrow) : Bool :=
  F.banks.all fun b =>
    let B := s.fields[fieldOf g].banks[b]
    (B.st == .owned && B.owner == localOf g) ||
      (decide ((F.id, restartHome) ∈ s.sower.restarts) &&
        !(s.furrows.any fun H => H.id != F.id && H.home == F.home && H.engine.isSome && decide (b ∈ H.banks)))

/-- Allocation a furrow needs on an engine: none of its own where its banks stay with it, or pass to the engine by handover (R101,
R252, R419). -/
def State.allocFor (s : State) (g : Fin 96) (F : Furrow) (only : Option Word) : Option Alloc :=
  if F.home = some (fieldOf g) ∧ !F.extents.isEmpty then
    if F.desc.wholeBanks ∨ F.engine = some g ∨ s.adoptable g F then
      if s.needsHeadland g then
        (match firstSome (fun b => s.allocShared (fieldOf g) g b false 0 (some [])) (s.sharedOf (fieldOf g) (localOf g)) with
          | some a => some { extents := F.extents, banks := [], hdl := a.hdl }
          | none =>
            match s.freeBanks (fieldOf g) F.id with
            | [] => none
            | b :: _ =>
              some { extents := F.extents, banks := [(b, true)], hdl := some (b.val * bankBytes + granuleBytes) })
      else some { extents := F.extents, banks := [], hdl := none }
    else s.alloc g F only (some (F.extents.map fun e => e.len / granuleBytes))
  else
    s.alloc g F only (if F.extents.isEmpty then none else
      some (F.extents.map fun e => e.len / (if F.desc.wholeBanks then bankBytes else granuleBytes)))

/-- Units in which extents are counted for a move. -/
def Furrow.extentLens (F : Furrow) : List Nat := F.extents.map fun e => e.len / (if F.desc.wholeBanks then bankBytes else granuleBytes)

/-- Whether a furrow passes its banks to an engine by handover: whole banks within the Field (R95, R252). -/
def Furrow.handsOver (F : Furrow) (dst : Fin 96) : Bool := F.desc.wholeBanks && F.home == some (fieldOf dst)

/-- What a furrow needs on the target of a migration (R95, R108): extents of the same lengths and order; with handover no Plot of its own. -/
def State.moveAlloc (s : State) (F : Furrow) (dst : Fin 96) (only : Option Word) : Option Alloc :=
  if F.handsOver dst then s.allocFor dst F only else s.alloc dst F only (some F.extentLens)

/-- Whether an engine has a context slot free for a furrow (R79). -/
def State.slotFor (s : State) (F : Furrow) (g : Fin 96) : Bool :=
  decide (((s.holds g).filter fun H => H.id != F.id).length < 32)

/-- Room of R82: Plot and a context slot. A furrow that is on an engine moves; any other starts. -/
def State.roomOn (s : State) (F : Furrow) (g : Fin 96) : Bool :=
  (if F.engine.isSome then s.moveAlloc F g none else s.allocFor g F none).isSome && decide ((s.holds g).length < 32)

/-- Whether a furrow fits an engine under the target (R82). -/
def State.fits (s : State) (F : Furrow) (g : Fin 96) : Bool :=
  decide (s.loadOn g + F.loadScaled ≤ s.target * s.rateOf (fieldOf g)) && s.roomOn F g

/-- The best of a list: the first that no later member betters. -/
def bestOf {α : Type} (better : α → α → Bool) : List α → Option α
  | [] => none
  | x :: l => some (l.foldl (fun b y => if better y b then y else b) x)

/-- The Sower's choice in Rolling mode, and whether it breaches the headroom (R82). `ok` bounds the engines. -/
def State.choose (s : State) (F : Furrow) (ok : Fin 96 → Bool) : Option (Fin 96 × Bool) :=
  let here := (allFin 96).filter fun g => ok g && s.fieldOk F (fieldOf g) && s.usable g
  let cands := here.filter fun g => s.engines[g].st == .awake
  let fit := cands.filter (s.fits F)
  let pick := if s.sower.packing then bestOf (fun g h => s.lighter h g) fit else bestOf s.lighter fit
  match pick with
  | some g => some (g, false)
  | none =>
    match if s.sower.packing then (here.filter fun g => s.engines[g].st == .doze && s.roomOn F g).head? else none with
    | some g => some (g, false)
    | none => (bestOf s.lighter (cands.filter (s.roomOn F))).map fun g => (g, true)

/-! Plans (R88-R92) -/

/-- Entry k of a plan table (R89). -/
def planEntries (t : List Byte) : List (Nat × Nat × Word) :=
  (List.range (le16 t 4).toNat).map fun k =>
    let o := 64 + 8 * k
    (fieldN (le16 t o) 0 12, fieldN (byteAt t (o + 2)) 0 7, le32 t (o + 4))

/-- Transitions of a plan table (R90): kind, subject, target. -/
def planTransitions (t : List Byte) : List (Nat × Nat × Nat) :=
  (List.range (byteAt t 6).toNat).map fun k =>
    let o := 64 + 8 * (le16 t 4).toNat + 8 * k
    ((byteAt t o).toNat, (byteAt t (o + 1)).toNat, (byteAt t (o + 2)).toNat)

/-- Spare engines of a Field in a plan, in order of use (R88). -/
def planSpares (t : List Byte) (f : Fin 4) : List (Fin 96) :=
  ((bytesAt t (8 + 8 * f.val) 8).takeWhile fun b => b != 0xFF).filterMap fun b =>
    (toFin? 24 b.toNat).map (globalOf f)

/-- A plan table; empty where none was written. -/
def State.planTable (s : State) (n : Nat) : List Byte := mapGet [] n s.sower.plans

/-- An engine after the substitutions in force (R92). -/
def State.substituted (s : State) (g : Fin 96) : Fin 96 :=
  match s.sower.subs.find? fun p => p.1 == g with
  | some p => p.2
  | none => g

/-- Where a plan puts a furrow, after substitution: engine and BANKS (R89, R92). -/
def State.planned (s : State) (n : Nat) (fid : Nat) : Option (Fin 96 × Word) :=
  match (planEntries (s.planTable n)).find? fun e => e.1 == fid with
  | none => none
  | some e =>
    match toFin? 96 e.2.1 with
    | none => none
    | some g => some (s.substituted g, e.2.2)

/-- Whether an engine of a plan can take a furrow: it is neither lost nor retired, and its Field is In service (R94). -/
def State.planHealthy (s : State) (g : Fin 96) : Bool := s.usable g && s.fields[fieldOf g].st == .inService

/-- Where a furrow restarts: the active plan in Sealed mode, R82 in Rolling mode (R93, R101). -/
def State.restartPlace (s : State) (F : Furrow) (ok : Fin 96 → Bool) : Option (Fin 96 × Option Word × Bool) :=
  if s.sealed then
    match s.planned s.sower.activePlan F.id with
    | some (g, m) =>
      if s.planHealthy g && (s.allocFor g F (some m)).isSome && s.slotFor F g && s.sameMicrocode F (fieldOf g) then
        some (g, some m, false)
      else none
    | none => none
  else (s.choose F ok).map fun r => (r.1, none, r.2)

/-! Starting a furrow (R127, R128, R275, R322) -/

/-- Fabric base of a window in engine addresses (R114). -/
def fabOffset : Nat := 0x100000000

/-- A segment register in extent form. -/
def extSeg (e off limit : Nat) (r w x : Bool) : Seg :=
  { base := (1#1 ++ 0#11 ++ BitVec.ofNat 4 e ++ 0#10 ++ BitVec.ofNat 22 off : BitVec 48)
    limit := nw limit, r := r, w := w, x := x, sup := false, tgt := false }

/-- The context of a first instruction at ENTRY (R127). -/
def startCtx (F : Furrow) (len : Nat) : Ctx :=
  let s0 := extSeg 0 0 len true true false
  let win : Seg :=
    { base := BitVec.ofNat 48 (F.desc.fabBase + fabOffset), limit := nw (min F.desc.fabLen 0xFFFFFFFF), r := true,
      w := true, x := false, sup := false, tgt := true }
  { Ctx.zero with
    pc := nw F.desc.entry, psw := 0x00068700#32, sp := nw (len / 8 * 8)
    seg := #v[s0, extSeg 0 F.recordOff recordLen true false false, win, Seg.zero, Seg.zero, Seg.zero,
      extSeg 0 0 F.desc.codeLen true false true, s0] }

/-- The start record (R128). -/
def startRecord (F : Furrow) (extents : List Extent) (g : Fin 96) (cause restarts : Nat) (time : DWord) : List Byte :=
  let l := bytes16 1 ++ [BitVec.ofNat 8 cause, BitVec.ofNat 8 extents.length] ++ bytes16 (BitVec.ofNat 16 F.id) ++
    [BitVec.ofNat 8 g.val, BitVec.ofNat 8 (fieldOf g).val] ++ bytes32 (nw restarts) ++ List.replicate 4 0 ++
    bytes64 time ++ (List.range 16).flatMap (fun e => bytes32 (nw (((extents[e]?).map Extent.len).getD 0))) ++
    bytesAt F.desc.param 0 60
  l ++ bytes32 (crc32cOf l)

/-- Whether extent 0 holds the port block and the drill block (R275, R322). -/
def Furrow.blockFits (F : Furrow) (extents : List Extent) : Bool :=
  match extents[0]? with
  | some e => decide (F.portOff + F.blockLen ≤ e.len)
  | none => false

/-- An engine leaves Doze (R84, R468). -/
def State.wake (s : State) (g : Fin 96) : State :=
  if s.engines[g].st = .doze then
    let s := s.updEngine g fun E => { E with st := .awake, lastLoaded := none }
    s.emitEngine g 0xFFF Ctx.zero (syncPacket g.val 0xFFF Ctx.zero s.now)
  else s

/-- A furrow leaves an engine's run list (R79). -/
def State.leaveEngine (s : State) (fid : Nat) (g : Fin 96) : State :=
  s.updEngine g fun E =>
    { E with
      order := E.order.filter (· ≠ fid)
      cur := if E.cur = some fid then none else E.cur
      phase := if E.cur = some fid then .ready else E.phase
      data := if E.cur = some fid then [] else E.data
      micro := if E.cur = some fid then none else E.micro
      lastLoaded := if E.lastLoaded = some fid then none else E.lastLoaded }

/-- A furrow joins an engine's run list. -/
def State.joinEngine (s : State) (fid : Nat) (g : Fin 96) : State :=
  (s.wake g).updEngine g fun E => { E with order := E.order.filter (· ≠ fid) ++ [fid] }

/-- Writes of the Sower into a furrow's Plot at an offset of extent 0. -/
def State.putExtent0 (s : State) (f : Fin 4) (e : List Extent) (off : Nat) (l : List Byte) : State :=
  match e[0]? with
  | some x => s.plotWrite f (x.base + off) l
  | none => s

/-- A selector over a cold restart of its furrow: it keeps its state, its decisions and its remote copies, and the run of local frames in time
begins anew (R86). -/
def Selector.restart (x : Selector) : Selector := { x with streak := 0, lastLocal := none }

/-- A furrow starts at ENTRY on an engine (R127, R128). `code` is written to extent 0 where given; a cold restart without it
finds its firmware in Plot. -/
def State.startOn (s : State) (fid : Nat) (g : Fin 96) (extents : List Extent) (code : Option (List Byte)) (cause : Nat) :
    State :=
  match s.furrow? fid with
  | none => s
  | some F =>
    let f := fieldOf g
    let n := if cause = 0 then F.restarts else F.restarts + 1
    let s := match code with
      | some l => s.putExtent0 f extents 0 (bytesAt l 0 F.desc.codeLen)
      | none => s
    let s := s.putExtent0 f extents F.recordOff (startRecord F extents g cause n s.now)
    let s := s.putExtent0 f extents F.portOff (List.replicate F.blockLen 0)
    let len := ((extents[0]?).map Extent.len).getD 0
    let s := s.updFurrow fid fun F =>
      { F with
        st := .running, engine := some g, home := some f, extents := extents, ctx := startCtx F len, waitMask := none, mbar := false
        restarts := n, rings := [], enSeen := [], doorbells := [], sels := if cause = 0 then [] else F.sels.map Selector.restart, ctxErr := none, fetched := [], runAtCommit := false
        startOnCommit := false
        verAtStart := if cause = 0 then (s.csVer f 1, s.csVer f 2) else F.verAtStart }
    s.joinEngine fid g

/-- Whole banks of a furrow pass to an engine of its Field by handover (R101, R252): each enters HANDOVER with the engine as its
TARGET, unless the engine owns it. -/
def State.handOver (s : State) (F : Furrow) (g : Fin 96) : State :=
  match F.home with
  | none => s
  | some f =>
    let bs := (allFin 32).filter fun b =>
      F.extents.any fun e => decide (e.base ≤ b.val * bankBytes ∧ b.val * bankBytes < e.base + e.len)
    bs.foldl (fun (s : State) (b : Fin 32) =>
      let B := s.fields[f].banks[b]
      if B.st = .owned ∧ B.owner ≠ localOf g ∧ !B.shared then
        s.updBank f b fun B => { B with st := .handover, target := localOf g }
      else s) s

/-- The shared banks of a furrow become an engine's (R419). -/
def State.adopt (s : State) (F : Furrow) (g : Fin 96) : State :=
  F.banks.foldl (fun (s : State) (b : Fin 32) =>
    if s.fields[fieldOf g].banks[b].shared then s.updBank (fieldOf g) b fun B => { B with owner := localOf g } else s) s

/-- Uncorrectable words of a range that was copied stay uncorrectable where they went (R258, R259; log 63, DESIGN CHOICE). -/
def State.copyBad (s : State) (f : Fin 4) (a : Nat) (g : Fin 4) (b : Nat) : Nat → State
  | 0 => s
  | n + 1 =>
    let s := match s.eccAt f a with
      | none => s
      | some .corr => s
      | some _ => s.setEcc g b (some .poison)
    s.copyBad f (a + 16) g (b + 16) n

/-- n bytes of Plot copied by the mover for the Sower, from whole words to whole words: the words read are findings like any reader's
(R253, R259, R491). -/
def State.copyRange (s : State) (f : Fin 4) (a : Nat) (g : Fin 4) (b n : Nat) : State :=
  let s := (s.noteRange f a 1 (wordsSpan a n)).1
  (s.plotWrite g b (s.plotBytes f a n)).copyBad f a g b (wordsSpan a n)

/-- Extents copied one to one by the Field mover (R101, R253). -/
def State.copyExtents (s : State) (f : Fin 4) (old new : List Extent) : State :=
  (old.zip new).foldl (fun s p => s.copyRange f p.1.base f p.2.base p.1.len) s

/-- A cold restart on an engine (R101, R128): in the furrow's own Field its Plot contents stay, by handover or copy, with CAUSE 1;
elsewhere its Plot is allocated anew and filled from `code`, with CAUSE 2. `cause` overrides it (3 from FAILED). -/
def State.restartOn (s : State) (fid : Nat) (g : Fin 96) (only : Option Word) (code : List Byte) (cause : Option Nat) : State :=
  match s.furrow? fid with
  | none => s
  | some F =>
    match s.allocFor g F only with
    | none => s
    | some a =>
      if F.home = some (fieldOf g) ∧ !F.extents.isEmpty then
        let s := s.takeAlloc g a
        let s := if a.extents = F.extents then s.adopt F g else s
        let s := if F.desc.wholeBanks then s.handOver F g
          else if a.extents = F.extents then s else s.copyExtents (fieldOf g) F.extents a.extents
        let s := (s.updFurrow fid fun F => { F with extents := a.extents }).releaseEmpty (fieldOf g)
        s.startOn fid g a.extents none (cause.getD 1)
      else
        let s := s.releasePlot fid
        let s := (s.takeAlloc g a).fillAlloc (fieldOf g) a
        s.startOn fid g a.extents (some code) (cause.getD 2)

/-! Losing a furrow (R86, R101, R211) -/

/-- The mover descriptors of a lost furrow end with ABORTED (R294). -/
def State.abortJobs (s : State) (fid : Nat) : State :=
  let ports (P : Ports) : Ports :=
    { P with jobs := updWhere (fun j => j.fid == fid && j.status == 0) (fun j => { j with status := 0x0A }) P.jobs }
  let fieldsOf (F : Field) : Field := { F with ports := ports F.ports }
  { s with fields := vmap (fun _ F => fieldsOf F) s.fields }

/-- A furrow leaves RUNNING: off its engine, its context void. Drills and rings stay as they are (R327). -/
def State.takeOff (s : State) (fid : Nat) (st : FurrowSt) : State :=
  match s.furrow? fid with
  | none => s
  | some F =>
    let s := match F.engine with
      | some g => (if s.engines[g].cur = some fid then s.breakHold g else s).leaveEngine fid g
      | none => s
    let s := (s.abortJobs fid).endMig fid
    s.updFurrow fid fun F => { F with st := st, engine := none, waitMask := none, mbar := false, doorbells := [] }

/-- A furrow waits for its cold restart, with no engine (log 30, DEDUCED). -/
def State.restartLater (s : State) (fid how : Nat) : State :=
  (s.takeOff fid .unplaced).updSower fun W => { W with restarts := W.restarts.filter (fun r => r.1 ≠ fid) ++ [(fid, how)] }

/-- Outcome of a loss: 0 restarting, 1 UNPLACED, 2 FAILED (R101, R385). -/
def State.lossOutcome (s : State) (F : Furrow) (lostField : Option (Fin 4)) : Nat :=
  if !F.desc.restartable then 2
  else if s.sealed then
    if (s.restartPlace F fun _ => true).isSome ∨ !s.sower.events.isEmpty ∨ lostField.isSome then 0 else 2
  else if (s.restartPlace F fun g => some (fieldOf g) ≠ lostField).isSome then 0
  else
    match lostField with
    | some f =>
      if (allFin 4).any fun k => k ≠ f && F.desc.fieldMask.getLsbD k.val && s.fields[k].st == .inService then 2 else 1
    | none => 2

/-- A furrow is lost (R101, R385): cause 1 engine Stuck, 2 Field failed or reset, 3 engine retired and no place, 4 uncorrectable
context word. -/
def State.loseFurrow (s : State) (fid cause : Nat) (lostField : Option (Fin 4)) : State :=
  match s.furrow? fid with
  | none => s
  | some F =>
    let f := F.home
    let o := s.lossOutcome F lostField
    let s := match o with
      | 0 => s.restartLater fid restartAnywhere
      | 1 => s.takeOff fid .unplaced
      | _ => s.takeOff fid .failed
    s.log 2 6 f fid (nw cause) (nw o)

/-- Every furrow on an engine is lost. -/
def State.loseAll (s : State) (g : Fin 96) (cause : Nat) : State :=
  (s.residents g).foldl (fun s F => s.loseFurrow F.id cause none) s

end Sys2Proof.Machine
end

