-- ==== Sys2Proof/Machine/Repair.lean ====
section
/-! DEFINITION. Spare rows, remapping and the destructive test of a bank (R261-R268). -/

namespace Sys2Proof.Machine

/-- Spare rows of a bank (R246, R265). -/
def spareRows : Nat := 8

/-- Spares of a bank that are neither in use nor unusable. -/
def Bank.freeSpares (B : Bank) : List Nat :=
  (List.range spareRows).filter fun i => !(B.remap.any fun e => e.2 == i) && decide (i ∉ B.badSpares)

/-- Spare that a row is sent to: its latest entry in the remap table (R265). -/
def Bank.spareOf (B : Bank) (row : Nat) : Option Nat := (B.remap.reverse.find? fun e => e.1 == row).map Prod.snd

/-- Rows that a test's failing physical rows leave unserved: rows without a good spare, and rows whose spare fails (R261, R263). -/
def Bank.needy (B : Bank) (failing : List Nat) : List Nat :=
  let fails (i : Nat) : Bool := decide (1024 + i ∈ failing)
  let direct := failing.filter fun r => decide (r < 1024) && (B.spareOf r).isNone
  let moved := (B.remap.map Prod.fst).filter fun r => (B.spareOf r).any fails
  (direct ++ moved).eraseDups

/-- A row is remapped to the first free spare; the remap table and the Seed store take the entry, and the pending list loses the row
(R265, R266); its words leave the list of R491. -/
def State.remapRow (s : State) (f : Fin 4) (b : Fin 32) (row : Nat) : State :=
  match s.fields[f].banks[b].freeSpares with
  | [] => s
  | i :: _ =>
    let s := s.updBank f b fun B => { B with remap := B.remap ++ [(row, i)] }
    let s := s.updField f fun F => { F with known := F.known.filter fun w => decide (w / 8 ≠ b.val * 1024 + row) }
    s.updSeed fun d =>
      { d with
        remaps := d.remaps ++ [(bankKey f b, row, i)]
        pendingRows := d.pendingRows.filter fun e => e != (bankKey f b, row) }

/-- Spares that fail are marked unusable (R264). -/
def State.badSpares (s : State) (f : Fin 4) (b : Fin 32) (failing : List Nat) : State :=
  let l := (List.range spareRows).filter fun i => decide (1024 + i ∈ failing ∧ i ∉ s.fields[f].banks[b].badSpares)
  if l.isEmpty then s
  else
    (s.updBank f b fun B => { B with badSpares := B.badSpares ++ l }).updSeed fun d =>
      { d with badSpares := d.badSpares ++ l.map fun i => (bankKey f b, i) }

/-- A bank becomes RETIRED and enters the retirement map (R263, R267). -/
def State.retireBank (s : State) (f : Fin 4) (b : Fin 32) : State :=
  let s := s.updBank f b fun B => { B with st := .retired, owner := 0, target := 0, shared := false, lease := false, stripe := 0 }
  s.updSeed fun d => if bankKey f b ∈ d.retiredBanks then d else { d with retiredBanks := d.retiredBanks ++ [bankKey f b] }

/-- A bank that has passed its test: zero-filled, FREE, out of the retirement map (R263, R268). -/
def State.passBank (s : State) (f : Fin 4) (b : Fin 32) : State :=
  let s := (s.zeroBank f b).updBank f b fun B =>
    { B with st := .free, owner := 0, target := 0, shared := false, lease := false, stripe := 0, gleanQ := [] }
  s.updSeed fun d => { d with retiredBanks := d.retiredBanks.filter (· ≠ bankKey f b) }

/-- Failing rows in the Ledger, up to the 8 that the Harrow records (R263, R385). -/
def State.logRows (s : State) (f : Fin 4) (b : Fin 32) (failing : List Nat) : State :=
  (failing.take 8).foldl (fun (s : State) (r : Nat) => s.log 4 4 (some f) b.val (nw r) 0) s

/-- Rows that a bank's pending-repair list names (R266). -/
def State.flaggedRows (s : State) (f : Fin 4) (b : Fin 32) : List Nat :=
  (s.seed.pendingRows.filter fun e => e.1 == bankKey f b).map Prod.snd

/-- Flagged rows remapped first; with more of them than spares the bank becomes RETIRED and its list is cleared (R264, R266). The answer
is whether the spares sufficed. -/
def State.remapFlagged (s : State) (f : Fin 4) (b : Fin 32) : State × Bool :=
  let rows := s.flaggedRows f b
  if (s.fields[f].banks[b].freeSpares).length < rows.length then
    ((s.retireBank f b).updSeed fun d => { d with pendingRows := d.pendingRows.filter fun e => e.1 != bankKey f b }, false)
  else (rows.foldl (fun (s : State) (r : Nat) => s.remapRow f b r) s, true)

/-- A destructive test of a bank with its repair (R263, R264): the failing rows of the first run, and whether the run after the repair
fails. The answer is whether the bank is FREE. -/
def State.destructiveTest (s : State) (f : Fin 4) (b : Fin 32) (failing : List Nat) (again : Bool) : State × Bool :=
  if failing.isEmpty then (s.passBank f b, true)
  else
    let s := (s.logRows f b failing).badSpares f b failing
    let B := s.fields[f].banks[b]
    let rows := B.needy failing
    if B.freeSpares.length < rows.length then (s.retireBank f b, false)
    else
      let s := rows.foldl (fun (s : State) (r : Nat) => s.remapRow f b r) s
      if again then (s.retireBank f b, false) else (s.passBank f b, true)

/-- First failing physical row of a test; all ones on a pass (R261). -/
def firstFailing (failing : List Nat) : Word :=
  match failing with
  | [] => 0xFFFFFFFF
  | r :: l => nw (l.foldl min r)

/-- The start test of a Field at cold reset (R264): flagged rows are remapped, those of a RETIRED bank too, then every bank that is not
RETIRED is tested. -/
def State.startTest (s : State) (f : Fin 4) (defects : List (Nat × List Nat)) : State :=
  (allFin 32).foldl (fun (s : State) (b : Fin 32) =>
      let gone := s.fields[f].banks[b].st == .retired
      let r := s.remapFlagged f b
      if r.2 && !gone then
        let found := (defects.filter fun e => e.1 == bankKey f b).map Prod.snd
        (r.1.destructiveTest f b (found.getD 0 []) !(found.getD 1 []).isEmpty).1
      else r.1) s

end Sys2Proof.Machine
end

