-- ==== Sys2Proof/Machine/Flags.lean ====
section
/-! DEFINITION. Flag computations and the scalar arithmetic of R146-R150, R159, R160, and the conditions
of R139. -/

namespace Sys2Proof.Machine

/-- A result with the flags it sets; none leaves a flag unchanged (R146). -/
structure Alu where
  val : Word
  c : Option Bool
  z : Option Bool
  n : Option Bool
  v : Option Bool
  deriving DecidableEq, Repr

/-- PSW with the flags of a result written: C, Z, N, V in bits 0-3 (R104, R146). -/
def setFlags (psw : Word) (r : Alu) : Word :=
  let put (w : Word) (i : Nat) (o : Option Bool) : Word :=
    match o with
    | none => w
    | some b => insertBits w i (bit 1 b)
  put (put (put (put psw 0 r.c) 1 r.z) 2 r.n) 3 r.v

def pswC (p : Word) : Bool := p.getLsbD 0
def pswZ (p : Word) : Bool := p.getLsbD 1
def pswN (p : Word) : Bool := p.getLsbD 2
def pswV (p : Word) : Bool := p.getLsbD 3

/-- A result that sets Z and N only (R146). -/
def aluZN (v : Word) : Alu :=
  { val := v, c := none, z := some (v == 0), n := some v.msb, v := none }

/-- ADD-type: a + b + cin; C the carry out of bit 31, V signed overflow (R146). -/
def aluAdd (a b : Word) (cin : Bool) : Alu :=
  let r := a + b + bit 32 cin
  { val := r, c := some (decide (2 ^ 32 ≤ a.toNat + b.toNat + cin.toNat)), z := some (r == 0),
    n := some r.msb, v := some (decide (r.toInt ≠ a.toInt + b.toInt + cin.toNat)) }

/-- SUB-type: a - b - bin; C is 1 when no borrow occurs (R146). -/
def aluSub (a b : Word) (bin : Bool) : Alu :=
  let r := a - b - bit 32 bin
  { val := r, c := some (decide (b.toNat + bin.toNat ≤ a.toNat)), z := some (r == 0), n := some r.msb,
    v := some (decide (r.toInt ≠ a.toInt - b.toInt - bin.toNat)) }

/-- MUL: low 32 bits (R148). -/
def aluMul (a b : Word) : Alu := aluZN (a * b)

/-- MULH: high 32 bits of the signed product (R148). -/
def aluMulh (a b : Word) : Alu := aluZN (BitVec.ofInt 32 ((a.toInt * b.toInt) / 2 ^ 32))

/-- MULHU: high 32 bits of the unsigned product (R148). -/
def aluMulhu (a b : Word) : Alu := aluZN (BitVec.ofNat 32 ((a.toNat * b.toNat) / 2 ^ 32))

/-- Whether the operands are those of the signed-division overflow (R149). -/
def divOverflow (a b : Word) : Bool := a == 0x80000000#32 && b == 0xFFFFFFFF#32

/-- DIV of operands with a divisor other than 0 (R148, R149). -/
def aluDiv (a b : Word) : Alu :=
  { aluZN (BitVec.ofInt 32 (a.toInt.tdiv b.toInt)) with v := some (divOverflow a b) }

/-- DIVU of operands with a divisor other than 0 (R148). -/
def aluDivu (a b : Word) : Alu := aluZN (BitVec.ofNat 32 (a.toNat / b.toNat))

/-- REM of operands with a divisor other than 0 (R148, R149). -/
def aluRem (a b : Word) : Alu :=
  { aluZN (BitVec.ofInt 32 (a.toInt.tmod b.toInt)) with v := some (divOverflow a b) }

/-- REMU of operands with a divisor other than 0 (R148). -/
def aluRemu (a b : Word) : Alu := aluZN (BitVec.ofNat 32 (a.toNat % b.toNat))

/-- C of a shift: unchanged for a count of 0 (R149). -/
def shiftC (n : Nat) (b : Bool) : Option Bool := if n = 0 then none else some b

/-- SHL by a count of 0 to 31; C the last bit shifted out (R148, R149). -/
def aluShl (a : Word) (n : Nat) : Alu := { aluZN (a <<< n) with c := shiftC n (a.getLsbD (32 - n)) }

/-- SHR by a count of 0 to 31 (R148, R149). -/
def aluShr (a : Word) (n : Nat) : Alu := { aluZN (a >>> n) with c := shiftC n (a.getLsbD (n - 1)) }

/-- SAR by a count of 0 to 31 (R148, R149). -/
def aluSar (a : Word) (n : Nat) : Alu :=
  { aluZN (a.sshiftRight n) with c := shiftC n (a.getLsbD (n - 1)) }

/-- ROR by a count of 0 to 31; C the new bit 31 (R148, R149). -/
def aluRor (a : Word) (n : Nat) : Alu :=
  { aluZN (a.rotateRight n) with c := shiftC n (a.rotateRight n).msb }

/-- NEG: V for 0x80000000 only (R160). -/
def aluNeg (a : Word) : Alu := { aluZN (-a) with v := some (a == 0x80000000#32) }

/-- ABS (R160). -/
def aluAbs (a : Word) : Alu :=
  { aluZN (if a.msb then -a else a) with v := some (a == 0x80000000#32) }

/-- Leading zeros among the low k bits of a, from bit k - 1 down. -/
def clzFrom (a : Word) : Nat → Nat
  | 0 => 0
  | k + 1 => if a.getLsbD k then 0 else clzFrom a k + 1

/-- CLZ: 32 for 0 (R159). -/
def aluClz (a : Word) : Alu := aluZN (nw (clzFrom a 32))

/-- BSWAP (R159). -/
def aluBswap (a : Word) : Alu := aluZN (bits a 0 8 ++ bits a 8 8 ++ bits a 16 8 ++ bits a 24 8)

/-- Condition code on the flags of PSW (R139). -/
def condHolds (code : BitVec 4) (p : Word) : Bool :=
  match code.toNat with
  | 0 => pswZ p
  | 1 => !pswZ p
  | 2 => pswC p
  | 3 => !pswC p
  | 4 => pswN p
  | 5 => !pswN p
  | 6 => pswV p
  | 7 => !pswV p
  | 8 => pswC p && !pswZ p
  | 9 => !pswC p || pswZ p
  | 10 => pswN p == pswV p
  | 11 => pswN p != pswV p
  | 12 => !pswZ p && pswN p == pswV p
  | 13 => pswZ p || pswN p != pswV p
  | 14 => true
  | _ => false

end Sys2Proof.Machine
end

