-- ==== Sys2Proof/Machine/Events.lean ====
section
/-! DEFINITION. What an engine may take at a boundary, in its order: interrupts, reports, halts, QUIESCE, switches (R79, R155,
R196-R200). -/

namespace Sys2Proof.Machine

/-- PSW.ML, PRIV, CSEL (R104). -/
def pswMl (p : Word) : Nat := fieldN p 8 3
def pswPriv (p : Word) : Bool := p.getLsbD 15
def pswCsel (p : Word) : BitVec 3 := p.extractLsb' 16 3

/-- Whether a descriptor of a level is masked (R196). -/
def masked (level : BitVec 3) (psw : Word) : Bool := decide (level.toNat ≤ pswMl psw)

/-- Interrupt sources that are pending, armed and unmasked (R196, R197). -/
def State.irqs (s : State) (F : Furrow) : List (Fin 12) :=
  let src := s.sources F
  (allFin 12).filter fun k =>
    src.getLsbD k.val && F.ctx.irqArm.getLsbD k.val && !masked F.ctx.irqLvl[k] F.ctx.psw

/-- The interrupt to take: higher LEVEL first, then lower vector (R199). -/
def State.irqNext (s : State) (F : Furrow) : Option (Fin 12) :=
  (s.irqs F).foldl (fun b k =>
    match b with
    | none => some k
    | some j => if F.ctx.irqLvl[j] < F.ctx.irqLvl[k] then some k else some j) none

/-- The interrupt due at this boundary; none while sampling is suppressed (R199, R200). -/
def State.irqDue (s : State) (F : Furrow) : Option (Fin 12) :=
  if F.ctx.nosample then none else s.irqNext F

/-- The report that an MBAR in its wait raises as a fault (R207). -/
def Furrow.mbarFault (F : Furrow) : Option Rep8 := if F.mbar then F.ctx.rep8 else none

/-- Whether a vector-8 report is due at this boundary (R199, R200); one that an MBAR in its wait raises is none (R207). -/
def Furrow.repDue (F : Furrow) : Bool :=
  F.ctx.rep8.isSome && !F.mbar && !masked F.ctx.lvl8 F.ctx.psw && !F.ctx.nosample

/-- Whether a fault of a waiting MBAR, an interrupt or a report is due at the boundary of the furrow on an engine; a step without STEPINT
takes no interrupt (R199 orders 1 to 3, R207, R456). -/
def State.takesFirst (s : State) (g : Fin 96) : Bool :=
  match s.engines[g].cur.bind s.furrow? with
  | some F =>
    F.st == .running && F.engine == some g &&
      (F.mbarFault.isSome || ((!s.engines[g].ctl.stepping || s.engines[g].ctl.stepInt) && (s.irqDue F).isSome) || F.repDue)
  | none => false

/-- Whether an engine stands at a boundary where a debug halt may be taken (R199 order 4). -/
def State.haltable (s : State) (g : Fin 96) : Bool := s.engines[g].atBoundary && !s.takesFirst g

/-- Whether an engine stands at a boundary where a QUIESCE may be taken: no earlier event is due (R199 order 5). -/
def State.quiesceable (s : State) (g : Fin 96) : Bool := s.haltable g && !s.engines[g].ctl.pend

/-- Whether the Sower has requested QUIESCE of the furrow on an engine (R95). -/
def State.quiesceAsked (s : State) (g : Fin 96) : Bool :=
  s.sower.migs.any fun m => some m.fid == s.engines[g].cur && m.st == .quiesce

/-- Whether an engine stands at a boundary where a furrow switch may be taken (R199 order 6). -/
def State.switchable (s : State) (g : Fin 96) : Bool := s.quiesceable g && !s.quiesceAsked g

/-- Whether a furrow is ready to run (R155): RUNNING, and not waiting, or with a source of its mask or an unmasked
interrupt pending. -/
def State.ready (s : State) (F : Furrow) : Bool :=
  F.st == .running &&
    match F.waitMask with
    | none => true
    | some m => s.sources F &&& m != 0 || (s.irqNext F).isSome

/-- Ready furrows of an engine in round-robin order (R79). -/
def State.readyOn (s : State) (g : Fin 96) : List Furrow :=
  (s.engines[g].order.filterMap s.furrow?).filter fun F => F.engine == some g && s.ready F

/-- The furrow that runs next: highest PRIORITY, then round-robin (R79). -/
def State.pickNext (s : State) (g : Fin 96) : Option Furrow :=
  (s.readyOn g).foldl (fun b F =>
    match b with
    | none => some F
    | some B => if B.desc.priority < F.desc.priority then some F else some B) none

/-- Whether a furrow switch is due (R79). -/
def State.switchDue (s : State) (g : Fin 96) : Bool :=
  let E := s.engines[g]
  match E.cur with
  | none => !(s.readyOn g).isEmpty
  | some fid =>
    match s.furrow? fid with
    | none => true
    | some F =>
      (!s.ready F && (!(s.readyOn g).isEmpty || F.st != .running || F.engine != some g)) || (s.readyOn g).any fun H =>
        H.id != fid && (F.desc.priority < H.desc.priority || (E.sliceUp && F.desc.priority ≤ H.desc.priority))

/-- Whether an event of R199 is pending for the furrow on an engine at an interruption point (R165, R167, R456). -/
def State.eventDue (s : State) (g : Fin 96) (F : Furrow) : Bool :=
  F.mbarFault.isSome || (s.irqDue F).isSome || F.repDue || s.engines[g].ctl.pend || s.engines[g].ctl.stepping ||
    (s.sower.migs.any fun m => m.fid == F.id && m.st == .quiesce) || s.switchDue g

end Sys2Proof.Machine
end

