-- ==== Sys2Proof/Machine/Halts.lean ====
section
/-! DEFINITION. Debug halts of engines, and what a halt does to a migration in QUIESCE (R95, R199, R451, R455, R456, R463). -/

namespace Sys2Proof.Machine

/-- A migration in QUIESCE aborts (R95): retried later, dropped with a record after 3 aborts. The furrow runs on; where it was to leave a
retiring engine it is lost (R100). -/
def State.quiesceAbort (s : State) (fid : Nat) : State :=
  match s.sower.migs.find? fun m => m.fid == fid && m.st == .quiesce with
  | none => s
  | some m =>
    let s := s.updFurrow fid fun F => { F with st := m.was }
    if 3 ≤ m.aborts + 1 then
      let s := (s.endMig fid).log 2 2 (some (fieldOf m.src)) fid 0 0
      if m.why = forRetire then s.loseFurrow fid 3 none else s
    else
      s.updSower fun W =>
        { W with migs := updWhere (fun m => m.fid == fid) (fun m => { m with st := .prepare, aborts := m.aborts + 1 }) W.migs }

/-- An engine halts at a boundary: the hold breaks, a QUIESCE aborts, freezes apply (R455, R463). -/
def State.haltOne (s : State) (g : Fin 96) (cause : BitVec 5) : State :=
  let s := s.breakHold g
  let s := s.updEngine g fun E =>
    { E with
      st := .halted
      ctl := { E.ctl with pend := false, cause := cause, stepping := false } }
  let s := s.emitHalt g (s.onEngine g) (s.ctxOn g) cause false
  let s := match s.engines[g].cur with
    | some fid => s.quiesceAbort fid
    | none => s
  s.applyFreeze (fieldOf g)

/-- A halt request of an engine: at once where it stands at a boundary with no earlier event due, else pending (R199, R455). -/
def State.askHalt (s : State) (g : Fin 96) (cause : BitVec 5) : State :=
  if s.haltable g then s.haltOne g cause
  else s.updEngine g fun E => { E with ctl := { E.ctl with pend := true, cause := cause } }

/-- A halt of an engine, and under XHALT of every engine within write scope (R451, R455). -/
def State.halt (s : State) (g : Fin 96) (cause : BitVec 5) : State :=
  let s := s.haltOne g cause
  if s.dbg.xhalt then
    (allFin 96).foldl (fun t h =>
      if h ≠ g ∧ s.debugWrite.getLsbD (fieldOf h).val ∧ (s.engines[h].st = .awake ∨ s.engines[h].st = .doze) then t.askHalt h 3 else t) s
  else s

/-- A halt that is requested or due after a step, taken at a boundary after the events of earlier order (R199, R456). -/
def State.takeHalt (s : State) (g : Fin 96) : State :=
  let E := s.engines[g]
  if E.st ≠ .awake ∨ !s.haltable g then s
  else if E.ctl.stepping then s.halt g 2
  else if E.ctl.pend then s.halt g (if E.ctl.cause = 3 then 3 else 1)
  else s

end Sys2Proof.Machine
end

