-- ==== Sys2Proof/Machine/Exec.lean ====
section
/-! DEFINITION. A word in execution: what it works on, how it stops, and what stands at the boundary after it
(R119-R123, R140, R165, R199, R204; logs 5, 6, DEDUCED). -/

namespace Sys2Proof.Machine

/-- An access that has passed R110, for the watch units (R459). -/
structure Access where
  seg : BitVec 3
  off : Word
  len : Nat
  write : Bool
  deriving DecidableEq, Repr

/-- Why a word does not complete: a fault; fabric data it waits for; a stall, in which it tries again; an MBAR that waits (`again`); a fetch
from a bank on its way to the engine (`held`); an interruption point that takes an event; an EVWAIT that waits; a halt; Stuck; a
customer routine at its watchdog's limit. -/
inductive Stop where
  | fault (e : EngFault)
  | wait (addr : DWord) (len : Nat)
  | room
  | again
  | held
  | pause
  | evwait (mask : BitVec 16)
  | halt (cause : BitVec 5)
  | stuck (code : Fin 8)
  | over
  deriving DecidableEq, Repr

/-- A word in execution. `orig` is the context at the boundary before it, `c` the registers as the word sees and writes
them, `ld` its load under the load delay (register code and value), `keep` that what it has committed stands, `eoi` that its routine ends
with EOI, `found` the Plot words read with an error. -/
structure Ex where
  st : State
  g : Fin 96
  F : Furrow
  orig : Ctx
  c : Ctx
  sh : Sheaf
  ld : Option (BitVec 2 × Word)
  slotB : Bool
  jump : Bool
  retx : Bool
  nosample : Bool
  keep : Bool
  trap : Option EngFault
  yields : Bool
  eoi : Bool
  found : List (Nat × Bool)
  acc : List Access
  data : List (DWord × Reply)
  deriving DecidableEq, Repr

/-- A step of a word. -/
abbrev M := EStateM Stop Ex

/-- Register of a two-bit code: A, X, Y, SP (R104 LDD, R159). -/
def Ctx.reg (c : Ctx) (r : BitVec 2) : Word :=
  match r.toNat with
  | 0 => c.a
  | 1 => c.x
  | 2 => c.y
  | _ => c.sp

/-- A register written. -/
def Ctx.setReg (c : Ctx) (r : BitVec 2) (v : Word) : Ctx :=
  match r.toNat with
  | 0 => { c with a := v }
  | 1 => { c with x := v }
  | 2 => { c with y := v }
  | _ => { c with sp := v }

/-- LDP and LDD (R104). -/
def pswLdp (p : Word) : Bool := p.getLsbD 4
def pswLdd (p : Word) : BitVec 2 := p.extractLsb' 12 2

/-- LDP and LDD written. -/
def setLd (p : Word) (ldp : Bool) (ldd : BitVec 2) : Word := insertBits (insertBits p 4 (bit 1 ldp)) 12 ldd

/-- The registers that the next word reads: the old value of a pending load's destination (R120, R123). -/
def Ctx.view (c : Ctx) : Ctx := if pswLdp c.psw then c.setReg (pswLdd c.psw) c.ldv else c

/-- The registers after a word, when the load pending before it has landed (R121) and its own load is pending (R123). -/
def Ctx.land (orig after : Ctx) (ld : Option (BitVec 2 × Word)) : Ctx :=
  let c := if pswLdp orig.psw then after.setReg (pswLdd orig.psw) (orig.reg (pswLdd orig.psw)) else after
  match ld with
  | none => { c with psw := setLd c.psw false 0, ldv := 0 }
  | some (r, v) => { c.setReg r v with psw := setLd c.psw true r, ldv := c.reg r }

/-- The registers at an interruption point: a pending load stays pending (R170). -/
def Ctx.hold (orig after : Ctx) : Ctx :=
  if pswLdp orig.psw then after.setReg (pswLdd orig.psw) (orig.reg (pswLdd orig.psw)) else after

/-- A word about to execute. -/
def enter (s : State) (g : Fin 96) (F : Furrow) : Ex :=
  { st := s, g := g, F := F, orig := F.ctx, c := F.ctx.view, sh := s.engines[g].sheaf, ld := none,
    slotB := false, jump := false, retx := false, nosample := false, keep := false, trap := none,
    yields := false, eoi := false, found := [], acc := [], data := s.engines[g].data }

/-! Elementary steps -/

/-- Vectors whose cause word carries SEG (R203). -/
def carriesSeg (v : Nat) : Bool := v ∈ [3, 4, 5, 7, 8, 10, 13, 15]

/-- A fault of the word (R203). -/
def mkFault (x : Ex) (v : Nat) (addr : Word) (seg : BitVec 3) (fetch write : Bool) (detail : BitVec 16) : EngFault :=
  { vector := BitVec.ofNat 6 v, pc := x.orig.pc, addr := addr, slot := x.slotB,
    seg := if carriesSeg v then seg else 0, fetch := fetch, write := write, more := 0, detail := detail }

/-- The word raises a vector with no fault address. -/
def raiseV {α : Type} (v : Nat) (detail : BitVec 16 := 0) : M α := fun x =>
  .error (.fault (mkFault x v 0 0 false false detail)) x

/-- The word raises a vector at a segment offset. -/
def raiseAt {α : Type} (v : Nat) (seg : BitVec 3) (off : Word) (write : Bool) (detail : BitVec 16 := 0)
    (fetch : Bool := false) : M α := fun x =>
  .error (.fault (mkFault x v off seg fetch write detail)) x

/-- Registers rewritten. -/
def modC (f : Ctx → Ctx) : M Unit := fun x => .ok () { x with c := f x.c }

/-- The machine rewritten. -/
def modS (f : State → State) : M Unit := fun x => .ok () { x with st := f x.st }

/-- Sheaf state rewritten; the save area no longer holds it (R179). -/
def modSh (f : Sheaf → Sheaf) : M Unit := fun x => .ok () { x with sh := { f x.sh with dirty := true } }

/-- The registers. -/
def getC : M Ctx := fun x => .ok x.c x

/-- The word in execution. -/
def getX : M Ex := fun x => .ok x x

/-- A checked unit is used: a pending mismatch of the unit raises vector 9 (R145, R425; log 15, DESIGN CHOICE). -/
def useUnit (u : Nat) : M Unit := fun x =>
  match x.st.engines[x.g].mismatch with
  | some (k, lane) =>
    if k.toNat = u then
      let l : BitVec 4 := if 4 ≤ u ∧ u ≤ 6 then lane else 0
      .error (.fault (mkFault x 9 0 0 false false ((l ++ k : BitVec 12).setWidth 16))) x
    else .ok () x
  | none => .ok () x

/-- Steps that take effect whole or not at all; what their readers found stands (R166, R259). -/
def whole {α : Type} (m : M α) : M α := fun x =>
  match m x with
  | .ok a y => .ok a y
  | .error e y => .error e { x with found := y.found }

/-- A free value (log 9, DESIGN CHOICE). -/
def freeM (w : Nat) : M (BitVec w) := fun x => .ok (x.st.fresh w).1 { x with st := (x.st.fresh w).2 }

/-- n free bytes (log 9, DESIGN CHOICE). -/
def freeBytesM (n : Nat) : M (List Byte) := do
  let r ← freeM (8 * n)
  pure ((List.range n).map fun i => bits r (8 * i) 8)

/-- A load under the load delay (R120). -/
def setLoad (r : BitVec 2) (v : Word) : M Unit := fun x => .ok () { x with ld := some (r, v) }

/-- A control transfer to an offset (R143). -/
def jumpTo (pc : Word) : M Unit := fun x => .ok () { x with jump := true, c := { x.c with pc := pc } }

/-- Predicate i; P0 reads 1 (R102). -/
def Ctx.pred (c : Ctx) (i : Fin 8) : Bool := i.val == 0 || c.p.getLsbD i.val

/-- Predicate i written; a write of P0 is ignored (R150). -/
def Ctx.setPred (c : Ctx) (i : Fin 8) (b : Bool) : Ctx :=
  if i.val = 0 then c else { c with p := insertBits c.p i.val (bit 1 b) }

/-- Predicate image: P1-P7 in [7:1] (R125). -/
def Ctx.predImage (c : Ctx) : Word := (c.p &&& 0xFE#8).setWidth 32

/-- P1-P7 from an image. -/
def Ctx.setPreds (c : Ctx) (w : Word) : Ctx := { c with p := w.extractLsb' 0 8 &&& 0xFE#8 }

/-- Flags of a result written (R146). -/
def Ctx.flags (c : Ctx) (r : Alu) : Ctx := { c with psw := setFlags c.psw r }

/-! The boundary after a word -/

/-- What readers of Plot found during the word is noted whatever became of it, each 128-bit word once (R259, R491). -/
def State.noteFound (s : State) (f : Fin 4) (l : List (Nat × Bool)) : State :=
  ((l.map fun e => e.1 / 16 * 16).eraseDups).foldl (fun s a => (s.noteRead f a 1).1) s

/-- Break or watch unit u of a Field (R458). -/
def bwKind (w : Word) : Nat := fieldN w 0 2
def bwAcc (w : Word) : Nat := fieldN w 2 2
def bwSeg (w : Word) : BitVec 3 := w.extractLsb' 4 3
def bwAction (w : Word) : Nat := fieldN w 7 2
def bwLink (w : Word) : Nat := fieldN w 9 2

/-- Whether a unit applies to an engine and a furrow (R458). -/
def BwUnit.applies (u : BwUnit) (e : Fin 24) (fid : Nat) : Bool :=
  u.eng.getLsbD e.val && (!u.ctl.getLsbD 11 || fieldN u.ctl 12 12 == fid)

/-- Whether a break unit's condition holds at a word (R459). -/
def BwUnit.breakHit (u : BwUnit) (e : Fin 24) (fid : Nat) (c : Ctx) : Bool :=
  bwKind u.ctl == 1 && u.applies e fid && bwSeg u.ctl == pswCsel c.psw && decide (u.lo ≤ c.pc ∧ c.pc ≤ u.hi)

/-- Whether a watch unit's condition holds for an access (R459). -/
def BwUnit.watchHit (u : BwUnit) (e : Fin 24) (fid : Nat) (a : Access) : Bool :=
  bwKind u.ctl == 2 && u.applies e fid && bwSeg u.ctl == a.seg &&
    (if a.write then (bwAcc u.ctl == 2 || bwAcc u.ctl == 3) else (bwAcc u.ctl == 1 || bwAcc u.ctl == 3)) &&
    decide (u.lo.toNat < a.off.toNat + a.len ∧ a.off.toNat ≤ u.hi.toNat)

/-- Units of a Field that match, after LINK: a pair under AND acts in its lower unit; a unit after its partner acts when
armed (R460). The second list names the units to arm, the third those whose ARMED clears. -/
def linkMatches (v : Vector BwUnit 8) (hit : Fin 8 → Bool) : List (Fin 8) × List (Fin 8) × List (Fin 8) :=
  let partner (u : Fin 8) : Fin 8 := ⟨(u.val ^^^ 1) % 8, by omega⟩
  let acts := (allFin 8).filter fun u =>
    hit u && (match bwLink v[u].ctl with
      | 1 => hit (partner u) && (bwLink v[partner u].ctl != 1 || decide (u.val < (partner u).val))
      | 2 => v[u].armed
      | _ => true)
  let arm := (allFin 8).filter fun u => bwLink v[u].ctl == 2 && hit (partner u)
  let disarm := (allFin 8).filter fun u => hit u && bwLink v[u].ctl == 2 && v[u].armed
  (acts, arm, disarm)

/-- HITS and ARMED after a match (R458, R460). -/
def State.noteUnits (s : State) (f : Fin 4) (r : List (Fin 8) × List (Fin 8) × List (Fin 8)) : State :=
  s.updField f fun F =>
    { F with units := vmap (fun u b =>
        { b with
          hits := if u ∈ r.1 then b.hits + 1 else b.hits
          armed := (b.armed && !(decide (u ∈ r.2.2))) || decide (u ∈ r.2.1) }) F.units }

/-- LEVEL of descriptor 12 as it stands in the furrow's table; none where it cannot be read (R193, R460). -/
def State.level12 (s : State) (F : Furrow) : Option (BitVec 3) :=
  match F.home, F.plotAddr (fieldN F.ctx.excBase 0 4) (fieldN F.ctx.excBase 10 12 * 1024) with
  | some f, some a => some ((s.plotWord f (a + 16 * 12 + 4)).extractLsb' 8 3)
  | _, _ => none

/-- Vector 12 of a unit (R459). -/
def unitFault (pc : Word) : EngFault :=
  { vector := 12, pc := pc, addr := 0, slot := false, seg := 0, fetch := false, write := false, more := 0,
    detail := 0 }

/-- The action of the lowest matching unit that halts or raises: halt with CAUSE 8 + u, vector 12, or trace (R459, R460). -/
def State.unitAct (s : State) (g : Fin 96) (fid : Nat) (c : Ctx) (pc : Word) (u : Fin 8) (watch : Option Access) : State :=
  let U := s.fields[fieldOf g].units[u]
  match bwAction U.ctl with
  | 0 =>
    if s.engines[g].st = .awake ∧ s.debugWrite.getLsbD (fieldOf g).val then s.halt g (BitVec.ofNat 5 (8 + u.val)) else s
  | 1 =>
    match s.furrow? fid with
    | some F =>
      match s.level12 F with
      | some l =>
        if masked l c.psw then s
        else s.updEngine g fun E => if E.phase.canIssue then { E with phase := .faulted (unitFault pc) } else E
      | none => s.updEngine g fun E => if E.phase.canIssue then { E with phase := .faulted (unitFault pc) } else E
    | none => s
  | 2 =>
    match watch with
    | none => s.emitFurrow g fid c (packet 5 g.val fid pc [])
    | some a =>
      if s.dbg.trcCtl.getLsbD 6 then
        let w1 : DWord :=
          (BitVec.ofNat 3 u.val ++ 1#1 ++ BitVec.ofNat 2 (Nat.log2 (min a.len 4)) ++ bit 1 a.write ++ a.seg :
            BitVec 10).setWidth 64
        s.emitFurrow g fid c (packet 3 g.val fid a.off [w1, 0])
      else s
  | _ => s

/-- Watch units after a word, with its accesses (R459, R460). -/
def State.watch (s : State) (g : Fin 96) (fid : Nat) (c : Ctx) (pc : Word) (l : List Access) : State :=
  let v := s.fields[fieldOf g].units
  let hit (u : Fin 8) : Bool := l.any fun a => v[u].watchHit (localOf g) fid a
  if (allFin 8).any hit then
    let r := linkMatches v hit
    let s := s.noteUnits (fieldOf g) r
    r.1.foldl (fun s u => s.unitAct g fid c pc u (l.find? fun a => v[u].watchHit (localOf g) fid a)) s
  else s

/-- The engine enters Stuck (R212): it issues nothing more, and the Sower retires it with a code of R99. -/
def State.stick (s : State) (g : Fin 96) (code : Fin 8) : State :=
  let stood := (s.engines[g].cur.bind s.furrow?).map fun F => (F.id, F.ctx)
  s.updEngine g fun E => { E with st := .stuck, phase := .ready, data := [], micro := none, retireDue := some code, stood := stood }

/-- The FETCH entry after a boundary that takes no event (R216, R217). -/
def State.fetchEntry (s : State) (g : Fin 96) (fid : Nat) : State :=
  match s.furrow? fid with
  | none => s
  | some F =>
    if s.engines[g].st ≠ .awake ∨ s.engines[g].phase ≠ .ready ∨ s.eventDue g F then s
    else
      match s.csFetch g 0x10 with
      | none => s.stick g 3
      | some s => s

/-- Whether an event of R199 is pending at an interruption point (R167, R234). -/
def Ex.eventDue (x : Ex) : Bool :=
  x.st.eventDue x.g { x.F with ctx := { x.c with pc := x.orig.pc, nosample := false } }

/-- A word has completed (R119-R123, R140). -/
def Ex.commit (x : Ex) : State :=
  let c := if x.jump then x.c else { x.c with pc := x.orig.pc + 4 }
  let c := if x.retx then c else Ctx.land x.orig c x.ld
  let c := { c with nosample := x.nosample }
  let fid := x.F.id
  let s := x.st.updFurrow fid fun F => { F with ctx := c, waitMask := none, mbar := false }
  let s := s.updEngine x.g fun E =>
    { E with
      sheaf := x.sh, data := [], beat := true, micro := none, traceWords := E.traceWords + 1
      phase := match x.trap with
        | some e => .faulted e
        | none => .ready
      sliceUp := E.sliceUp || x.yields
      order := if x.yields then E.order.filter (· ≠ fid) ++ [fid] else E.order
      ctl := { E.ctl with skipBreak := false } }
  let s := (s.noteFound (fieldOf x.g) x.found).count 2 (x.g.val * 9 + 2) 1
  let s := if x.jump then s.emitFlow x.g fid c 0 false x.retx else s
  let s := s.watch x.g fid c c.pc x.acc
  let s := s.takeHalt x.g
  if x.eoi then s.fetchEntry x.g fid else s

/-- Progress of a long instruction stands in PROG, and its PC stays at it (R165, R170). -/
def Ex.partial_ (x : Ex) (p : Phase) : State :=
  let c := { Ctx.hold x.orig x.c with pc := x.orig.pc, nosample := false }
  let s := x.st.updFurrow x.F.id fun F => { F with ctx := c }
  let s := s.updEngine x.g fun E =>
    { E with sheaf := x.sh, data := x.data, beat := true, phase := p, ctl := { E.ctl with skipBreak := false } }
  let s := s.noteFound (fieldOf x.g) x.found
  s.watch x.g x.F.id c c.pc x.acc

/-- Units checked by two compared copies (R99, R425). -/
def copyUnit (u : Nat) : Bool := u = 3 ∨ u = 5 ∨ u = 6

/-- An engine counts a check mismatch, and the fault that reports it consumes it (R427). A copy mismatch retires the engine
at once, residue mismatches at 2 in 24 h (R99). -/
def State.noteMismatch (s : State) (g : Fin 96) (e : EngFault) : State :=
  if e.vector = 9 then
    let times := (s.engines[g].resid.filter fun t => decide (s.since t < dayNs)) ++ [s.now]
    let due : Option (Fin 8) :=
      if copyUnit (fieldN e.detail 0 8) then some 2 else if 2 ≤ times.length then some 4 else none
    (s.updEngine g fun E =>
      { E with
        mismatch := none
        resid := if copyUnit (fieldN e.detail 0 8) then E.resid else times
        retireDue := if E.retireDue.isSome then E.retireDue else due }).count 2 (g.val * 9 + 5) 1
  else s

/-- A faulting word: nothing of it commits but what its readers found (R204); a long instruction keeps the elements done (R166). -/
def Ex.faulted (x : Ex) (s0 : State) (e : EngFault) : State :=
  let s :=
    if x.keep then (x.partial_ (.faulted e)).updEngine x.g fun E => { E with data := [], micro := none }
    else
      (s0.noteFound (fieldOf x.g) x.found).updEngine x.g fun E =>
        { E with phase := .faulted e, data := [], micro := none, beat := true, ctl := { E.ctl with skipBreak := false } }
  s.noteMismatch x.g e

/-- The boundary at which a wait leaves the furrow: events are sampled again at it (R155, R200, R207). -/
def State.waiting (s : State) (g : Fin 96) (fid : Nat) (h : Furrow → Furrow) : State :=
  let s := s.updFurrow fid fun F => h { F with ctx := { F.ctx with nosample := false } }
  (s.updEngine g fun E => { E with beat := true, phase := .ready, ctl := { E.ctl with skipBreak := false } }).takeHalt g

/-- What a stop leaves. `word` is the word to run again when fabric data or room has come (log 6, DEDUCED). -/
def Ex.stopped (x : Ex) (s0 : State) (word : Word) (e : Stop) : State :=
  let f := fieldOf x.g
  let rest (p : Phase) : State :=
    if x.keep then x.partial_ p else s0.updEngine x.g fun E => { E with phase := p }
  match e with
  | .fault e => x.faulted s0 e
  | .wait a n =>
    let s := rest (.stalled word)
    match s.issueTxn f (engineIds (localOf x.g)) false a n [] (.engineLoad x.g) with
    | some (i, t) => t.updEngine x.g fun E => { E with phase := .waitFabric word i }
    | none => s
  | .room => rest (.stalled word)
  | .again => s0.waiting x.g x.F.id fun F => { F with mbar := true }
  | .held => s0
  | .halt c => s0.halt x.g c
  | .pause => ((x.partial_ .ready).updEngine x.g fun E => { E with data := [], micro := none }).takeHalt x.g
  | .evwait m => s0.waiting x.g x.F.id fun F => { F with waitMask := some m }
  | .stuck k => (if x.keep then x.partial_ .ready else s0).stick x.g k
  | .over =>
    (if x.keep then x.partial_ .ready else s0).updEngine x.g fun E => { E with phase := .customerOver x.orig.pc, micro := none }

/-- Run a word: its steps, then what the boundary leaves. -/
def runM (s : State) (g : Fin 96) (F : Furrow) (word : Word) (m : M Unit) : State :=
  match m { enter s g F with eoi := !s.engines[g].csErr.isEmpty && Config.endsEoi word } with
  | .ok _ x => x.commit
  | .error e x => x.stopped s word e

end Sys2Proof.Machine
end

