-- ==== Sys2Proof/Machine/Local.lean ====
section
/-! DEFINITION. Engine-local registers (R112, R115, R116, R195, R242, R310, R346, R361). -/

namespace Sys2Proof.Machine

/-- One descriptor word (R193). -/
def tableAddr (excBase : Word) (v w : Nat) : Nat := fieldN excBase 10 12 * 1024 + 16 * v + 4 * w

/-- Why a descriptor table cannot be read: its extent, its length, an owner or an uncorrectable word of the descriptors read
(R193). -/
def State.tableFault (s : State) (g : Fin 96) (F : Furrow) (excBase : Word) (vs : List Nat) : Option Nat :=
  match F.extents[fieldN excBase 0 4]? with
  | none => some 4
  | some e =>
    if e.len < fieldN excBase 10 12 * 1024 + 1024 then some 3
    else
      let f := fieldOf g
      let owns (a : Nat) : Bool :=
        let b := s.fields[f].banks[bankOf a]
        b.st == .owned && b.owner == localOf g
      if vs.any fun v => !owns (e.base + tableAddr excBase v 0) then some 15
      else if vs.any fun v =>
          match s.eccAt f (e.base + tableAddr excBase v 0) with
          | some .uncorr => true
          | some .poison => true
          | _ => false then some 10
      else none

/-- The Plot words of the descriptors read, for the readers' findings (R193, R259). -/
def State.tableWords (_s : State) (F : Furrow) (excBase : Word) (vs : List Nat) : List (Nat × Bool) :=
  match F.extents[fieldN excBase 0 4]? with
  | some e => vs.map fun v => (e.base + tableAddr excBase v 0, false)
  | none => []

/-- Word w of descriptor v (R194). -/
def State.descWord (s : State) (g : Fin 96) (F : Furrow) (excBase : Word) (v w : Nat) : Word :=
  match F.extents[fieldN excBase 0 4]? with
  | some e => s.plotWord (fieldOf g) (e.base + tableAddr excBase v w)
  | none => 0

/-- The copies of LEVEL and ARM after a write of EXC_BASE (R195). -/
def State.loadCopies (s : State) (g : Fin 96) (F : Furrow) (excBase : Word) (c : Ctx) : Ctx :=
  let w1 (v : Nat) : Word := s.descWord g F excBase v 1
  { c with
    excBase := excBase
    lvl8 := (w1 8).extractLsb' 8 3
    irqLvl := Vector.ofFn fun k : Fin 12 => (w1 (16 + k.val)).extractLsb' 8 3
    irqArm := (List.range 12).foldl (fun m k =>
      if (w1 (16 + k)).getLsbD 13 then m ||| (1#12 <<< k) else m) 0 }

/-- A post of four words enters the Field's status queue of 64 records (R346). -/
def State.postLine (s : State) (g : Fin 96) (fid : Nat) (v : Word) : State :=
  let p := s.engines[g].linePost
  s.updField (fieldOf g) fun F => { F with posts := F.posts ++ [[p[0], p[1], p[2], v, nw fid]] }

/-- Whether the status queue has room (R346). -/
def State.postRoom (s : State) (f : Fin 4) : Bool := decide (s.fields[f].posts.length < 64)

/-- A word read of an engine-local register. -/
def regRead (seg : BitVec 3) (segOff : Word) (off : Nat) : M Word := fun x =>
  let s := x.st
  let g := x.g
  let f := fieldOf g
  let deny := raiseAt (α := Word) 4 seg segOff false
  if off < 0x100 then
    match off with
    | 0x00 => .ok ((BitVec.ofNat 5 (localOf g).val ++ 0#0 ++ BitVec.ofNat 2 f.val ++ 0#1 ++
        BitVec.ofNat 7 g.val : BitVec 15).setWidth 32) x
    | 0x04 => .ok (nw x.F.id) x
    | 0x08 => .ok x.c.excBase x
    | 0x0C => .ok (s.engines[g].hdlSp.setWidth 32) x
    | 0x10 => .ok (bits s.now 0 32) { x with c := { x.c with timeSample := s.now } }
    | 0x14 => .ok (bits x.c.timeSample 32 32) x
    | 0x18 => .ok (x.c.storeSeq.setWidth 32) x
    | 0x1C => .ok (nw (s.engines[g].load % 1024)) x
    | 0x20 =>
      match s.engines[g].hold with
      | none => .ok 0 x
      | some b =>
        let r := s.fresh 7
        .ok (nw (1 + 2 * b.val + 256 * (r.1.toNat % 65))) { x with st := r.2 }
    | 0x30 => .ok (s.csVer f 0) x
    | 0x34 => .ok (s.csVer f 1) x
    | 0x38 => .ok (s.csVer f 2) x
    | 0x3C => .ok (s.csVer f 3) x
    | _ => .ok 0 x
  else if off < 0x300 then
    let d : Fin 16 := ⟨(off - 0x100) / 32 % 16, by omega⟩
    let r := (off - 0x100) % 32
    let D := s.fields[f].drills[d]
    if !x.F.desc.drills.getLsbD d.val || (D.feedOn && r < 8) then deny x
    else if r = 0 then
      let p := D.popRx
      .ok p.1 { x with st := s.updDrill f d fun _ => p.2 }
    else .ok (s.drillWord f d r) x
  else if 0x400 ≤ off ∧ off < 0x800 then
    let n : Fin 32 := ⟨(off - 0x400) / 32 % 32, by omega⟩
    let r := (off - 0x400) % 32
    if s.almanac.timers[n].owner ≠ some (some x.F.id) then deny x
    else
      .ok (timerWord s.almanac.timers n r)
        { x with st := s.updAlm fun A => { A with timers := timerRead A.timers n r } }
  else .ok 0 x

/-- A word write of an engine-local register. -/
def regWrite (seg : BitVec 3) (segOff : Word) (off : Nat) (v : Word) : M Unit := fun x =>
  let s := x.st
  let g := x.g
  let f := fieldOf g
  let deny := raiseAt (α := Unit) 4 seg segOff true
  let put (t : State) : EStateM.Result Stop Ex Unit := .ok () { x with st := t }
  if off = 0x08 then
    let b := v &&& 0x003FFC0F#32
    let vs := 8 :: (List.range 12).map (· + 16)
    match s.tableFault g x.F b vs with
    | some n => raiseAt n seg segOff true 0 false (if n = 10 then { x with found := x.found ++ s.tableWords x.F b vs } else x)
    | none => .ok () { x with c := s.loadCopies g x.F b x.c, found := x.found ++ s.tableWords x.F b vs }
  else if off < 0x100 then .ok () x
  else if off < 0x300 then
    let d : Fin 16 := ⟨(off - 0x100) / 32 % 16, by omega⟩
    let r := (off - 0x100) % 32
    let D := s.fields[f].drills[d]
    if !x.F.desc.drills.getLsbD d.val || (D.feedOn && r < 8) then deny x
    else
      match r with
      | 0x04 => put (s.updDrill f d fun D => D.pushTx v)
      | 0x0C => put (s.dctl f d (fieldN v 0 3) (bits v 16 16) x.F.desc.drills)
      | 0x10 => put (s.writeRun f d .dwin v)
      | 0x14 => put (s.writeRun f d .dmode v)
      | 0x18 => put (s.writeRun f d .ddiv v)
      | 0x1C => put (s.writeRun f d .dcnt v)
      | _ => put s
  else if off = 0x30C then
    if s.postRoom f then put (s.postLine g x.F.id v) else .error .room x
  else if 0x300 ≤ off ∧ off < 0x30C then
    put (s.updEngine g fun E => { E with linePost := E.linePost.setIfInBounds ((off - 0x300) / 4) v })
  else if 0x400 ≤ off ∧ off < 0x800 then
    let n : Fin 32 := ⟨(off - 0x400) / 32 % 32, by omega⟩
    if s.almanac.timers[n].owner ≠ some (some x.F.id) then deny x
    else put (s.writeTimer n ((off - 0x400) % 32) v)
  else if off = 0x800 then put (s.almMask (.furrow g) v Timer.start)
  else if off = 0x804 then put (s.almMask (.furrow g) v Timer.stop)
  else put s

/-- LINE_POST3 (R346): a store of the furrow on an engine posts its four words; with the queue full it stalls. -/
def execLinePost3 (g : Fin 96) (v : Word) (s : State) : Out :=
  .next (match s.engines[g].cur with
    | some fid => if s.postRoom (fieldOf g) then s.postLine g fid v else s
    | none => s)

/-- TIME_LO_READ (R116): a read by the furrow on an engine samples 64 bits into its context. -/
def execTimeLoRead (g : Fin 96) (s : State) : Out :=
  .next (match s.engines[g].cur with
    | some fid => s.updFurrow fid fun F => { F with ctx := { F.ctx with timeSample := s.now } }
    | none => s)

end Sys2Proof.Machine
end

