-- ==== Sys2Proof/Machine/Operands.lean ====
section
/-! DEFINITION. Segments, access checks, loads, stores and the operand forms of the long format (R107-R118, R135,
R136, R143, R157, R171). -/

namespace Sys2Proof.Machine

/-! Segment images (R107) -/

/-- The image of a segment register; reserved bits are 0 (R109). -/
def Seg.image (g : Seg) : BitVec 128 :=
  (bit 1 g.tgt ++ bit 1 g.sup ++ bit 1 g.x ++ bit 1 g.w ++ bit 1 g.r ++ g.limit ++ 0#16 ++ g.base :
    BitVec 101).setWidth 128

/-- The segment register of an image. -/
def Seg.ofImage (w : BitVec 128) : Seg :=
  { base := w.extractLsb' 0 48, limit := w.extractLsb' 64 32, r := w.getLsbD 96, w := w.getLsbD 97,
    x := w.getLsbD 98, sup := w.getLsbD 99, tgt := w.getLsbD 100 }

/-- Whether an image may be written to a segment register (R109). -/
def segOk (extents : List Extent) (fabBase fabLen : Nat) (w : BitVec 128) : Bool :=
  let g := Seg.ofImage w
  let ext := g.base.getLsbD 47
  bits w 48 16 == 0#16 && bits w 101 27 == 0#27 &&
    (g.tgt || !ext || (bits g.base 36 11 == 0#11 && bits g.base 22 10 == 0#10)) &&
    (g.limit == 0 ||
      (if g.tgt then
        !g.x && decide (fabBase + 0x100000000 ≤ g.base.toNat ∧
          g.base.toNat + g.limit.toNat ≤ fabBase + fabLen + 0x100000000)
      else if ext then
        match extents[fieldN g.base 32 4]? with
        | some e => decide (fieldN g.base 0 22 + g.limit.toNat ≤ e.len)
        | none => false
      else
        g.sup && !g.x && decide (0xF00000 ≤ g.base.toNat ∧ g.base.toNat + g.limit.toNat ≤ 0xF10000)))

/-- R109 for a furrow. -/
def Furrow.segOk (F : Furrow) (w : BitVec 128) : Bool := Machine.segOk F.extents F.desc.fabBase F.desc.fabLen w

/-- The four words of an image, bits [31:0] first. -/
def imageWords (w : BitVec 128) : List Word := [bits w 0 32, bits w 32 32, bits w 64 32, bits w 96 32]

/-- An image from its 16 bytes. -/
def imageOf (l : List Byte) : BitVec 128 := le64 l 8 ++ le64 l 0

/-! Checks of R110 -/

/-- Where a segment's base lies: Plot at an engine address, an engine-local register, or the fabric. -/
inductive Place where
  | plot (a : Nat)
  | reg (off : Nat)
  | fabric (io : DWord)
  deriving DecidableEq, Repr

/-- The place of an offset in a segment (R107, R108, R114). An extent that does not exist counts as at 0; such a segment is
empty (R109). -/
def place (extents : List Extent) (g : Seg) (off : Nat) : Place :=
  if g.tgt then .fabric (BitVec.ofNat 64 (g.base.toNat + off) - 0x100000000#64)
  else if g.base.getLsbD 47 then
    .plot (((extents[fieldN g.base 32 4]?).map Extent.base).getD 0 + fieldN g.base 0 22 + off)
  else .reg (g.base.toNat + off - 0xF00000)

/-- Effective engine address of a place, for alignment (R118). -/
def Place.addr : Place → Nat
  | .plot a => a
  | .reg o => o
  | .fabric d => d.toNat

/-- Checks 1 to 3 of R110: rights, alignment, limit. An empty segment fails at its limit whatever else fails (R109); an engine-local
register takes word accesses only (R115). -/
def check3 (extents : List Extent) (g : Seg) (priv : Bool) (off : Word) (len align : Nat) (r w x : Bool) : Option Nat :=
  if g.limit = 0 then some 3
  else if (r && !g.r) || (w && !g.w) || (x && !g.x) || (g.sup && !priv) then some 4
  else
    let p := place extents g off.toNat
    let local_ := match p with
      | .reg _ => len != 4
      | _ => false
    if p.addr % align ≠ 0 || local_ then some 5
    else if g.limit.toNat < off.toNat + len then some 3
    else none

/-- Check 4 of R110: the engine owns the bank. -/
def State.owns (s : State) (g : Fin 96) (a : Nat) : Bool :=
  let b := s.fields[fieldOf g].banks[bankOf a]
  b.st == .owned && b.owner == localOf g

/-- Whether the bank is on its way to the engine: its accesses wait (R251). -/
def State.handed (s : State) (g : Fin 96) (a : Nat) : Bool :=
  let b := s.fields[fieldOf g].banks[bankOf a]
  b.st == .handover && b.target == localOf g

/-- How checks 1 to 3 fail: their own vectors, or vector 13 of a stack access with its DETAIL (R111). -/
def raiseCheck {α : Type} (stack : Bool) (v : Nat) (seg : BitVec 3) (off : Word) (write : Bool) : M α :=
  if stack then raiseAt 13 seg off write (if v = 4 then 0 else if v = 3 then 1 else 2)
  else raiseAt v seg off write

/-- Segment register i of the furrow. -/
def Ctx.segAt (c : Ctx) (i : BitVec 3) : Seg := c.seg[i.toNat]

/-- An access through checks 1 to 3: its place (R110). -/
def access (stack : Bool) (i : BitVec 3) (off : Word) (len align : Nat) (r w : Bool) : M Place := fun x =>
  let g := x.c.segAt i
  match check3 x.F.extents g (pswPriv x.c.psw) off len align r w false with
  | some v => raiseCheck stack v i off w x
  | none => .ok (place x.F.extents g off.toNat) x

/-- Check 4 and, for a read, the array code of the word: vectors 15 and 10 (R110, R259). The extent adder is checked too (R425). -/
def touchPlot (i : BitVec 3) (off : Word) (a : Nat) (read write : Bool) : M Unit := fun x =>
  if x.st.handed x.g a then .error .room x
  else if !x.st.owns x.g a then raiseAt 15 i off write 0 false x
  else if !read then useUnit 8 x
  else
    match x.st.eccAt (fieldOf x.g) a with
    | none => useUnit 8 x
    | some .corr => useUnit 8 { x with found := (x.found ++ [(a, false)]) }
    | some _ => raiseAt 10 i off write 0 false { x with found := x.found ++ [(a, true)] }

/-- Check 4 and the array codes of the k last Plot words of 16 bytes that len bytes touch, upwards (R110, R166). -/
def touchLines (i : BitVec 3) (off : Word) (a len : Nat) (read write : Bool) : Nat → M Unit
  | 0 => pure ()
  | k + 1 => do
    let j := wordsSpan a len - (k + 1)
    let d := if j = 0 then 0 else (a / 16 + j) * 16 - a
    touchPlot i (off + nw d) (a + d) read write
    touchLines i off a len read write k

/-- An access noted for the watch units (R459). -/
def note (i : BitVec 3) (off : Word) (len : Nat) (write : Bool) : M Unit := fun x =>
  .ok () { x with acc := x.acc ++ [{ seg := i, off := off, len := len, write := write }] }

/-- Bytes read at a fabric address with the furrow's own stores that have not been answered on them (R119). -/
def overlay (fid a : Nat) (l : List Byte) (t : Txn) : List Byte :=
  match t.owner with
  | .engineStore i _ _ _ =>
    if i = fid then
      (List.range l.length).map fun k =>
        if t.addr.toNat ≤ a + k ∧ a + k < t.addr.toNat + t.bytes.length then byteAt t.bytes (a + k - t.addr.toNat) else byteAt l k
    else l
  | _ => l

/-- Bytes of one fabric transaction: those that have arrived for it, or the word waits; a response other than OK raises vector 7
(R288; log 6, DEDUCED). -/
def fabricPart (i : BitVec 3) (off : Word) (io : DWord) (len : Nat) : M (List Byte) := fun x =>
  match takeFirst (fun d => d.1 == io) x.data with
  | some ((_, .ok l), rest) =>
    .ok (x.st.fields[fieldOf x.g].ports.txns.foldl (overlay x.F.id io.toNat) (bytesAt l 0 len)) { x with data := rest }
  | some ((_, .bad r), rest) => raiseAt 7 i off false (r.setWidth 16) false { x with data := rest }
  | none => .error (.wait io len) x

/-- A fabric read of an engine, in transactions of at most 2 beats (R171, R286). n bounds them. -/
def fabricRead (i : BitVec 3) (off : Word) (io : DWord) (len : Nat) : Nat → M (List Byte)
  | 0 => pure []
  | n + 1 =>
    if len = 0 then pure []
    else do
      let k := beatChunk 2 io.toNat len
      let l ← fabricPart i off io k
      let r ← fabricRead i off (io + BitVec.ofNat 64 k) (len - k) n
      pure (l ++ r)

/-- The transactions of a buffered store, of at most 2 beats each (R119, R171, R286). n bounds them. -/
def fabricWrites (i : BitVec 3) (off : Word) (io : DWord) (l : List Byte) (seq : BitVec 16) : Nat → M Unit
  | 0 => pure ()
  | n + 1 =>
    if l.isEmpty then pure ()
    else do
      let k := beatChunk 2 io.toNat l.length
      (fun x =>
        match x.st.issueTxn (fieldOf x.g) (engineIds (localOf x.g)) true io k (l.take k) (.engineStore x.F.id off i seq) with
        | some (_, t) => .ok () { x with st := t }
        | none => .error .room x)
      fabricWrites i off (io + BitVec.ofNat 64 k) (l.drop k) seq n

/-- A buffered store leaves, and STORE_SEQ counts it (R115, R119, R206). -/
def fabricWrite (i : BitVec 3) (off : Word) (io : DWord) (l : List Byte) : M Unit := do
  let c ← getC
  fabricWrites i off io l (c.storeSeq + 1) (l.length / 32 + 3)
  modC fun c => { c with storeSeq := c.storeSeq + 1 }

/-- A load of len bytes at one place. -/
def loadAt (i : BitVec 3) (off : Word) (len : Nat) (p : Place) : M (List Byte) :=
  match p with
  | .plot a => do
    touchPlot i off a true false
    note i off len false
    let x ← getX
    pure (x.st.plotBytes (fieldOf x.g) a len)
  | .reg o => do
    note i off len false
    let w ← regRead i off o
    pure (bytes32 w)
  | .fabric io => do
    let l ← fabricRead i off io len (len / 32 + 3)
    note i off len false
    pure l

/-- Doorbells that a store to len bytes at an engine address rings (R277). -/
def ringBells (a len : Nat) : M Unit := fun x =>
  let bell (s : State) (h : Nat) : State :=
    let d : Doorbell :=
      { hdr := h, words := Vector.ofFn fun w : Fin 4 => s.header x.F h w.val, segs := x.c.seg,
        priv := pswPriv x.c.psw }
    s.updFurrow x.F.id fun F => { F with doorbells := F.doorbells ++ [d] }
  let t := (List.range (wordsSpan a len)).foldl (fun s k =>
    match x.F.doorbellAt (if k = 0 then a else (a / 16 + k) * 16) with
    | some h => bell s h
    | none => s) x.st
  .ok () { x with st := t }

/-- A store of bytes at one place. -/
def storeAt (i : BitVec 3) (off : Word) (l : List Byte) (p : Place) : M Unit :=
  match p with
  | .plot a => do
    touchPlot i off a false true
    note i off l.length true
    let x ← getX
    modS fun s => s.portStore x.F (fieldOf x.g) a l
    ringBells a l.length
  | .reg o => do
    regWrite i off o (le32 l 0)
    note i off l.length true
  | .fabric io => do
    fabricWrite i off io l
    note i off l.length true

/-- A load of 1, 2, 4 or 16 bytes (R110, R117). -/
def load (i : BitVec 3) (off : Word) (len : Nat) (stack : Bool := false) : M (List Byte) := do
  let p ← access stack i off len len true false
  loadAt i off len p

/-- A store of 1, 2, 4 or 16 bytes (R110, R118). -/
def store (i : BitVec 3) (off : Word) (l : List Byte) (stack : Bool := false) : M Unit := do
  let p ← access stack i off l.length l.length false true
  storeAt i off l p

/-- The Plot place of an atomic or a hold; any other raises vector 4, or 13 as a stack operation (R111, R129, R157). -/
def plotOnly (stack : Bool) (i : BitVec 3) (off : Word) (r w : Bool) : M Nat := do
  let x ← getX
  match place x.F.extents (x.c.segAt i) off.toNat with
  | .plot a => do
    let _ ← access stack i off 4 4 r w
    touchPlot i off a r w
    pure a
  | _ => raiseCheck stack 4 i off true

/-- Whether another engine of the Field holds port B of the bank (R129, R157). -/
def State.heldByOther (s : State) (g : Fin 96) (a : Nat) : Bool :=
  (fieldEngines (fieldOf g)).any fun h => h ≠ g && s.engines[h].hold == some (bankOf a)

/-- One read-modify-write of a word at the bank: the old value (R119, R157). -/
def rmw (stack : Bool) (i : BitVec 3) (off : Word) (unit : Option Nat) (f : Word → Word) : M Word := do
  let a ← plotOnly stack i off true true
  match unit with
  | some u => useUnit u
  | none => pure ()
  let e ← getX
  if e.st.heldByOther e.g a then (fun e => .error .room e)
  note i off 4 true
  let old := e.st.plotWord (fieldOf e.g) a
  modS fun s => s.portStore e.F (fieldOf e.g) a (bytes32 (f old))
  ringBells a 4
  pure old

/-! Control-transfer targets (R143) -/

/-- The checks of a target: its 4-byte boundary, then checks 1 and 3 of a fetch (log 27, DEDUCED). -/
def targetFault (g : Seg) (priv : Bool) (pc : Word) : Option Nat :=
  if bits pc 0 2 ≠ 0#2 then some 5
  else if !g.x || (g.sup && !priv) then some 4
  else if g.limit.toNat < pc.toNat + 4 then some 3
  else none

/-- The word raises the fault of a target (R143, R203). -/
def checkTarget (cseg : BitVec 3) (g : Seg) (priv : Bool) (pc : Word) : M Unit :=
  match targetFault g priv pc with
  | some v => raiseAt v cseg pc false 0 true
  | none => pure ()

/-- Transfer to a target in the current code segment. -/
def transfer (pc : Word) : M Unit := do
  let c ← getC
  checkTarget (pswCsel c.psw) (c.segAt (pswCsel c.psw)) (pswPriv c.psw) pc
  jumpTo pc

/-! Operand forms of the long format (R132, R135, R136) -/

/-- MODE, SEG, SIZE, DISP of bits [18:0] (R132). -/
def xMode (x : BitVec 19) : Nat := fieldN x 17 2
def xSeg (x : BitVec 19) : BitVec 3 := x.extractLsb' 14 3
def xSize (x : BitVec 19) : Nat := fieldN x 12 2
def xDisp (x : BitVec 19) : Word := (x.extractLsb' 0 12 : BitVec 12).setWidth 32
/-- IMM of 17 bits (R132). -/
def xImm (x : BitVec 19) : BitVec 17 := x.extractLsb' 0 17

/-- Bytes of a SIZE code (R132). -/
def sizeBytes (k : Nat) : Nat := match k with
  | 0 => 1
  | 1 => 2
  | _ => 4

/-- Offset of a memory operand with a scale (R135). -/
def memOffset (c : Ctx) (x : BitVec 19) (scale : Nat) : Word :=
  let d := xDisp x * nw scale
  match xMode x with
  | 2 => c.x + d
  | 3 => c.y + d
  | _ => d

/-- A value of 1, 2 or 4 bytes extended to a word (R117, R136). -/
def extend (l : List Byte) (len : Nat) (signed : Bool) : Word :=
  let w := le32 l 0
  match len with
  | 1 => if signed then (bits w 0 8 : BitVec 8).signExtend 32 else (bits w 0 8 : BitVec 8).setWidth 32
  | 2 => if signed then (bits w 0 16 : BitVec 16).signExtend 32 else (bits w 0 16 : BitVec 16).setWidth 32
  | _ => w

/-- The low len bytes of a register (R136). -/
def lowBytes (w : Word) (len : Nat) : List Byte := (bytes32 w).take len

/-- The offset of a memory operand; an indexed form uses the offset adder (R145). -/
def operandOffset (x : BitVec 19) (scale : Nat) : M Word := do
  let c ← getC
  if 2 ≤ xMode x then useUnit 2
  pure (memOffset c x scale)

/-- The memory operand of a load: extended by zero or by sign (R135, R136). -/
def memOperand (x : BitVec 19) (signed : Bool) : M Word := do
  let len := sizeBytes (xSize x)
  let off ← operandOffset x len
  let l ← load (xSeg x) off len
  pure (extend l len signed)

/-- The explicit operand: IMM sign-extended, or a memory operand (R136). -/
def operand (x : BitVec 19) (signed : Bool := false) : M Word :=
  if xMode x = 0 then pure ((xImm x).signExtend 32) else memOperand x signed

/-- A store of the low bytes of a register to the memory operand (R136). -/
def storeOperand (x : BitVec 19) (v : Word) : M Unit := do
  let len := sizeBytes (xSize x)
  let off ← operandOffset x len
  store (xSeg x) off (lowBytes v len)

/-! Legality of [18:0] (R134) -/

/-- Modes I/M with any size. -/
def okIM (x : BitVec 19) : Bool := xMode x == 0 || xSize x != 3
/-- Modes I/M, word only. -/
def okIMw (x : BitVec 19) : Bool := xMode x == 0 || xSize x == 2
/-- Mode I. -/
def okI (x : BitVec 19) : Bool := xMode x == 0
/-- Modes M with any size. -/
def okM (x : BitVec 19) : Bool := xMode x != 0 && xSize x != 3
/-- Modes M, word only. -/
def okMw (x : BitVec 19) : Bool := xMode x != 0 && xSize x == 2
/-- N: [18:0] is 0. -/
def okN (x : BitVec 19) : Bool := x == 0

end Sys2Proof.Machine
end

