-- ==== Sys2Proof/Machine/Mover.lean ====
section
/-! DEFINITION. The Field mover and the Field bridge (R12-R14, R249, R292-R297). A descriptor keeps at most one fabric
transaction in flight (log 31, DESIGN CHOICE). -/

namespace Sys2Proof.Machine

/-! Descriptors and slots -/

/-- A place in extent form (R277). -/
def extKey (ext off : Nat) : Nat := ext * 4194304 + off

/-- Engine address of a place in extent form of a furrow, and its Field. -/
def Furrow.keyAddr (F : Furrow) (k : Nat) : Option (Fin 4 × Nat) :=
  match F.home, F.plotAddr (k / 4194304) (k % 4194304) with
  | some f, some a => some (f, a)
  | _, _ => none

/-- A descriptor segment (R277, R292): checks 1 and 3 of R110, then Plot in extent form or a fabric address; a segment of
engine-local registers fails. -/
def resolveSeg (extents : List Extent) (segs : Vector Seg 8) (priv : Bool) (i : BitVec 3) (off len : Nat) (r w : Bool) :
    Option (Bool × Nat) :=
  let g := segs[i.toNat]?.getD Seg.zero
  if g.tgt then
    if (r && !g.r) || (w && !g.w) || (g.sup && !priv) || decide (g.limit.toNat < off + len) then none
    else match place extents g off with
      | .fabric io => some (true, io.toNat)
      | _ => none
  else (resolvePlot segs priv i off len r w).map fun e => (false, extKey e.1 e.2)

/-- One job of a Field rewritten. -/
def State.updJob (s : State) (f : Fin 4) (fid : Nat) (idx : Word) (h : Job → Job) : State :=
  s.updPorts f fun P => { P with jobs := updWhere (fun j => j.fid == fid && j.idx == idx) h P.jobs }

/-- A job of a Field. -/
def State.job? (s : State) (f : Fin 4) (fid : Nat) (idx : Word) : Option Job :=
  s.fields[f].ports.jobs.find? fun j => j.fid == fid && j.idx == idx

/-! Plot ranges of the mover -/

/-- Bytes of Plot up to the first uncorrectable word; whether none was met (R259). -/
def State.readGood (s : State) (f : Fin 4) (a n : Nat) : Nat → State × List Byte × Bool
  | 0 => (s, [], true)
  | k + 1 =>
    if n = 0 then (s, [], true)
    else
      let c := min n (16 - a % 16)
      match s.noteRead f a 1 with
      | (t, true) => (t, [], false)
      | (t, false) =>
        let (t', l, ok) := t.readGood f (a + c) (n - c) k
        (t', t.plotBytes f a c ++ l, ok)

/-- Whether an engine of a Field holds port B of a bank that n bytes lie in: no other master is served there (R129, R254). -/
def State.portBHeld (s : State) (f : Fin 4) (a n : Nat) : Bool :=
  (fieldEngines f).any fun g =>
    match s.engines[g].hold with
    | some b => decide (b.val * bankBytes < a + n ∧ a < (b.val + 1) * bankBytes)
    | none => false

/-- Whether n bytes of a furrow from a place are held against the mover (R129, R254). -/
def State.keyHeld (s : State) (F : Furrow) (key n : Nat) : Bool :=
  match F.keyAddr key with
  | some (f, a) => s.portBHeld f a n
  | none => false

/-- A read by the mover of a furrow's Plot: the bytes, and a status of R294. -/
def State.moverRead (s : State) (F : Furrow) (key n : Nat) : State × List Byte × Nat :=
  match F.keyAddr key with
  | none => (s, [], 0x04)
  | some (f, a) =>
    if s.rangeOk F a n then
      let (t, l, ok) := s.readGood f a n (wordsSpan a n)
      (t, l, if ok then 0 else 0x05)
    else (s, [], 0x04)

/-- A write by the mover into a furrow's Plot; none where it is refused (R249). -/
def State.moverWrite (s : State) (F : Furrow) (key : Nat) (l : List Byte) : Option State :=
  if l.isEmpty then some s
  else
    match F.keyAddr key with
    | none => none
    | some (f, a) => if s.rangeOk F a l.length then some (s.portStore F f a l) else none

/-! Execution -/

/-- n bytes of a word repeated, from byte i on (R292). -/
def patternBytes (w : Word) (i n : Nat) : List Byte := (List.range n).map fun k => byteAt (bytes32 w) ((i + k) % 4)

/-- A fabric transaction of a job; the job waits for its response, or stays as it is while none can issue (R287). -/
def State.jobTxn (s : State) (f : Fin 4) (j : Job) (write : Bool) (addr n : Nat) (l : List Byte) : State × Job :=
  if !s.fabRuns then (s, j)
  else
    match s.issueTxn f moverIds write (BitVec.ofNat 64 addr) n l (.mover j.fid j.idx j.moved) with
    | some (_, t) => (t, { j with waiting := 1 })
    | none => (s, j)

/-- Bytes of a job go to its Plot destination, once no engine holds the bank (R249). -/
def State.jobStore (s : State) (F : Furrow) (j : Job) (l : List Byte) (st : Nat) : State × Job :=
  if s.keyHeld F (j.dst.2 + j.moved) l.length then (s, j)
  else
    match s.moverWrite F (j.dst.2 + j.moved) l with
    | some t => (t, { j with moved := j.moved + l.length, status := st, got := [] })
    | none => (s, { j with status := 0x04 })

/-- One unit of a job: the state and the job after it; the job is as before where it cannot go on (R293). -/
def State.jobUnit (s : State) (f : Fin 4) (F : Furrow) (j : Job) : State × Job :=
  let left := j.len - j.moved
  if j.status ≠ 0 ∨ j.waiting ≠ 0 ∨ left = 0 then (s, j)
  else
    match j.op with
    | 0 =>
      if j.src.1 then
        if j.got.isEmpty then s.jobTxn f j false (j.src.2 + j.moved) (fabChunk (j.src.2 + j.moved) left) []
        else s.jobStore F j j.got 0
      else
        let n := if j.dst.1 then fabChunk (j.dst.2 + j.moved) left else min 4096 left
        if s.keyHeld F (j.src.2 + j.moved) n || (!j.dst.1 && s.keyHeld F (j.dst.2 + j.moved) n) then (s, j)
        else
          let (t, l, st) := s.moverRead F (j.src.2 + j.moved) n
          if !j.dst.1 then t.jobStore F j l st
          else if st = 0 then t.jobTxn f j true (j.dst.2 + j.moved) n l
          else (t, { j with status := st })
    | 1 =>
      if j.dst.1 then
        let n := fabChunk (j.dst.2 + j.moved) left
        s.jobTxn f j true (j.dst.2 + j.moved) n (patternBytes j.pattern j.moved n)
      else s.jobStore F j (patternBytes j.pattern j.moved (min 4096 left)) 0
    | _ =>
      let k := j.got.length
      if k < j.len then
        if j.src.1 then s.jobTxn f j false (j.src.2 + k) (fabChunk (j.src.2 + k) (j.len - k)) []
        else
          let n := min 4096 (j.len - k)
          if s.keyHeld F (j.src.2 + k) n then (s, j)
          else
            let (t, l, st) := s.moverRead F (j.src.2 + k) n
            (t, { j with got := j.got ++ l, status := st })
      else if j.bridge.isNone then (s, { j with moved := j.len })
      else (s, j)

/-- A job takes its unit; none where it cannot go on. -/
def State.tryJob (s : State) (f : Fin 4) (j : Job) : Option State :=
  match s.furrow? j.fid with
  | none => none
  | some F =>
    let r := s.jobUnit f F j
    if r.2 = j then none else some (r.1.updJob f j.fid j.idx fun _ => r.2)

/-- The engine whose turn a job takes: its furrow's in the Field, or 24 (R293). -/
def State.turnOf (s : State) (f : Fin 4) (j : Job) : Nat :=
  match (s.furrow? j.fid).bind Furrow.engine with
  | some g => if fieldOf g = f then (localOf g).val else 24
  | none => 24

/-- The mover's next unit: the first engine after the one served last, in cyclic order, with a descriptor that can go on (R293). -/
def State.moverTurn (s : State) (f : Fin 4) : Option State :=
  ((List.range 25).map fun k => (s.fields[f].ports.rrMover + 1 + k) % 25).findSome? fun e =>
    ((s.fields[f].ports.jobs.filter fun j => s.turnOf f j == e).findSome? fun j => s.tryJob f j).map fun t =>
      t.updPorts f fun P => { P with rrMover := e }

/-- Units of the mover while a condition holds. -/
def State.moverTurns (s : State) (f : Fin 4) (go : State → Bool) : Nat → State
  | 0 => s
  | n + 1 =>
    if go s then
      match s.moverTurn f with
      | some t => t.moverTurns f go n
      | none => s
    else s

/-- Units that the descriptors of a Field can still take without waiting. -/
def State.unitsLeft (s : State) (f : Fin 4) : Nat := (s.fields[f].ports.jobs.map fun j => j.len / 4096 + 3).sum

/-- A response of a job's read: its data are at hand, or the job ends with FABRIC (R288). -/
def State.moverData (s : State) (f : Fin 4) (fid : Nat) (idx : Word) (n : Nat) (r : Reply) : State :=
  s.updJob f fid idx fun j =>
    let j := { j with waiting := 0 }
    if j.status ≠ 0 then j
    else
      match r with
      | .bad c => { j with status := 0x06, resp := c }
      | .ok l => { j with got := (if j.op = 2 then j.got else []) ++ bytesAt l 0 n }

/-- A response of a job's write (R287, R288). -/
def State.moverWrote (s : State) (f : Fin 4) (fid : Nat) (idx : Word) (n : Nat) (resp : BitVec 3) : State :=
  s.updJob f fid idx fun j =>
    { j with
      waiting := 0
      moved := if j.status = 0 ∧ resp = 0 then j.moved + n else j.moved
      status := if j.status = 0 ∧ resp ≠ 0 then 0x06 else j.status
      resp := if j.status = 0 then resp else j.resp }

/-! Ring records (R278, R279, R296) -/

/-- Bytes of a record: header and data, rounded up to 64 bytes (R278). -/
def recordBytes (hdr data : List Byte) : List Byte :=
  let n := ceilDiv (32 + data.length) 64 * 64
  bytesAt (hdr ++ data) 0 n

/-- A skip record: KIND 1, LEN 0 (R278). -/
def skipHeader : List Byte := [0, 0, 1] ++ List.replicate 29 0

/-- A record into an ingress ring that needs `need` bytes; none where the ring has no room (R279). The ring's range must be open to
the hardware (R249): `some none` says that it is refused. -/
def State.putRecord (s : State) (F : Furrow) (h need : Nat) (hdr data : List Byte) : Option (Option State) :=
  match F.ring? h with
  | none => none
  | some r =>
    let size := 2 ^ r.size
    let hidx := s.hidx F h
    let tail := size - hidx.toNat % size
    let free := size - (hidx - s.fidx F h).toNat
    if free < need + (if tail < need then tail else 0) then none
    else
      match F.keyAddr (extKey r.ext r.off) with
      | none => some none
      | some (f, a) =>
        if !s.rangeOk F a size then some none
        else
          let (s, hidx) := if tail < need then
              (s.plotWrite f (a + hidx.toNat % size) skipHeader, hidx + nw tail)
            else (s, hidx)
          let l := recordBytes hdr data
          let s := s.plotWrite f (a + hidx.toNat % size) l
          some (some (s.putHeader F h 4 (hidx + nw l.length)))

/-- The header of a KIND 2 record (R278). -/
def messageHeader (len fid : Nat) (time : DWord) : List Byte :=
  bytes16 (BitVec.ofNat 16 len) ++ [2, 0, 0xFF, 0, 0, 0] ++ bytes64 time ++ List.replicate 4 0 ++ bytes32 (nw fid) ++
    List.replicate 8 0

/-- Delivery of a SEND (R296): the state and the status; none while the destination is MOVING. -/
def State.deliver (s : State) (F : Furrow) (j : Job) : Option (State × Nat) :=
  match s.furrow? j.dfurrow with
  | none => some (s, 0x09)
  | some D =>
    if D.st = .moving then none
    else if ¬ (D.owner = F.owner ∨ F.twin = some D.id) ∨ D.desc.ingress[j.dring]? ≠ some 0xFF ∨ (D.ring? j.dring).isNone then
      some (s, 0x09)
    else
      match s.putRecord D j.dring (ceilDiv (32 + j.len) 64 * 64) (messageHeader j.len F.id s.now) j.got with
      | some (some t) => some (t, 0)
      | some none => some (s, 0x04)
      | none => some (s, 0x08)

/-! MOVER_DESCRIPTOR_START (R292, R293) -/

/-- The status that a descriptor's own checks give (R292, R294): CRC, then reserved fields, OP, LEN and alignment. -/
def moverCheck (l : List Byte) : Nat :=
  let op := (byteAt l 0).toNat
  let len := (le32 l 4).toNat
  let zero (i n : Nat) : Bool := (bytesAt l i n).all fun b => b == 0
  if crc32cOf (l.take 44) ≠ le32 l 44 then 0x01
  else if op > 2 ∨ byteAt l 1 &&& 0xFC ≠ 0 ∨ byteAt l 8 &&& 0xF8 ≠ 0 ∨ byteAt l 9 &&& 0xF8 ≠ 0 ∨ !zero 10 2 ∨
      byteAt l 25 &&& 0xF0 ≠ 0 ∨ !zero 27 17 ∨ len = 0 ∨ len > (if op = 2 then 65504 else 16777216) ∨
      (op = 1 ∧ (len % 4 ≠ 0 ∨ (le32 l 16).toNat % 4 ≠ 0)) ∨ (op = 2 ∧ byteAt l 26 &&& 0xFC ≠ 0) then 0x02
  else 0

/-- A job of a descriptor in its slot, with the doorbell that published it (R277, R292). -/
def State.jobOf (s : State) (F : Furrow) (d : Doorbell) (idx : Word) (slot : Nat) (l : List Byte) : Job :=
  let op := (byteAt l 0).toNat
  let len := (le32 l 4).toNat
  let src := if op = 1 then some (false, 0)
    else resolveSeg F.extents d.segs d.priv (bits (byteAt l 8) 0 3) (le32 l 12).toNat len true false
  let dst := if op = 2 then some (false, 0)
    else resolveSeg F.extents d.segs d.priv (bits (byteAt l 9) 0 3) (le32 l 16).toNat len false true
  let st := moverCheck l
  let st := if st ≠ 0 then st
    else match src, dst with
      | some a, some b => if op = 0 ∧ a.1 ∧ b.1 then 0x02 else 0
      | _, _ => 0x03
  let dest := fieldN (le16 l 24) 0 12
  let D := s.furrow? dest
  let st := if st = 0 ∧ op = 2 ∧ D.isNone then 0x09 else st
  { fid := F.id, idx := idx, slotAddr := slot, op := op, event := (byteAt l 1).getLsbD 0, fence := (byteAt l 1).getLsbD 1
    tag := le16 l 2, len := len, src := src.getD (false, 0), dst := dst.getD (false, 0), pattern := le32 l 20
    dfurrow := dest, dring := fieldN (byteAt l 26) 0 2, ord := 0, moved := 0, waiting := 0, status := st, resp := 0
    bridge := if op = 2 then (D.bind Furrow.home).bind fun h => if F.home = some h then none else some h else none
    got := [] }

/-- A fetched descriptor starts as a job of a Field's mover, which takes its next unit (R293). -/
def State.takeJob (s : State) (f : Fin 4) (F : Furrow) (j : Job) : State :=
  let s := s.updRing F.id 8 fun r => { r with fetched := j.idx + 1 }
  let s := s.putHeader F 8 4 (j.idx + 1)
  let s := s.updPorts f fun P => { P with jobs := P.jobs ++ [{ j with ord := P.bridgeSeq }], bridgeSeq := P.bridgeSeq + 1 }
  (s.moverTurn f).getD s

/-- MOVER_DESCRIPTOR_START (R293): the next published descriptor of a furrow is fetched and checked, and starts when a slot is free
and, with FENCE, every earlier one has completed. The mover then takes its next unit (log 31, DESIGN CHOICE). -/
def execMoverDescriptorStart (fid : Nat) (s : State) : Out :=
  .next (
    match s.furrow? fid with
    | none => s
    | some F =>
      match F.home, F.ring? 8 with
      | some f, some r =>
        let idx := r.fetched
        let slot := extKey r.ext (r.off + idx.toNat % 2 ^ r.size * 64)
        match r.pubOf idx with
        | none => s
        | some d =>
          let (t, l, st) := s.moverRead F slot 64
          let busy := (allFin 4).any fun k => s.fields[k].ports.jobs.any fun j => j.fid == fid
          let j := s.jobOf F d idx slot (bytesAt l 0 64)
          let j := if st = 0 then j else { j with status := st, event := false, fence := false }
          if !s.moverSlot f F.engine || s.keyHeld F slot 64 || (j.fence && busy) then s else t.takeJob f F j
      | _, _ => s)

/-! MOVER_COMPLETION (R293, R294) -/

/-- The completion written into a descriptor's slot (R292). -/
def completionBytes (j : Job) (time : DWord) : List Byte :=
  let st : BitVec 16 := 1#1 ++ 0#4 ++ (if j.status = 0x06 then j.resp else 0) ++ BitVec.ofNat 8 j.status
  bytes16 st ++ [0, 0] ++ bytes32 (nw j.moved) ++ bytes64 time

/-- Whether a status leaves a Plot destination unpredictable beyond MOVED: the descriptor had begun to write it (R294). -/
def Job.spoils (j : Job) : Bool := j.op != 2 && !j.dst.1 && (j.status == 4 || j.status == 5 || j.status == 6 || j.status == 0x0A)

/-- Destination bytes beyond MOVED are free values (R288, R294). -/
def State.spoilRest (s : State) (F : Furrow) (j : Job) : State :=
  if j.spoils then
    let n := j.len - j.moved
    let (r, t) := s.fresh (8 * n)
    (t.moverWrite F (j.dst.2 + j.moved) ((List.range n).map fun i => bits r (8 * i) 8)).getD s
  else s

/-- A job ends: its slot, Tally, the event, and the job leaves the mover. -/
def State.endJob (s : State) (f : Fin 4) (F : Furrow) (j : Job) : State :=
  let s := s.spoilRest F j
  let s := match s.moverWrite F (j.slotAddr + 48) (completionBytes j s.now) with
    | some t => t
    | none => s
  let s := s.updPorts f fun P => { P with jobs := P.jobs.filter fun k => !(k.fid == j.fid && k.idx == j.idx) }
  let s := (s.count 3 (f.val * 5 + (if j.status = 0 then 0 else 1)) 1).count 3 (f.val * 5 + 2) j.moved
  if j.event then s.latch j.fid 9 else s

/-- Whether an earlier transfer of a Field to Field t has not completed (R13). The copies of migrations stand apart (log 67, DESIGN
CHOICE). -/
def Ports.behind (P : Ports) (t : Fin 4) (ord : Nat) : Bool :=
  (P.jobs.any fun j => j.bridge == some t && decide (j.ord < ord)) ||
    P.own.any fun o => o.copy && o.dst == t && decide (o.ord < ord)

/-- Whether an earlier SEND of the furrow to the same ring has not completed (R296). -/
def Ports.sentBefore (P : Ports) (j : Job) : Bool :=
  P.jobs.any fun k => k.op == 2 && k.fid == j.fid && k.dfurrow == j.dfurrow && k.dring == j.dring && decide (k.ord < j.ord)

/-- Whether a job may complete as far as the order of transfers goes (R13, R296). -/
def Ports.inOrder (P : Ports) (j : Job) : Bool :=
  !(P.sentBefore j) && (match j.bridge with
    | some t => !(P.behind t j.ord)
    | none => true)

/-- The Field that a SEND must cross the bridge to as its destination stands now (R10, R296). -/
def State.bridgeFor (s : State) (f : Fin 4) (j : Job) : Option (Fin 4) :=
  ((s.furrow? j.dfurrow).bind Furrow.home).filter fun h => h != f

/-- Whether the work of a job has ended. -/
def Job.worked (j : Job) : Bool := j.waiting == 0 && (j.status != 0 || decide (j.len ≤ j.moved))

/-- A job whose work has ended completes; a SEND delivers its record first, and crosses the bridge anew where its destination has moved
meanwhile (R10, R293, R296). -/
def State.completeJob (s : State) (f : Fin 4) (F : Furrow) (j : Job) : State :=
  if !s.fields[f].ports.inOrder j || s.keyHeld F (j.slotAddr + 48) 16 then s
  else if j.status = 0 ∧ j.op = 2 then
    if s.bridgeFor f j ≠ j.bridge then
      s.updPorts f fun P =>
        { P with
          bridgeSeq := P.bridgeSeq + 1
          jobs := updWhere (fun k => k.fid == j.fid && k.idx == j.idx)
            (fun k => { k with
              bridge := s.bridgeFor f j, ord := P.bridgeSeq, moved := if (s.bridgeFor f j).isNone then k.len else 0 }) P.jobs }
    else
      match s.deliver F j with
      | none => s
      | some (t, st) => t.endJob f F { j with status := st, moved := if st = 0 then j.len else 0 }
  else s.endJob f F j

/-- MOVER_COMPLETION (R293, R294): the mover takes its units in turn until the descriptor's work has ended, and the descriptor completes. -/
def execMoverCompletion (fid : Nat) (idx : Word) (s : State) : Out :=
  .next (
    match (allFin 4).find? (fun f => (s.job? f fid idx).isSome) with
    | none => s
    | some f =>
      let s := s.moverTurns f (fun s => ((s.job? f fid idx).map fun j => !j.worked) == some true) (s.unitsLeft f)
      match s.job? f fid idx, s.furrow? fid with
      | some j, some F => if j.worked then s.completeJob f F j else s
      | _, _ => s)

/-! The Field bridge (R12-R14) -/

/-- Whether a job has a unit waiting for the bridge. -/
def Job.waitsBridge (j : Job) : Bool :=
  j.bridge.isSome && j.status == 0 && j.waiting == 0 && decide (j.len ≤ j.got.length ∧ j.moved < j.len)

/-- Whether a job's unit may be granted: earlier transfers of the pair have completed (R13). -/
def Ports.grantsJob (P : Ports) (j : Job) : Bool :=
  j.waitsBridge && (match j.bridge with
    | some t => !(P.behind t j.ord)
    | none => false)

/-- Whether a unit of the mover's own descriptor may be granted. -/
def Ports.grantsOwn (P : Ports) (o : OwnJob) : Bool := !o.cut && decide (o.moved < o.len) && !(o.copy && P.behind o.dst o.ord)

/-- The mover's own descriptors that hold a slot: 32 (R297). -/
def Ports.ownSlots (P : Ports) : List OwnJob := P.own.take 32

/-- The order number of the transfer whose unit goes next: the earliest that may. -/
def Ports.nextUnit (P : Ports) : Option Nat :=
  (((P.jobs.filter P.grantsJob).map Job.ord) ++ ((P.ownSlots.filter P.grantsOwn).map OwnJob.ord)).min?

/-- The first Field after the one granted last that satisfies p, in cyclic order. -/
def nextField (last : Nat) (p : Fin 4 → Bool) : Option (Fin 4) :=
  ((List.range 4).map fun k => (⟨(last + 1 + k) % 4, by omega⟩ : Fin 4)).find? p

/-- n bytes from offset lo of a list of extents, copied to the extents they move to (R95, R253). -/
def State.copyPart (s : State) (f g : Fin 4) : List (Extent × Extent) → Nat → Nat → State
  | [], _, _ => s
  | p :: l, lo, n =>
    if p.1.len ≤ lo then s.copyPart f g l (lo - p.1.len) n
    else
      let k := min n (p.1.len - lo)
      (s.copyRange f (p.1.base + lo) g (p.2.base + lo) k).copyPart f g l 0 (n - k)

/-- A unit of a migration's copy crosses the bridge: its bytes enter the target's Plot (R95). -/
def State.moveUnit (s : State) (fid lo n : Nat) : State :=
  match s.sower.migs.find? (fun m => m.fid == fid), s.furrow? fid with
  | some m, some F => s.copyPart (fieldOf m.src) (fieldOf m.dst) (F.extents.zip m.extents) lo n
  | _, _ => s

/-- One unit of 4 KiB of the transfer with an order number crosses the bridge from Field f (R12, R469). -/
def State.crossUnit (s : State) (f : Fin 4) (ord : Nat) : State :=
  let P := s.fields[f].ports
  let bytes (s : State) (t : Fin 4) (n : Nat) : State := (s.count 3 (f.val * 5 + 3) n).count 3 (t.val * 5 + 4) n
  match P.jobs.find? fun j => j.ord == ord && P.grantsJob j with
  | some j =>
    let n := min 4096 (j.len - j.moved)
    let s := s.updJob f j.fid j.idx fun j => { j with moved := j.moved + n }
    match j.bridge with
    | some t => bytes s t n
    | none => s
  | none =>
    match P.own.find? fun o => o.ord == ord with
    | none => s
    | some o =>
      let n := min 4096 (o.len - o.moved)
      let s := s.updPorts f fun P => { P with own := updWhere (fun o => o.ord == ord) (fun o => { o with moved := o.moved + n }) P.own }
      bytes (if o.copy then s else s.moveUnit o.fid o.moved n) o.dst n

/-- BRIDGE_GRANT (R12): one unit of the next sending Field in round-robin order, of its earliest transfer that may go (R13). -/
def execBridgeGrant (s : State) : Out :=
  .next (
    match nextField s.bridgeRr fun f => s.fabRuns && s.fields[f].ports.nextUnit.isSome with
    | none => s
    | some f =>
      match s.fields[f].ports.nextUnit with
      | none => s
      | some ord => { s with bridgeRr := f.val }.crossUnit f ord)

/-- Units of a SEND that have crossed when it is ended stand in the destination ring's free space, where its record would have begun (R14,
R279). -/
def State.landUnits (s : State) (t : Fin 4) (j : Job) : State :=
  match s.furrow? j.dfurrow with
  | none => s
  | some D =>
    match D.ring? j.dring with
    | none => s
    | some r =>
      let size := 2 ^ r.size
      let need := ceilDiv (32 + j.len) 64 * 64
      let pos := (s.hidx D j.dring).toNat % size
      let pos := if size - pos < need then 0 else pos
      let free := size - (s.hidx D j.dring - s.fidx D j.dring).toNat
      match D.keyAddr (extKey r.ext r.off) with
      | none => s
      | some (f, a) =>
        if f ≠ t ∨ free < need ∨ !s.rangeOk D a size then s else s.plotWrite f (a + pos + 32) (j.got.take j.moved)

/-- Whether a bridge transfer of a Field's mover ends when Field f enters reset or leaves service (R14). -/
def Job.cutBy (j : Job) (k f : Fin 4) : Bool := j.bridge.isSome && j.status == 0 && (k == f || j.bridge == some f)

/-- A Field enters reset or leaves service: bridge transfers from it and to it end with BRIDGE_ABORT (R14). -/
def State.bridgeAbort (s : State) (f : Fin 4) : State :=
  let s := (allFin 4).foldl (fun (s : State) (k : Fin 4) =>
    (s.fields[k].ports.jobs.filter fun j => j.cutBy k f).foldl (fun (s : State) (j : Job) =>
      match j.bridge with
      | some t => s.landUnits t j
      | none => s) s) s
  let ports (k : Fin 4) (P : Ports) : Ports :=
    let mine (o : OwnJob) : Bool := k == f || o.dst == f
    { P with
      jobs := updWhere (fun j => j.cutBy k f) (fun j => { j with status := 0x07 }) P.jobs
      own := updWhere mine (fun o => { o with cut := true }) (P.own.filter fun o => !(o.copy && mine o)) }
  let fieldsOf (k : Fin 4) (F : Field) : Field := { F with ports := ports k F.ports }
  { s with fields := vmap fieldsOf s.fields }

/-! The dump ring of Tally (R471): record 0x0060 gives its place in bytes 8-19. -/

def dumpAddr (b : List Byte) : DWord := le64 b 8
def dumpLen (b : List Byte) : Nat := (le32 b 16).toNat

/-- Dump bytes that wait leave through Field 0's port as far as it takes them, wrapping at the ring's end (R471). -/
def State.pumpDump (s : State) : Nat → State
  | 0 => s
  | n + 1 =>
    let l := s.dbg.dumpOut
    let len := dumpLen s.dbg.tallyCfg
    if l.isEmpty ∨ len ≤ s.dbg.tallyPos ∨ !s.supServes then s
    else
      let addr := dumpAddr s.dbg.tallyCfg + BitVec.ofNat 64 s.dbg.tallyPos
      let k := fabChunk addr.toNat (min l.length (len - s.dbg.tallyPos))
      match s.issueTxn 0 supIds true addr k (l.take k) .dump with
      | none => s
      | some (_, t) =>
        let pos := if len ≤ t.dbg.tallyPos + k then 0 else t.dbg.tallyPos + k
        (t.updDbg fun d => { d with tallyPos := pos, dumpOut := d.dumpOut.drop k }).pumpDump n

end Sys2Proof.Machine
end

