-- ==== Sys2Proof/Machine/Streams.lean ====
section
/-! DEFINITION. Stream ports: ingress, merge, egress and doorbells (R269-R284). -/

namespace Sys2Proof.Machine

/-! Queue bindings (R274): a record body is 12 bytes -/

/-- The binding of a queue of a Field in one direction: 0 ingress, 1 egress (R274). -/
def Field.binding (F : Field) (q dir : Nat) : Option (List Byte) :=
  F.queueTab.find? fun b => (byteAt b 0).toNat == q && (byteAt b 1).toNat == dir

def bindMax (b : List Byte) : Nat := (le16 b 4).toNat
def bindMerge (b : List Byte) : Bool := (byteAt b 6).getLsbD 0
def bindTwin (b : List Byte) : Bool := (byteAt b 6).getLsbD 1
def bindPartner (b : List Byte) : Nat := (byteAt b 7).toNat
def bindSeqOff (b : List Byte) : Nat := (le16 b 8).toNat

/-- The primary of an ingress queue: itself, or the MERGE queue that names it as PARTNER (R274). -/
def Field.primaryOf (F : Field) (q : Nat) : Nat :=
  match F.queueTab.find? fun b => byteAt b 1 == 0 && bindMerge b && bindPartner b == q with
  | some b => (byteAt b 0).toNat
  | none => q

/-- SPn_UP (R273). -/
def State.spUp (s : State) (f : Fin 4) : Bool :=
  s.fields[f].st != .off && s.fields[f].st != .resetting && !(f.val == 0 && s.pins.dormantAck)

/-- Whether the ports of a Field carry traffic (R20). -/
def State.carries (s : State) (f : Fin 4) : Bool := s.fields[f].st == .inService || s.fields[f].st == .draining

/-- Whether STRM_CLK is usable (R28). -/
def State.strmRuns (s : State) : Bool := !s.pins.clkFault.getLsbD 6

/-! The merge window (R284) -/

/-- What the window answers to a sequence number. -/
inductive MergeSays where
  | accept | duplicate | stale
  deriving DecidableEq, Repr

/-- The window of a primary queue after a packet with number n, and its answer; t is the time (R284). -/
def mergeStep (m : Option Merge) (q : Nat) (n : BitVec 16) (t : DWord) (quiet : Bool) : Merge × MergeSays :=
  match m with
  | none => ({ queue := q, h := n, window := [n], last := t }, .accept)
  | some w =>
    if quiet then ({ queue := q, h := n, window := [n], last := t }, .accept)
    else
      let d := (n - w.h).toNat
      if 1 ≤ d ∧ d ≤ 32767 then
        ({ w with h := n, window := (w.window.filter fun x => decide ((n - x).toNat < 4096)) ++ [n], last := t }, .accept)
      else if d = 0 ∨ 61441 ≤ d then
        if n ∈ w.window then (w, .duplicate) else ({ w with window := w.window ++ [n], last := t }, .accept)
      else (w, .stale)

/-- Big-endian 16-bit value at byte i (R284). -/
def be16 (l : List Byte) (i : Nat) : BitVec 16 := byteAt l i ++ byteAt l (i + 1)

/-! Ingress (R270, R271, R278, R279) -/

/-- The furrow whose ring a primary queue fills, and its slot (R75, R274). -/
def State.ingressOf (s : State) (f : Fin 4) (q : Nat) : Option (Furrow × Nat) :=
  let has (F : Furrow) : Bool := F.desc.ingress.any fun b => b == q && b != 255
  match s.furrows.find? fun F => F.home == some f && has F with
  | some F => some (F, F.desc.ingress.findIdx fun b => b == q)
  | none => none

/-- The migration whose new rings in a Field a primary queue fills (R95, R97). -/
def State.ingressMove (s : State) (f : Fin 4) (q : Nat) : Option (Migration × Nat) :=
  match s.sower.migs.find? fun m => m.st != .prepare && fieldOf m.dst == f && fieldOf m.src != f &&
      ((s.furrow? m.fid).map fun F => F.desc.ingress.any fun b => b == q && b != 255) == some true with
  | some m => some (m, (((s.furrow? m.fid).map fun F => F.desc.ingress).getD []).findIdx fun b => b == q)
  | none => none

/-- Whether a furrow's rings in its Field have stopped for a migration to another Field (R95). -/
def State.ringsStopped (s : State) (fid : Nat) : Bool :=
  s.sower.migs.any fun m => m.fid == fid && fieldOf m.src != fieldOf m.dst && (m.st == .transfer || m.st == .resume)

/-- The header of a packet's record (R278). -/
def packetHeader (p : RxPacket) (err path mskip : Bool) (count drops : Word) : List Byte :=
  bytes16 (BitVec.ofNat 16 p.data.length) ++
    [0, (bit 1 mskip ++ bit 1 path ++ bit 1 err : BitVec 3).setWidth 8, p.queue, 0, 0, 0] ++
    bytes32 (bits p.ts 0 32) ++ bytes32 (bits p.ts 32 32) ++ bytes16 (bits p.ts 64 16) ++ [0, 0] ++
    bytes32 count ++ bytes32 drops ++ List.replicate 4 0

/-- Packets that have arrived on a queue, and its drops since the last record. -/
def Ports.arrivals (P : Ports) (q : Nat) : Word := mapGet 0 q P.counts
def Ports.dropsOf (P : Ports) (q : Nat) : Word := mapGet 0 q P.drops

/-- A packet is dropped: Tally counter k of group 0, and DROPS of its queue (R278). -/
def State.dropPacket (s : State) (f : Fin 4) (q k : Nat) : State :=
  (s.updPorts f fun P =>
    let d := P.dropsOf q
    { P with drops := mapSet 0 q (if d = 0xFFFFFFFF then d else d + 1) P.drops }).count 0 (f.val * 10 + k) 1

/-- A drop of a run: the first of the run is recorded (R249, R270). -/
def State.dropRun (s : State) (f : Fin 4) (q k event : Nat) (run : Bool) : State :=
  let s := s.dropPacket f q k
  if run then s else s.log 5 event (some f) q 0 0

/-- The packet's record once its ring has room: the merge decides, then it is written (R279, R284). -/
def State.acceptPacket (s : State) (f : Fin 4) (p : RxPacket) (err : Bool) (prim : Nat) (b : List Byte)
    (put : State → List Byte → Option (Option State)) : State :=
  let q := p.queue.toNat
  let P := s.fields[f].ports
  let merge := bindMerge b
  let off := bindSeqOff b
  let short := merge && decide (p.data.length < off + 2)
  let m := P.merges.find? fun m => m.queue == prim
  let quiet := match m with
    | some m => decide (100000000 ≤ s.since m.last)
    | none => true
  let r := mergeStep m prim (be16 p.data off) s.now quiet
  let verdict := if merge && !short then r.2 else .accept
  match verdict with
  | .duplicate => s.count 9 (f.val * 512 + prim * 2) 1
  | .stale => s.count 9 (f.val * 512 + prim * 2 + 1) 1
  | .accept =>
    let hdr := packetHeader p err (q != prim) short (P.arrivals q) (P.dropsOf q)
    match put s hdr with
    | none => s.dropPacket f q 5
    | some none => (s.dropRun f q 6 3 P.refRun).updPorts f fun P => { P with refRun := true }
    | some (some t) => t.updPorts f fun P =>
        { P with
          refRun := false, drops := mapSet 0 q 0 P.drops
          merges := if merge && !short then P.merges.filter (fun m => m.queue != prim) ++ [r.1] else P.merges }

/-- The distributor at a packet of a bound queue (R274, R279): the furrow's ring must be active and have room for the queue's
largest packet. -/
def State.distribute (s : State) (f : Fin 4) (p : RxPacket) (err : Bool) (b : List Byte) : State :=
  let q := p.queue.toNat
  let prim := s.fields[f].primaryOf q
  let pb := (s.fields[f].binding prim 0).getD b
  let need := ceilDiv (32 + bindMax b) 64 * 64
  match s.ingressOf f prim with
  | some (F, k) =>
    if s.ringsStopped F.id || (F.ring? k).isNone then s.dropPacket f q 4
    else if (s.putRecord F k need [] []).isNone then s.dropPacket f q 5
    else s.acceptPacket f p err prim pb fun s h => s.putRecord F k need h p.data
  | none =>
    match s.ingressMove f prim with
    | some (m, k) =>
      let keep (h : List Byte) (n : Migration) : Migration := { n with arrived := n.arrived ++ [(k, need, h, p.data)] }
      s.acceptPacket f p err prim pb fun s h =>
        some (some (s.updSower fun W => { W with migs := updWhere (fun n => n.fid == m.fid) (keep h) W.migs }))
    | none => s.dropPacket f q 4

/-- A packet has arrived on a queue: Tally, and COUNT of its records (R278, R469). -/
def State.countArrival (s : State) (f : Fin 4) (q n : Nat) : State :=
  ((s.count 0 (f.val * 10) 1).count 0 (f.val * 10 + 1) n).updPorts f fun P => { P with counts := mapSet 0 q (P.arrivals q + 1) P.counts }

/-- A packet that the port closes as malformed or too long (R270). -/
def State.dropMalformed (s : State) (f : Fin 4) (q n : Nat) : State :=
  ((s.countArrival f q n).dropRun f q 2 1 s.fields[f].ports.malRun).updPorts f fun P => { P with malRun := true }

/-- A whole packet: its length, its queue's binding, then the distributor (R270, R274, R279). -/
def State.packetDone (s : State) (f : Fin 4) (p : RxPacket) (err : Bool) : State :=
  let q := p.queue.toNat
  let n := p.data.length
  let B := s.fields[f].binding q 0
  let big := match B with
    | some b => decide (bindMax b < n)
    | none => false
  if decide (9216 < n) || big then s.dropMalformed f q n
  else
    let s := (s.countArrival f q n).updPorts f fun P => { P with malRun := false }
    match B with
    | none => s.dropPacket f q 4
    | some b => s.distribute f p err b

/-- A packet loses a beat that came without credit (R271). -/
def State.dropUncredited (s : State) (f : Fin 4) (q n : Nat) : State :=
  ((s.countArrival f q n).dropPacket f q 3).log 5 2 (some f) q 0 0

/-- A beat goes into the packet that it opens or continues (R270). -/
def State.packetBeat (s : State) (f : Fin 4) (p : RxPacket) (b : Beat) : State :=
  let n := if b.eop ∧ b.nb ≠ 0 then b.nb.toNat else 64
  let p : RxPacket := { p with data := p.data ++ bytesAt b.data 0 n }
  if !b.eop && b.nb != 0 then
    (s.dropMalformed f p.queue.toNat p.data.length).updPorts f fun P => { P with rxOpen := none, rxSkip := true }
  else if b.eop then (s.updPorts f fun P => { P with rxOpen := none }).packetDone f p b.err
  else s.updPorts f fun P => { P with rxOpen := some p }

/-- One valid beat of an ingress (R270, R271). Beats that follow a packet closed early are passed over to its EOP; an SOP within a packet
closes it and opens the next (log 68, DESIGN CHOICE). A Field that is Out takes and discards every beat (R273). -/
def State.ingressBeat (s : State) (f : Fin 4) (b : Beat) : State :=
  let P := s.fields[f].ports
  let held := P.inHeld - b.freed
  if !s.carries f then s.updPorts f fun P => { P with inHeld := held, rxOpen := none, rxSkip := !b.eop }
  else if 128 ≤ held then
    let q := if b.sop then b.queue.toNat else ((P.rxOpen.map RxPacket.queue).getD 0).toNat
    let n := if b.sop then 0 else ((P.rxOpen.map fun p => p.data.length).getD 0)
    (s.dropUncredited f q n).updPorts f fun P => { P with inHeld := held, rxOpen := none, rxSkip := !b.eop }
  else
    let s := s.updPorts f fun P => { P with inHeld := held + 1 }
    if b.sop then
      let s := match P.rxOpen with
        | some p => s.dropMalformed f p.queue.toNat p.data.length
        | none => s
      (s.updPorts f fun P => { P with rxOpen := none, rxSkip := false }).packetBeat f { queue := b.queue, ts := b.ts, data := [] } b
    else
      match P.rxOpen with
      | some p => s.packetBeat f p b
      | none =>
        let s := if P.rxSkip then s else s.dropMalformed f 0 0
        s.updPorts f fun P => { P with rxSkip := !b.eop }

/-- INGRESS_PACKET (R270-R274, R279): the beats of the port, one after the other. -/
def execIngressPacket (f : Fin 4) (p : Packet) (s : State) : Out :=
  .next (if !s.spUp f || !s.strmRuns then s else p.beats.foldl (fun (s : State) (b : Beat) => s.ingressBeat f b) s)

/-! Descriptors of frames (R281, R323) -/

/-- Whether a header is of an egress ring, or of a TX ring. -/
def isEgress (h : Nat) : Bool := 4 ≤ h && h < 8
def isTx (h : Nat) : Bool := 9 ≤ h && h < 25

/-- TWIN, FSEQ, DUE, SEG, offset and length of a frame descriptor. -/
def frameTwin (h : Nat) (d : List Byte) : Bool := if isTx h then (byteAt d 4).getLsbD 0 else (byteAt d 2).getLsbD 0
def frameSeq (h : Nat) (d : List Byte) : Word := if isTx h then le32 d 12 else le32 d 16
def frameDue (h : Nat) (d : List Byte) : DWord := if isTx h then le64 d 16 else le64 d 8
def frameSeg (h : Nat) (d : List Byte) : BitVec 3 := if isTx h then bits (byteAt d 5) 0 3 else bits (byteAt d 3) 0 3
def frameOff (h : Nat) (d : List Byte) : Nat := if isTx h then (le32 d 8).toNat else (le32 d 4).toNat
def frameLen (h : Nat) (d : List Byte) : Nat := if isTx h then (le32 d 0).toNat else (le16 d 0).toNat

/-- Whether bytes are all 0. -/
def zeroBytes (l : List Byte) (i n : Nat) : Bool := (bytesAt l i n).all fun b => b == 0

/-- Whether a descriptor is sound: LEN and its reserved bits; `top` is MAXLEN, or the bytes of one word on every TX lane (R281,
R323). -/
def frameSound (h top : Nat) (d : List Byte) : Bool :=
  if isTx h then
    byteAt d 4 &&& 0xFE == 0 && byteAt d 5 &&& 0xF8 == 0 && zeroBytes d 6 2 && zeroBytes d 24 8 && le32 d 0 != 0 &&
      decide (0 < top ∧ (le32 d 0).toNat % top = 0 ∧ (le32 d 8).toNat % 4 = 0)
  else
    byteAt d 2 &&& 0xFC == 0 && byteAt d 3 &&& 0xF8 == 0 && zeroBytes d 30 2 && decide (14 ≤ (le16 d 0).toNat ∧
      (le16 d 0).toNat ≤ top)

/-- The queue of an egress header, or the drill of a TX header, as Tally and the Ledger name it. -/
def Furrow.unitOf (F : Furrow) (h : Nat) : Nat := if isTx h then h - 9 else F.desc.egress.getD (h - 4) 0

/-- What LEN of a header's descriptors must meet: MAXLEN of the queue, or 4 bytes for each TX lane; 0 where nothing is bound. -/
def State.frameTop (s : State) (F : Furrow) (h : Nat) : Nat :=
  match F.home with
  | none => 0
  | some f =>
    if isTx h then
      match toFin? 16 (h - 9) with
      | some d => 4 * lanes s.fields[f].drills[d].txMask
      | none => 0
    else ((s.fields[f].binding (F.unitOf h) 1).map bindMax).getD 0

/-- Whether a header's ring passes the selector for TWIN frames: a twin furrow's TX ring, or egress queue bound with TWIN (R283,
R325). -/
def State.twinRing (s : State) (F : Furrow) (h : Nat) : Bool :=
  F.twin.isSome &&
    (isTx h || match F.home with
      | some f => ((s.fields[f].binding (F.unitOf h) 1).map bindTwin).getD false
      | none => false)

/-- Engine address of the descriptor of index i of a frame ring. -/
def Furrow.descAddr (F : Furrow) (h : Nat) (i : Word) : Option Nat :=
  (F.ring? h).bind fun r => F.plotAddr r.ext (r.off + i.toNat % 2 ^ r.size * 32)

/-- The descriptor of index i of a frame ring as it stands in Plot, once published; its doorbell (R277). -/
def State.frameAt (s : State) (F : Furrow) (h : Nat) (i : Word) : Option (Doorbell × List Byte) :=
  match (F.ring? h).bind fun r => r.pubOf i, F.home, F.descAddr h i with
  | some d, some f, some a => if s.rangeOk F a 32 then some (d, s.plotBytes f a 32) else none
  | _, _, _ => none

/-- What the reader of a descriptor of a Field finds in its two words, and whether one is uncorrectable: such a descriptor is discarded
(R259; log 68, DESIGN CHOICE). -/
def State.noteDesc (s : State) (f : Fin 4) (F : Furrow) (h : Nat) (i : Word) : State × Bool :=
  match F.descAddr h i with
  | some a => s.noteRange f a 1 2
  | none => (s, false)

/-- Engine address of a frame, resolved at its doorbell (R277); the answer is none where resolution fails. -/
def Furrow.framePlace (F : Furrow) (h : Nat) (b : Doorbell) (d : List Byte) : Option Nat :=
  match resolvePlot b.segs b.priv (frameSeg h d) (frameOff h d) (frameLen h d) true false with
  | none => none
  | some (e, o) => F.plotAddr e o

/-- A frame read for sending: its bytes, zeros or the raw word where one is uncorrectable, and the offset of the first such word
(R259, R282, R324). -/
def State.readFrame (s : State) (f : Fin 4) (a n : Nat) (drill : Bool) : Nat → State × List Byte × Option Nat
  | 0 => (s, [], none)
  | k + 1 =>
    if n = 0 then (s, [], none)
    else
      let c := min n (16 - a % 16)
      let (t, bad) := s.noteRead f a (if drill then 3 else 1)
      let l := if bad && drill then List.replicate c 0 else t.plotBytes f a c
      let (u, r, e) := t.readFrame f (a + c) (n - c) drill k
      (u, l ++ r, if bad then some 0 else e.map (· + c))

/-! Egress (R281, R282) -/

/-- Whether a frame's due time has come (R282). -/
def State.dueNow (s : State) (d : DWord) : Bool := d == 0 || decide (d.toNat ≤ s.now.toNat)

/-- A descriptor leaves its ring without a frame: HIDX passes it, and Tally counts it (R282, R324). -/
def State.discardFrame (s : State) (f : Fin 4) (F : Furrow) (h : Nat) : State :=
  let n := s.hidx F h + 1
  let s := (s.putHeader F h 4 n).updRing F.id h fun r => { r with fetched := n }
  if isTx h then s.count 5 ((f.val * 16 + F.unitOf h) * 3) 1 else s.count 0 (f.val * 10 + 9) 1

/-- The furrow and header of an egress queue of a Field. -/
def State.egressOf (s : State) (f : Fin 4) (q : Nat) : Option (Furrow × Nat) :=
  match s.furrows.find? fun F => F.home == some f && F.desc.egress.any fun b => b == q && b != 255 with
  | some F => some (F, 4 + F.desc.egress.findIdx fun b => b == q)
  | none => none

/-- The frame that the selector has chosen for a header and that goes next. -/
def Furrow.chosenOf (F : Furrow) (h : Nat) : Option TwinFrame :=
  (F.sels.find? fun x => x.hdr == h).bind fun x => x.chosen.head?

/-- The next frame of an egress queue, where one may start now: a chosen twin frame, or the descriptor at HIDX that does not pass
the selector (R282). -/
def State.egressNext (s : State) (F : Furrow) (h : Nat) : Option (Sum TwinFrame (Doorbell × List Byte)) :=
  match F.chosenOf h with
  | some c => if s.dueNow c.due then some (.inl c) else none
  | none =>
    match s.frameAt F h (s.hidx F h) with
    | none => none
    | some (b, d) =>
      if s.twinRing F h && frameTwin h d && frameSound h (s.frameTop F h) d then none
      else if s.dueNow (frameDue h d) then some (.inr (b, d))
      else none

/-- Whether the frame of a plain descriptor goes out: sound, resolved, in banks that the reader may reach; otherwise it is discarded (R249,
R282). -/
def State.plainOk (s : State) (F : Furrow) (h : Nat) (b : Doorbell) (d : List Byte) : Bool :=
  frameSound h (s.frameTop F h) d &&
    match F.framePlace h b d with
    | none => false
    | some a => s.rangeOk F a (frameLen h d)

/-- The first frame that furrows that moved have left on a queue, where it is due (R97, R282). -/
def State.leftReady (s : State) (f : Fin 4) (q : Nat) : Option LeftFrame :=
  (s.fields[f].ports.left.find? fun l => l.queue == q).filter fun l => s.dueNow (frameDue 4 l.desc)

/-- Whether a queue has a frame that may start (R282). -/
def State.queueReady (s : State) (f : Fin 4) (q : Nat) : Bool :=
  if s.fields[f].ports.left.any fun l => l.queue == q then (s.leftReady f q).isSome
  else
    match s.egressOf f q with
    | none => false
    | some (F, h) =>
      (F.ring? h).isSome && match s.egressNext F h with
        | none => false
        | some (.inl _) => true
        | some (.inr (b, d)) => s.plainOk F h b d && !(s.noteDesc f F h (s.hidx F h)).2

/-- The queue that the port serves next, round-robin in order of queue number (R282). -/
def State.nextQueue (s : State) (f : Fin 4) : Option Nat :=
  ((List.range 256).map fun k => (s.fields[f].ports.rrQueue + 1 + k) % 256).find? fun q => s.queueReady f q

/-- A chosen frame leaves its selector, with the remote records up to it; HIDX passes the local descriptors that are done with (R282,
R283). -/
def State.popChosen (s : State) (F : Furrow) (h : Nat) (c : TwinFrame) : State :=
  let gone (t : TwinFrame) : Bool := t.fseq == c.fseq || decide (0 < (c.fseq - t.fseq).toNat ∧ (c.fseq - t.fseq).toNat < 2147483648)
  let s := s.updFurrow F.id fun F =>
    { F with
      sels := updWhere (fun x => x.hdr == h) (fun x => { x with chosen := x.chosen.drop 1, far := x.far.filter fun t => !gone t }) F.sels }
  if c.own then
    let more := match F.sels.find? fun x => x.hdr == h with
      | some x => (x.chosen.drop 1).any TwinFrame.own
      | none => false
    let done := ((F.ring? h).map Ring.fetched).getD 0
    s.putHeader F h 4 (if more then s.hidx F h + 1 else done)
  else s

/-- A ring leaves use (R277). -/
def State.dropRing (s : State) (F : Furrow) (h : Nat) : State :=
  (s.putHeader F h 5 0).updFurrow F.id fun F =>
    { F with rings := F.rings.filter (fun r => r.hdr != h), sels := F.sels.filter fun x => x.hdr != h }

/-- A descriptor boundary of a ring: one whose EN has fallen leaves use (R277). -/
def State.ringBoundary (s : State) (fid h : Nat) : State :=
  match s.furrow? fid with
  | none => s
  | some F => if ((F.ring? h).map Ring.closing) = some true then s.dropRing F h else s

/-- HIDX passes a plain descriptor that is done with (R282). -/
def State.passPlain (s : State) (F : Furrow) (h : Nat) : State :=
  let n := s.hidx F h + 1
  (s.putHeader F h 4 n).updRing F.id h fun r => { r with fetched := n }

/-- The last beat of a frame has left: Tally, what stands on the wire (queue, ERR, launch time, first beat in error, data), and HIDX passes
its descriptor (R272, R282). -/
def State.frameSent (s : State) (f : Fin 4) (t : TxFrame) : State :=
  let head : List Byte := [BitVec.ofNat 8 t.queue, bit 8 ((byteAt t.desc 2).getLsbD 1)] ++ bytesAt t.desc 20 10 ++
    bytes16 (BitVec.ofNat 16 ((t.err.map fun e => e / 64).getD 65535))
  let s := s.updPorts f fun P => { P with txOpen := none, sent := [head, t.data] }
  let s := (s.count 0 (f.val * 10 + 7) 1).count 0 (f.val * 10 + 8) t.data.length
  match t.src with
  | none => s.updPorts f fun P => { P with left := P.left.drop 1 }
  | some (fid, h) =>
    match s.furrow? fid with
    | none => s
    | some F =>
      let s := match t.chosen with
        | some c => s.popChosen F h c
        | none => s.passPlain F h
      s.ringBoundary fid h

/-- Beats of the frame on its way leave as far as the credits go (R272). -/
def State.pumpEgress (s : State) (f : Fin 4) : State :=
  match s.fields[f].ports.txOpen with
  | none => s
  | some t =>
    let k := min t.beats s.fields[f].ports.credits
    let s := s.updPorts f fun P => { P with credits := P.credits - k, txOpen := some { t with beats := t.beats - k } }
    if t.beats ≤ k then s.frameSent f t else s

/-- A frame starts (R282). -/
def State.startFrame (s : State) (f : Fin 4) (q : Nat) (src : Option (Nat × Nat)) (chosen : Option TwinFrame) (d data : List Byte)
    (err : Option Nat) : State :=
  let t : TxFrame :=
    { queue := q, src := src, chosen := chosen, desc := d, data := data, err := err, beats := ceilDiv data.length 64 }
  (s.updPorts f fun P => { P with rrQueue := q, txOpen := some t }).pumpEgress f

/-- The frame of a plain descriptor at HIDX starts (R282). -/
def State.startPlain (s : State) (f : Fin 4) (F : Furrow) (h q : Nat) (b : Doorbell) (d : List Byte) : State :=
  match F.framePlace h b d with
  | none => s
  | some a =>
    let n := frameLen h d
    let s := (s.noteDesc f F h (s.hidx F h)).1
    let (t, l, e) := s.readFrame f a n false (wordsSpan a n)
    t.startFrame f q (some (F.id, h)) none d l e

/-- Whether the port is up, clocked and in use (R20, R273). -/
def State.egressUp (s : State) (f : Fin 4) : Bool := s.spUp f && s.strmRuns && s.carries f

/-- The plain descriptor at the head of a queue that is to be discarded, with its furrow and header (R282). -/
def State.discardDue (s : State) (f : Fin 4) (q : Nat) : Option (Furrow × Nat) :=
  match s.egressOf f q with
  | none => none
  | some (F, h) =>
    if (F.ring? h).isNone || (s.fields[f].ports.txOpen.any fun t => t.src == some (F.id, h)) then none
    else
      match s.egressNext F h with
      | some (.inr (b, d)) => if s.plainOk F h b d && !(s.noteDesc f F h (s.hidx F h)).2 then none else some (F, h)
      | _ => none

/-- EGRESS_FRAME_SEND (R272, R282): a descriptor that is to be discarded leaves the queue; otherwise its next frame starts, when it is due, no
frame is on its way, the queue's turn has come and there is a credit. -/
def execEgressFrameSend (f : Fin 4) (q : BitVec 8) (s : State) : Out :=
  .next (
    if !s.egressUp f then s
    else
      match s.discardDue f q.toNat with
      | some (F, h) => (((s.noteDesc f F h (s.hidx F h)).1).discardFrame f F h).ringBoundary F.id h
      | none =>
        if s.fields[f].ports.txOpen.isSome || s.fields[f].ports.credits == 0 || s.nextQueue f != some q.toNat then s
        else
          match s.leftReady f q.toNat, s.egressOf f q.toNat with
          | some l, _ => s.startFrame f q.toNat none none l.desc l.data l.err
          | none, some (F, h) =>
            match s.egressNext F h with
            | none => s
            | some (.inl c) => s.startFrame f q.toNat (some (F.id, h)) (some c) c.desc c.data c.err
            | some (.inr (b, d)) => s.startPlain f F h q.toNat b d
          | none, none => s)

/-- EGRESS_CREDIT_GRANT (R272): one more credit, up to 1,023, while the port is up; a frame on its way goes on. -/
def execEgressCreditGrant (f : Fin 4) (s : State) : Out :=
  .next (if s.spUp f then (s.updPorts f fun P => { P with credits := min 1023 (P.credits + 1) }).pumpEgress f else s)

/-- SPn_UP falls: the credits and the frame on its way are gone (R272). -/
def State.portDown (s : State) (f : Fin 4) : State :=
  s.updPorts f fun P => { P with credits := 0, txOpen := none, rxOpen := none, rxSkip := false, inHeld := 0 }

/-- Egress frames that a furrow has published and the reader has not sent are kept for the source egress when the furrow moves to another
Field (R97): in ring order, up to a frame that passes the selector. n bounds them. -/
def State.leaveFrames (s : State) (f : Fin 4) (fid h : Nat) : Nat → State
  | 0 => s
  | n + 1 =>
    match s.furrow? fid with
    | none => s
    | some F =>
      match s.frameAt F h (s.hidx F h) with
      | none => s
      | some (b, d) =>
        if s.twinRing F h && frameTwin h d && frameSound h (s.frameTop F h) d then s
        else
          let r := s.noteDesc f F h (s.hidx F h)
          match (if s.plainOk F h b d && !r.2 then F.framePlace h b d else none) with
          | none => (r.1.discardFrame f F h).leaveFrames f fid h n
          | some a =>
            let k := frameLen h d
            let (t, l, e) := r.1.readFrame f a k false (wordsSpan a k)
            let t := t.updPorts f fun P => { P with left := P.left ++ [{ queue := F.unitOf h, desc := d, data := l, err := e }] }
            (t.passPlain F h).leaveFrames f fid h n

/-! Doorbells (R276, R277) -/

/-- Bytes of a ring of a header for a SIZE, where SIZE is in its range (R276, R322). -/
def ringBytes (h size : Nat) : Option Nat :=
  if h < 4 ∨ 25 ≤ h then if 12 ≤ size ∧ size ≤ 20 then some (2 ^ size) else none
  else if h = 8 then if 2 ≤ size ∧ size ≤ 8 then some (64 * 2 ^ size) else none
  else if 4 ≤ size ∧ size ≤ 10 then some (32 * 2 ^ size) else none

/-- A ring as its header describes it, resolved at a doorbell's commit (R277); none where resolution fails. -/
def resolveRing (h : Nat) (d : Doorbell) (next : Word) : Option Ring :=
  let w0 := d.words[0]
  let seg : BitVec 3 := bits w0 2 3
  let size := fieldN w0 5 5
  let rsize := fieldN w0 10 5
  let off := d.words[1].toNat
  let roff := d.words[3].toNat
  match ringBytes h size with
  | none => none
  | some n =>
    match resolvePlot d.segs d.priv seg off n true true with
    | none => none
    | some (e, o) =>
      let far := if (isEgress h || isTx h) && rsize != 0 then
          if 12 ≤ rsize ∧ rsize ≤ 20 ∧ roff % 64 = 0 then
            (resolvePlot d.segs d.priv seg roff (2 ^ rsize) true true).map fun r => (r.1, r.2, rsize)
          else none
        else some (0, 0, 0)
      match far with
      | none => none
      | some (re, ro, rs) =>
        if off % 64 ≠ 0 then none
        else some { hdr := h, ext := e, off := o, size := size, rext := re, roff := ro, rsize := rs, fetched := next, pubs := [d], closing := false }

/-- Indices that a doorbell publishes anew: those from `lo` on, below its FIDX; n bounds them. -/
def published (lo hi : Word) : Nat → List Word
  | 0 => []
  | n + 1 => if 0 < (hi - lo).toInt then lo :: published (lo + 1) hi n else []

/-- One TWIN frame becomes a descriptor of the mover's own: the frame descriptor's 32 bytes and the frame, for the partner's selector (R283,
R293). One that cannot be read whole is not sent. -/
def State.exportFrame (s : State) (f t : Fin 4) (F : Furrow) (dfid h : Nat) (i : Word) : State :=
  match s.frameAt F h i with
  | none => s
  | some (b, d) =>
    match (if frameTwin h d && s.plainOk F h b d && !(s.noteDesc f F h i).2 then F.framePlace h b d else none) with
    | none => s
    | some a =>
      let n := frameLen h d
      let (u, l, e) := s.readFrame f a n false (wordsSpan a n)
      if e.isSome then u
      else
        u.updPorts f fun P =>
          { P with
            own := P.own ++ [{ copy := true, fid := F.id, hdr := h, dst := t, dfid := dfid, ord := P.bridgeSeq, len := 32 + n
                               moved := 0, cut := false, data := d ++ l }]
            bridgeSeq := P.bridgeSeq + 1 }

/-- Copies of newly published TWIN frames go to the partner's selector by the mover and the bridge (R283, R325; log 68, DEDUCED). -/
def State.exportTwin (s : State) (f : Fin 4) (fid h : Nat) (lo hi : Word) : State :=
  match s.furrow? fid with
  | none => s
  | some F =>
    match F.twin.bind s.furrow? with
    | none => s
    | some T =>
      match T.home with
      | none => s
      | some t =>
        if t = f ∨ !s.twinRing F h then s
        else (published lo hi 1024).foldl (fun (s : State) (i : Word) => s.exportFrame f t F T.id h i) s

/-- Whether a header is one of the furrow's own: those of drills not named in DRILLS are reserved (R322). -/
def Furrow.ownsHeader (F : Furrow) (h : Nat) : Bool := decide (h < 9) || F.desc.drills.getLsbD ((h - 9) % 16)

/-- Whether a frame of a header's ring is on its way: on the port, or into a drill's FIFO (R277, R324). -/
def State.ringBusy (s : State) (f : Fin 4) (fid h : Nat) : Bool :=
  (s.fields[f].ports.txOpen.any fun t => t.src == some (fid, h)) ||
    (isTx h && match toFin? 16 (h - 9) with
      | some d => !s.fields[f].drills[d].feed.isEmpty
      | none => false)

/-- A ring becomes active, or its resolution fails (R277). -/
def State.activate (s : State) (f : Fin 4) (F : Furrow) (d : Doorbell) : State :=
  let h := d.hdr
  match resolveRing h d (s.hidx F h) with
  | none => s.putHeader F h 5 2
  | some r =>
    let s := s.putHeader F h 5 1
    let s := s.updFurrow F.id fun F => { F with rings := F.rings.filter (fun r => r.hdr != h) ++ [r] }
    let s := if h < 4 then s.updPorts f fun P =>
        { P with merges := P.merges.filter fun m => m.queue != F.desc.ingress.getD h 256 }
      else s
    s.exportTwin f F.id h r.fetched d.words[2]

/-- New work published on an active ring (R277). -/
def State.publish (s : State) (f : Fin 4) (F : Furrow) (r : Ring) (d : Doorbell) : State :=
  let h := d.hdr
  let before := ((r.pubs.getLast?).map fun d => d.words[2]).getD r.fetched
  let hidx := s.hidx F h
  let s := s.updRing F.id h fun r =>
    { r with pubs := (r.pubs.filter fun d => decide (0 < (d.words[2] - hidx).toInt)) ++ [d] }
  s.exportTwin f F.id h before d.words[2]

/-- The effect of one doorbell (R277): a change of EN to 1 activates the ring, a change to 0 ends it at the next packet or descriptor
boundary; with EN 1 it publishes work. -/
def State.ringBell (s : State) (fid : Nat) (d : Doorbell) : State :=
  match s.furrow? fid with
  | none => s
  | some F =>
    let h := d.hdr
    let en := d.words[0].getLsbD 0
    let seen := F.enSeen.contains h
    match F.home with
    | none => s
    | some f =>
      if !F.ownsHeader h then s
      else
        let s := s.updFurrow fid fun F => { F with enSeen := if en then F.enSeen.filter (· ≠ h) ++ [h] else F.enSeen.filter (· ≠ h) }
        match en, seen, F.ring? h with
        | true, false, _ => s.activate f F d
        | true, true, some r => s.publish f F r d
        | true, true, none => s
        | false, _, some _ =>
          if s.ringBusy f fid h then s.updRing fid h fun r => { r with closing := true } else s.dropRing F h
        | false, _, none => s

/-- RING_DOORBELL (R277): the Field takes the furrow's oldest store to a header that it has not yet recognised. -/
def execRingDoorbell (fid : Nat) (hdr : Fin 41) (s : State) : Out :=
  .next (
    match s.furrow? fid with
    | none => s
    | some F =>
      match takeFirst (fun d => d.hdr == hdr.val) F.doorbells with
      | none => s
      | some (d, rest) => (s.updFurrow fid fun F => { F with doorbells := rest }).ringBell fid d)

end Sys2Proof.Machine
end

