-- ==== Sys2Proof/Machine/Tally.lean ====
section
/-! DEFINITION. Tally: counter groups, snapshots, dumps, windows and samples (R469-R473). -/

namespace Sys2Proof.Machine

/-- Primary queues of a Field, ascending (R284, R469). -/
def Field.primaries (F : Field) : List Nat :=
  (List.range 256).filter fun q => F.queueTab.any fun b => (byteAt b 0).toNat == q && byteAt b 1 == 0 && bindMerge b

/-- Counters of a group that are counted one by one; none for an unknown group (R469). Groups 8 and 9 are laid out apart. -/
def groupSize (k : Nat) : Option Nat :=
  match k with
  | 0 => some 40
  | 1 => some 24
  | 2 => some 864
  | 3 => some 20
  | 4 => some 12
  | 5 => some 192
  | 6 => some 768
  | 7 => some 3
  | 8 => some 48
  | 9 => some 0
  | _ => none

/-- Counter values of a group in order (R469). -/
def State.groupValues (s : State) (k : Nat) : List (BitVec 48) :=
  match k with
  | 8 => (allFin 4).flatMap fun f => (List.range 6).flatMap fun p =>
      [BitVec.ofNat 48 (s.fields[f].ports.lastWindow.toList.getD p 0), BitVec.ofNat 48 (s.fields[f].ports.peakWindow.toList.getD p 0)]
  | 9 => (allFin 4).flatMap fun f => s.fields[f].primaries.flatMap fun q =>
      [s.tallyGet 9 (f.val * 512 + q * 2), s.tallyGet 9 (f.val * 512 + q * 2 + 1)]
  | _ => (List.range ((groupSize k).getD 0)).map fun i => s.tallyGet k i

/-- Length of a snapshot of c counters (R470). -/
def snapLen (c : Nat) : Nat := ceilDiv (20 + 8 * c) 64 * 64

/-- A snapshot of a group, padded with zeros (R470). -/
def State.snapshot (s : State) (k : Nat) (seq : Word) : List Byte :=
  let v := s.groupValues k
  let l := [BitVec.ofNat 8 k, 0] ++ bytes16 (BitVec.ofNat 16 v.length) ++ bytes64 s.now ++ bytes32 seq ++
    v.flatMap fun x => bytes64 (x.setWidth 64)
  let l := l ++ bytes32 (crc32cOf l)
  l ++ List.replicate (snapLen v.length - l.length) 0

/-- A read of group 8 sets PEAK to LAST in every Field (R473). -/
def State.restPeaks (s : State) : State :=
  { s with fields := Vector.ofFn fun f : Fin 4 =>
      { s.fields[f] with ports := { s.fields[f].ports with peakWindow := s.fields[f].ports.lastWindow } } }

/-- Configuration of dumps, samples and windows as record 0x0060 gives it (R471). -/
def tallyPeriod (b : List Byte) : Nat := (le16 b 4).toNat
def tallyGroups (b : List Byte) : List Nat := (List.range 10).filter fun k => (le16 b 6).getLsbD k
def tallyEvent (b : List Byte) : Nat := (byteAt b 22).toNat
def tallyFields (b : List Byte) : BitVec 4 := bits (byteAt b 23) 0 4

/-- A record or snapshot joins what waits for the dump ring. -/
def State.dump (s : State) (l : List Byte) : State := s.updDbg fun d => { d with dumpOut := d.dumpOut ++ l }

/-- TALLY_DUMP (R471): the snapshots of the selected groups in order with consecutive SEQ, then the samples that wait (R472). -/
def execTallyDump (s : State) : Out :=
  .next (
    if s.dbg.tallyCfg.isEmpty then s
    else
      let s := if tallyPeriod s.dbg.tallyCfg = 0 then s
        else (tallyGroups s.dbg.tallyCfg).foldl (fun (s : State) (k : Nat) =>
          (s.dump (s.snapshot k s.dbg.tallySeq)).updDbg fun d => { d with tallySeq := d.tallySeq + 1 }) s
      let s := (s.dbg.samples.foldl (fun (s : State) (l : List Byte) => s.dump l) s).updDbg fun d => { d with samples := [] }
      s.pumpDump 16)

/-- Nanoseconds of a bandwidth window; 0, and no record, gives 100 µs (R471; log 78, DESIGN CHOICE). -/
def tallyWindow (b : List Byte) : Nat := 1000 * (if le16 b 20 = 0 then 100 else (le16 b 20).toNat)

/-- Whether a multiple of WINDOW has passed in the time base since a port's window began (R473). -/
def State.windowOver (s : State) (f : Fin 4) (p : Fin 6) : Bool :=
  let w := tallyWindow s.dbg.tallyCfg
  decide (tbNs s.fields[f].ports.winAt[p] / w < tbNs s.now / w)

/-- BANDWIDTH_WINDOW (R473; log 78, DESIGN CHOICE), for one of a Field's six ports: LAST takes the bytes of the completed window, PEAK
the largest; the next window begins. -/
def execBandwidthWindow (f : Fin 4) (p : Fin 6) (s : State) : Out :=
  .next (
    if s.fields[f].freezeWin ∨ !s.windowOver f p then s
    else
      let total := (s.portTotals f)[p]
      s.updPorts f fun P =>
        let last := (total - P.winBase[p]).toNat
        { P with
          lastWindow := P.lastWindow.set p last, peakWindow := P.peakWindow.set p (max P.peakWindow[p] last)
          winBase := P.winBase.set p total, winAt := P.winAt.set p s.now })

/-- A sample record of the dump ring (R472). -/
def sampleRecord (g : Fin 96) (ev fid : Nat) (latency : Nat) (pc : Word) (time : DWord) : List Byte :=
  let l := [0xFF, BitVec.ofNat 8 g.val, BitVec.ofNat 8 ev, 0] ++ bytes16 (BitVec.ofNat 16 fid) ++
    bytes16 (BitVec.ofNat 16 (if ev = 4 then min latency 65535 else 0)) ++ bytes32 pc ++ bytes64 time ++ List.replicate 8 0
  l ++ bytes32 (crc32cOf l)

/-- TALLY_SAMPLE (R466, R472): the event's word gives a SAMPLE packet, where its furrow is traced, and a ring record; a sample is dropped when
64 wait. -/
def execTallySample (g : Fin 96) (pc : Word) (latency : Nat) (s : State) : Out :=
  .next (
    let b := s.dbg.tallyCfg
    let ev := tallyEvent b
    if b.isEmpty ∨ ev = 0 ∨ (tallyFields b).getLsbD (fieldOf g).val = false then s
    else
      let fid := s.onEngine g
      let c := s.ctxOn g
      let w : DWord := (BitVec.ofNat 16 (if ev = 4 then min latency 65535 else 0) ++ 0#8 ++ BitVec.ofNat 8 ev : BitVec 32).setWidth 64
      let s := s.emitFurrow g fid c (packet 8 g.val fid pc [w, s.now])
      if 64 ≤ s.dbg.samples.length then s
      else (s.updDbg fun d => { d with samples := d.samples ++ [sampleRecord g ev fid latency pc s.now] }).count 7 2 1)

end Sys2Proof.Machine
end

