-- ==== Sys2Proof/Machine/Items.lean ====
section
/-! DEFINITION. Configuration records, scopes and the seal image (R52, R55, R274, R300, R301, R338, R360, R371, R389-R392, R422,
R471). -/

namespace Sys2Proof.Machine

/-! Records (R52) -/

/-- Length of the key at the start of a record's body (R52, R300, R338, R360, R422). -/
def keyLen (ty : Nat) : Nat :=
  match ty with
  | 0x0020 => 1
  | 0x0030 => 2
  | 0x0040 => 1
  | 0x0050 => 0
  | 0x00F0 => 128
  | 0x00F3 => 1
  | _ => 4

/-- Key of an item. -/
def Item.key (x : Item) : List Byte := bytesAt x.body 0 (keyLen x.ty)

/-- The record form of an item: type, length, CRC of the body, body (R52). -/
def Item.record (x : Item) : List Byte :=
  bytes16 (BitVec.ofNat 16 x.ty) ++ bytes16 (BitVec.ofNat 16 (8 + x.body.length)) ++ bytes32 (crc32cOf x.body) ++ x.body

/-- Whether a watchdog's period lies in its range (R371). -/
def wdPeriodOk (x period : Nat) : Bool :=
  if x = 0 then decide (100 ≤ period ∧ period ≤ 10000) else decide (1 ≤ period ∧ period ≤ 1000)

/-- Whether run registers of a record 0x0022 are in range (R309, R310, R313). -/
def runRecordOk (b : List Byte) : Bool :=
  let win := le32 b 4
  let mode := le32 b 8
  let ddiv := le32 b 12
  fieldN win 15 17 == 0 && decide (fieldN win 0 10 + fieldN win 10 5 ≤ 1023) && !mode.getLsbD 23 &&
    (bits mode 0 8 &&& bits mode 8 8 : BitVec 8) == 0 && fieldN ddiv 20 12 != 0 && (!mode.getLsbD 21 || trackOk ddiv)

/-- Whether a Tally record is in range (R471). -/
def tallyRecordOk (b : List Byte) : Bool :=
  let ev := tallyEvent b
  let need := ((tallyGroups b).map fun k => snapLen ((groupSize k).getD 0)).sum
  le32 b 0 == 0 && decide (tallyPeriod b ≤ 10000) && fieldN (le16 b 6) 10 6 == 0 && fieldN (dumpAddr b) 0 12 == 0 &&
    dumpLen b % 4096 == 0 && (tallyPeriod b == 0 || decide (need ≤ dumpLen b)) && decide ((le16 b 20).toNat ≤ 1000) &&
    decide (ev ≤ 4 ∨ (8 ≤ ev ∧ ev ≤ 15)) && fieldN (byteAt b 23) 4 4 == 0 &&
    (ev == 0 || decide (1 ≤ (le32 b 24).toNat ∧ (le32 b 24).toNat ≤ 16777216)) && zeroBytes b 28 4

/-- Whether a record's body has its length, its ranges and its reserved bytes in order; ranges of a zone are checked at COMMIT
(R339). -/
def Item.ok (x : Item) : Bool :=
  let b := x.body
  let n := b.length
  match x.ty with
  | 0x0010 =>
    let merge := bindMerge b
    n == 12 && decide ((byteAt b 1).toNat ≤ 1) && zeroBytes b 2 2 && decide (64 ≤ bindMax b ∧ bindMax b ≤ 9216) &&
      fieldN (byteAt b 6) 2 6 == 0 && (!merge || byteAt b 1 == 0) && (!bindTwin b || byteAt b 1 == 1) &&
      (merge || (zeroBytes b 7 3)) && bindSeqOff b % 2 == 0 && zeroBytes b 10 2
  | 0x0020 =>
    n == 8 && decide ((byteAt b 0).toNat ≤ 31) && decide ((byteAt b 1).toNat ≤ 15 ∨ byteAt b 1 = 0xFF) &&
      decide ((byteAt b 2).toNat ≤ 10) && decide ((byteAt b 3).toNat ≤ 2) && zeroBytes b 4 4
  | 0x0021 =>
    let first := (le16 b 0).toNat
    let count := (le16 b 2).toNat
    n == 4 + 4 * count && decide (1 ≤ count ∧ count ≤ 256 ∧ first + count ≤ 1024)
  | 0x0022 => n == 20 && decide ((byteAt b 0).toNat ≤ 15) && zeroBytes b 1 3 && runRecordOk b
  | 0x0030 => decide (1 ≤ (byteAt b 2).toNat ∧ (byteAt b 2).toNat ≤ 8) && n == 16 + 12 * (byteAt b 2).toNat
  | 0x0040 =>
    let ctl := le32 b 4
    n == 16 && decide ((byteAt b 0).toNat ≤ 27) && decide ((byteAt b 1).toNat ≤ 1) && fieldN (byteAt b 3) 4 4 == 0 &&
      fieldN ctl 24 8 == 0 && fieldN ctl 1 2 != 3 && decide (fieldN ctl 4 4 ≤ 5) &&
      (!(byteAt b 0).getLsbD 0 || !ctl.getLsbD 3) && zeroBytes b 8 8
  | 0x0041 =>
    n == 8 && decide ((byteAt b 0).toNat ≤ 4) && zeroBytes b 1 3 && fieldN (le32 b 4) 17 15 == 0 &&
      wdPeriodOk (byteAt b 0).toNat (le16 b 4).toNat
  | 0x0050 =>
    n == 12 && decide ((byteAt b 1).toNat ≤ 1) && decide (1 ≤ (byteAt b 2).toNat ∧ (byteAt b 2).toNat ≤ 8) &&
      le16 b 6 != 0 && zeroBytes b 8 4
  | 0x0060 => n == 32 && tallyRecordOk b
  | _ => false

/-- Records of a buffer from an offset on, with their offsets; or the error code and offset of the first that fails (R52, R68). -/
def parseRecords (l : List Byte) (o : Nat) : Nat → Except (Nat × Nat) (List (Nat × Item))
  | 0 => .ok []
  | n + 1 =>
    if l.length ≤ o then .ok []
    else
      let len := (le16 l (o + 2)).toNat
      if l.length < o + 8 ∨ len < 8 ∨ l.length < o + len then .error (eArg, o)
      else
        let x : Item := { ty := (le16 l o).toNat, body := bytesAt l (o + 8) (len - 8) }
        if crc32cOf x.body ≠ le32 l (o + 4) then .error (eBufCrc, o)
        else if !x.ok then .error (eArg, o)
        else (parseRecords l (o + len) n).map fun r => (o, x) :: r

/-! Scopes (R389) -/

/-- Number of the block scope. -/
def blockScope : Nat := 4

/-- The Field that a furrow runs in when its FIELD_MASK names exactly one. -/
def Desc.oneField (d : Desc) : Option (Fin 4) :=
  (allFin 4).find? fun f => d.fieldMask == (1#4 <<< f.val)

/-- The twin Field of a Field: that of the partners of its twinned DRILL furrows (R338, R339). -/
def State.twinField (s : State) (f : Nat) : Option (Fin 4) :=
  (s.furrows.find? fun F => F.desc.cls == 1 && F.twin.isSome && (F.desc.oneField.map Fin.val) == some f).bind fun F =>
    (F.twin.bind s.furrow?).bind fun T => T.desc.oneField

/-- Scopes of a record; a record of a queue, pin, program or drill belongs to each Field of the session (log 34, DEDUCED). -/
def State.scopesOf (s : State) (mask : BitVec 4) (x : Item) : List Nat :=
  match x.ty with
  | 0x0030 =>
    let f := (byteAt x.body 4).toNat
    match s.twinField f with
    | some t => [f, t.val]
    | none => [f]
  | 0x0040 => [blockScope]
  | 0x0041 => if byteAt x.body 0 = 0 then [blockScope] else [(byteAt x.body 0).toNat - 1]
  | 0x0050 => [0]
  | 0x0060 => [blockScope]
  | _ => (List.range 4).filter fun f => mask.getLsbD f

/-- An item put in place of one of the same scope, type and key. -/
def putItem (l : List (Nat × Item)) (c : Nat) (x : Item) : List (Nat × Item) :=
  l.filter (fun e => !(e.1 == c && e.2.ty == x.ty && e.2.key == x.key)) ++ [(c, x)]

/-- Items of a scope and type. -/
def itemsOf (l : List (Nat × Item)) (c ty : Nat) : List Item := (l.filter fun e => e.1 == c && e.2.ty == ty).map Prod.snd

/-- Words of a program record (R301). -/
def progRange (b : List Byte) : Nat × Nat := ((le16 b 0).toNat, (le16 b 2).toNat)

/-- Whether a program record of a scope overlaps a staged one of a different key (R301). -/
def progOverlaps (l : List (Nat × Item)) (c : Nat) (x : Item) : Bool :=
  x.ty == 0x0021 && (itemsOf l c 0x0021).any fun y =>
    y.key != x.key && decide ((progRange y.body).1 < (progRange x.body).1 + (progRange x.body).2 ∧
      (progRange x.body).1 < (progRange y.body).1 + (progRange y.body).2)

/-! Items that the block holds as state (R389) -/

/-- Customer microcode of a Field: image CRC and CS_VER words 1 and 2. -/
def State.custItem (s : State) (f : Fin 4) : List Item :=
  if s.fields[f].cust.present then
    [{ ty := 0x00F2, body := bytes32 s.fields[f].cust.crc ++ bytes32 (s.csVer f 1) ++ bytes32 (s.csVer f 2) }]
  else []

/-- A declared rate of domain d. -/
def State.rateItem (s : State) (d : Fin 5) : List Item :=
  if s.sower.ratesDeclared[d] then
    [{ ty := 0x00F3, body := [BitVec.ofNat 8 d.val, 0, 0, 0] ++ bytes32 (nw s.sower.rates[d]) }]
  else []

/-- Descriptors, plans, microcode and rates as a commit would take them for a scope. -/
def State.heldItems (s : State) (c : Nat) : List Item :=
  match toFin? 4 c with
  | some f =>
    (if s.sealed then
      (s.furrows.filter fun F => F.desc.fieldMask.getLsbD c).map fun F => { ty := 0x00F0, body := F.desc.raw : Item }
    else []) ++ s.custItem f ++ s.rateItem ⟨c % 5, by omega⟩
  | none =>
    (if s.sealed then s.sower.plans.map fun p => { ty := 0x00F1, body := p.2 : Item } else []) ++ s.rateItem 4

/-- The configuration as it will stand after a commit of a mask (R392): scopes outside it keep their committed items, staged items of
the mailbox's session replace the others. -/
def State.asCommitted (s : State) (mb : Fin 16) (mask : BitVec 4) : List (Nat × Item) :=
  let inMask (c : Nat) : Bool := c == blockScope || mask.getLsbD c
  let old := s.sup.conf.filter fun e => !(inMask e.1 && decide (0x00F0 ≤ e.2.ty))
  let staged := ((s.sup.sessions.find? fun x => x.mb == mb).map Session.items).getD []
  let l := (staged.filter fun e => inMask e.1).foldl (fun l e => putItem l e.1 e.2) old
  let scopes := (List.range 5).filter inMask
  l ++ scopes.flatMap fun c => (s.heldItems c).map fun x => (c, x)

/-! Readback (R389) -/

/-- The value of WDx_CTL with FREEZE as 0. -/
def Watchdog.sealed (w : Watchdog) : Word := (bit 1 w.en ++ w.period : BitVec 17).setWidth 32

/-- A committed item as the sealer reads it back from a Field that holds its configuration; bindings and pins are taken whole from
the tables of the units. -/
def State.readItem (s : State) (f : Fin 4) (x : Item) : Item :=
  match x.ty with
  | 0x0021 =>
    let (first, count) := progRange x.body
    { x with body := x.body.take 4 ++ (List.range count).flatMap fun i => bytes32 (mapGet 0 (first + i) s.fields[f].prog) }
  | 0x0041 => { x with body := x.body.take 4 ++ bytes32 s.almanac.wdf[f].sealed }
  | 0x00F2 => { x with body := x.body.take 4 ++ bytes32 (s.csVer f 1) ++ bytes32 (s.csVer f 2) }
  | _ => x

/-- Items of a scope as a sealer pass takes them (R389). A Field that holds no applied configuration is taken from the committed copy, as one
that is Off or Resetting, and so are the queue bindings of one that is Out, whose queues are unbound (R20; log 35, DEDUCED). -/
def State.passItems (s : State) (c : Nat) : List Item :=
  let l := (s.sup.conf.filter fun e => e.1 == c && decide (e.2.ty ≠ 0x0060)).map Prod.snd
  match toFin? 4 c with
  | some f =>
    let F := s.fields[f]
    if F.st = .off ∨ F.st = .resetting ∨ !F.pinsLive then l
    else
      (if F.st = .out then l.filter fun x => x.ty == 0x0010 else F.queueTab.map fun b => { ty := 0x0010, body := b : Item }) ++ F.pinTab.map (fun b => { ty := 0x0020, body := b : Item }) ++
        (l.filter fun x => decide (x.ty ≠ 0x0010 ∧ x.ty ≠ 0x0020)).map (s.readItem f)
  | none =>
    (l.filter fun x => decide (x.ty ≠ 0x00F1)).map (fun x => if x.ty = 0x0041 then
      { x with body := x.body.take 4 ++ bytes32 s.almanac.wds.sealed } else x) ++
      if l.any fun x => x.ty == 0x00F1 then s.sower.plans.map fun p => { ty := 0x00F1, body := p.2 : Item } else []

/-! The seal (R390) -/

/-- Order of items in a scope image: by type, then by body bytes. -/
def itemLe (a b : Item) : Bool := if a.ty = b.ty then bytesLe a.body b.body else decide (a.ty ≤ b.ty)

/-- A scope image. -/
def scopeImage (c : Nat) (l : List Item) : List Byte :=
  [BitVec.ofNat 8 c, 0, 0, 0] ++ bytes32 (nw l.length) ++ (sortBy itemLe l).flatMap Item.record

/-- The seal and the five scope parts of scope images. -/
def sealOf (img : Nat → List Byte) : Word × Vector Word 5 :=
  (crc32cOf ((List.range 5).flatMap img), Vector.ofFn fun c : Fin 5 => crc32cOf (img c.val))

/-- Scope images of a configuration; Tally records do not enter the seal (R471). -/
def imagesOf (l : List (Nat × Item)) (c : Nat) : List Byte :=
  scopeImage c ((l.filter fun e => e.1 == c && decide (e.2.ty ≠ 0x0060)).map Prod.snd)

/-- The seal of a sealer pass. -/
def State.passSeal (s : State) : Word × Vector Word 5 := sealOf fun c => scopeImage c (s.passItems c)

/-- The seal of a configuration. -/
def confSeal (l : List (Nat × Item)) : Word × Vector Word 5 := sealOf (imagesOf l)

/-- extend(m, d) (R416): the register's bytes big-endian, then the digest's. -/
def extendMeas (m d : BitVec 384) : BitVec 384 :=
  Config.sha384 (digestBytes m ++ digestBytes d)

/-- A measurement register extended. -/
def State.extend (s : State) (i : Fin 8) (d : BitVec 384) : State :=
  s.updSup fun u => { u with meas := u.meas.set i (extendMeas u.meas[i] d) }

/-- The seal as MEAS7 takes it: 4 bytes padded with zeros (R416). -/
def sealDigest (w : Word) : BitVec 384 := (byteAt (bytes32 w) 0 ++ byteAt (bytes32 w) 1 ++ byteAt (bytes32 w) 2 ++ byteAt (bytes32 w) 3 ++ (0 : BitVec 352) : BitVec 384)

end Sys2Proof.Machine
end

