-- ==== Sys2Proof/Machine/Twins.lean ====
section
/-! DEFINITION. Egress selectors of twin pairs and the drill feeders (R86, R87, R283, R324, R325). -/

namespace Sys2Proof.Machine

/-! Selectors (R86) -/

/-- A selector before its first frame. -/
def Selector.start (h : Nat) : Selector :=
  { hdr := h, remote := false, streak := 0, lastLocal := none, lastSeq := none, noneRun := false, chosen := [], far := [] }

/-- The selector of a header. -/
def Furrow.selOf (F : Furrow) (h : Nat) : Selector := (F.sels.find? fun x => x.hdr == h).getD (Selector.start h)

/-- A selector put in its place. -/
def State.putSel (s : State) (fid : Nat) (x : Selector) : State :=
  s.updFurrow fid fun F => { F with sels := F.sels.filter (fun y => y.hdr != x.hdr) ++ [x] }

/-- Serial order of frame numbers: a precedes b (R86). -/
def seqBefore (a b : Word) : Bool := decide (0 < (b - a).toNat ∧ (b - a).toNat < 2147483648)

/-- Whether a frame number has been decided already. -/
def Selector.past (x : Selector) (n : Word) : Bool :=
  match x.lastSeq with
  | some l => n == l || seqBefore n l
  | none => false

/-- Whether a furrow's side is healthy (R86): RUNNING or MOVING, its engine neither Stuck nor Retired, its Field In service, no
unhealthy mark in its header. -/
def State.sideHealthy (s : State) (F : Furrow) (h : Nat) : Bool :=
  (F.st == .running || F.st == .moving) &&
    (match F.engine with
      | some g => s.engines[g].st != .stuck && s.engines[g].st != .retired
      | none => false) &&
    (match F.home with
      | some f => s.fields[f].st == .inService
      | none => false) &&
    !(s.header F h 0).getLsbD 1

/-- Whether a frame's decision time has come: DUE less SEL_MARGIN, in microseconds (R74, R86). -/
def State.decideNow (s : State) (F : Furrow) (due : DWord) : Bool := decide (tbNs due ≤ tbNs s.now + F.desc.selMargin * 1000)

/-- HIDX passes the local descriptors that are done with, unless a chosen local frame still waits. -/
def State.passLocal (s : State) (F : Furrow) (h : Nat) (x : Selector) (next : Word) : State :=
  if x.chosen.any TwinFrame.own then s else s.putHeader F h 4 next

/-- Descriptors at the head of a twin ring that cannot be decided on leave it: unsound ones, unresolved or refused ones, and frames
that come too late; n bounds them. -/
def State.skipLocal (s : State) (f : Fin 4) (fid h : Nat) : Nat → State
  | 0 => s
  | n + 1 =>
    match s.furrow? fid with
    | none => s
    | some F =>
      match F.ring? h with
      | none => s
      | some r =>
        match s.frameAt F h r.fetched with
        | none => s
        | some (b, d) =>
          if !frameTwin h d then s
          else
            let note := s.noteDesc f F h r.fetched
            let ok := s.plainOk F h b d && !note.2
            let late := (F.selOf h).past (frameSeq h d)
            if ok && !late then s
            else
              let s := note.1.updRing fid h fun r => { r with fetched := r.fetched + 1 }
              let s := s.passLocal F h (F.selOf h) (r.fetched + 1)
              let s := if ok then s
                else if isTx h then s.count 5 ((f.val * 16 + F.unitOf h) * 3) 1 else s.count 0 (f.val * 10 + 9) 1
              s.skipLocal f fid h n

/-- The local frame at the head of a twin ring, read out: what its readers found, and the frame. -/
def State.localHead (s : State) (f : Fin 4) (F : Furrow) (h : Nat) : Option (State × TwinFrame) :=
  match F.ring? h with
  | none => none
  | some r =>
    match s.frameAt F h r.fetched with
    | none => none
    | some (b, d) =>
      match F.framePlace h b d with
      | none => none
      | some a =>
        if frameTwin h d then
          let n := frameLen h d
          let (t, l, e) := (s.noteDesc f F h r.fetched).1.readFrame f a n (isTx h) (wordsSpan a n)
          some (t, { own := true, fseq := frameSeq h d, due := frameDue h d, place := 0, desc := d, data := l, err := e })
        else none

/-- The frame number to decide: the earliest of the frames whose decision time has come, otherwise the one after the last (R86). -/
def decideSeq (x : Selector) (l : List TwinFrame) : Option Word :=
  match bestOf (fun a b : TwinFrame => seqBefore a.fseq b.fseq) (l.filter fun t => !x.past t.fseq) with
  | some t => some t.fseq
  | none => x.lastSeq.map (· + 1)

/-- What the selector emits (R86): 0 local, 1 remote, 2 neither; and its state after it, remote or not. `streak` is the run of
local frames in time, this one included. In REMOTE a local copy before the sixteenth in time with no remote copy has no row of R86's table:
it counts as neither copy (log 68, DESIGN CHOICE). -/
def selectorChoice (remote here far : Bool) (streak : Nat) : Nat × Bool :=
  if remote then
    if here && decide (16 ≤ streak) then (0, false) else if far then (1, true) else (2, true)
  else if here then (0, false)
  else if far then (1, true)
  else (2, false)

/-- A frame of zeros as long as the last one fed, in the place of frame number k (R86, R325). -/
def zeroFrame (k : Word) (n : Nat) : TwinFrame :=
  { own := false, fseq := k, due := 0, place := 0, desc := [], data := List.replicate n 0, err := none }

/-- LEN of the last frame fed on a TX header's ring (R325). -/
def State.lastFed (s : State) (f : Fin 4) (h : Nat) : Nat :=
  match toFin? 16 (h - 9) with
  | some d => s.fields[f].drills[d].lastFrame
  | none => 0

/-- The decision on a frame number (R86, R283): choice, Tally, records and events. The remote records up to it are freed when the chosen
frame has been sent, and at once where none is. -/
def State.decideFrame (s : State) (f : Fin 4) (F : Furrow) (h : Nat) (mine : Option TwinFrame) (n : Word) : State :=
  let x := F.selOf h
  let mine := mine.filter fun t => t.fseq == n
  let here := mine.isSome && s.sideHealthy F h
  let far := x.far.find? fun t => t.fseq == n
  let streak := if here then (if x.lastLocal = some (n - 1) then min 16 (x.streak + 1) else 1) else 0
  let (k, remote) := selectorChoice x.remote here far.isSome streak
  let pick : List TwinFrame := match k with
    | 0 => mine.toList
    | 1 => (far.map fun t => { t with own := false }).toList
    | _ => if isTx h && decide (0 < s.lastFed f h) then [zeroFrame n (s.lastFed f h)] else []
  let y : Selector :=
    { x with
      remote := remote, streak := streak, lastLocal := if here then some n else x.lastLocal, lastSeq := some n
      noneRun := k == 2, chosen := x.chosen ++ pick
      far := if pick.isEmpty then x.far.filter fun t => !(t.fseq == n || seqBefore t.fseq n) else x.far }
  let s := s.putSel F.id y
  let s := match mine, F.ring? h with
    | some _, some r =>
      let s := s.updRing F.id h fun r => { r with fetched := r.fetched + 1 }
      s.passLocal F h y (r.fetched + 1)
    | _, _ => s
  let s := s.count 4 (f.val * 3 + k) 1
  let s := if k = 2 ∧ !x.noneRun then s.log 3 2 (some f) (F.unitOf h) n 0 else s
  if remote = x.remote then s
  else (s.log 3 1 (some f) (F.unitOf h) n (nw remote.toNat)).raise 2 f.val

/-- TWIN_SELECTOR_DECISION (R86, R283, R325). -/
def execTwinSelectorDecision (f : Fin 4) (hdr : Fin 41) (fid : Nat) (s : State) : Out :=
  .next (
    let h := hdr.val
    match s.furrow? fid with
    | none => s
    | some F0 =>
      if F0.home ≠ some f ∨ !s.twinRing F0 h ∨ (F0.ring? h).isNone ∨ !s.carries f ∨ !(isEgress h || isTx h) then s
      else
        let s := s.skipLocal f fid h 1024
        let F := (s.furrow? fid).getD F0
        let x := F.selOf h
        let r := s.localHead f F h
        let due (t : TwinFrame) : Bool := s.decideNow F t.due
        let mine := (r.map Prod.snd).filter due
        match decideSeq x (mine.toList ++ x.far.filter due) with
        | none => s
        | some n =>
          let t := match r with
            | some (t, m) => if due m ∧ m.fseq = n then t else s
            | none => s
          t.decideFrame f F h mine n)

/-- The first place of n bytes in a remote area that no record takes (R283). -/
def farPlace (l : List TwinFrame) (size n : Nat) : Option Nat :=
  let used (t : TwinFrame) : Nat := ceilDiv (32 + t.data.length) 64 * 64
  ((List.range (size / 64)).map fun k => 64 * k).find? fun a =>
    decide (a + n ≤ size) && !(l.any fun t => decide (t.place < a + n ∧ a < t.place + used t))

/-- A copy becomes a record in the remote area of the local twin's header; without room it is dropped and counts as absent (R283). -/
def State.storeCopy (s : State) (f : Fin 4) (F : Furrow) (h : Nat) (desc data : List Byte) : State :=
  match F.ring? h with
  | none => s
  | some r =>
    if F.home ≠ some f ∨ !s.twinRing F h ∨ r.rsize = 0 then s
    else
      let x := F.selOf h
      let l := recordBytes (bytesAt desc 0 32) data
      match farPlace x.far (2 ^ r.rsize) l.length, F.plotAddr r.rext r.roff with
      | some a, some base =>
        if !s.rangeOk F base (2 ^ r.rsize) then s
        else
          let t : TwinFrame :=
            { own := false, fseq := frameSeq h desc, due := frameDue h desc, place := a, desc := bytesAt desc 0 32
              data := data, err := none }
          (s.plotWrite f (base + a) l).putSel F.id { x with far := x.far ++ [t] }
      | _, _ => s

/-- Whether a descriptor of a mover's own is a copy for a header of a furrow that has crossed the bridge whole, in its turn (R13, R283). -/
def Ports.copyDone (P : Ports) (f : Fin 4) (fid h : Nat) (o : OwnJob) : Bool :=
  o.copy && o.dst == f && o.dfid == fid && o.hdr == h && !o.cut && decide (o.len ≤ o.moved) && !(P.behind f o.ord)

/-- REMOTE_TWIN_COPY_ARRIVAL (R283): a copy for the header that has crossed the bridge whole, in its turn, reaches the selector of its
Field. -/
def execRemoteTwinCopyArrival (f : Fin 4) (fid : Nat) (hdr : Fin 41) (src : Fin 4) (ord : Nat) (s : State) : Out :=
  .next (
    match s.fields[src].ports.own.find? fun o => o.ord == ord && s.fields[src].ports.copyDone f fid hdr.val o, s.furrow? fid with
    | some o, some F =>
      let s := s.updPorts src fun P => { P with own := P.own.filter fun p => p.ord != o.ord }
      s.storeCopy f F hdr.val (o.data.take 32) (o.data.drop 32)
    | _, _ => s)

/-! Drill feeders (R324, R325) -/

/-- Words of a frame enter the TX FIFO while it has room for all four words of a Plot word; n bounds them (R324). -/
def Drill.push (d : Drill) : Nat → Drill
  | 0 => d
  | n + 1 =>
    if d.feed.isEmpty ∨ 32 < d.txFifo.length + 4 then d
    else Drill.push { d with txFifo := d.txFifo ++ d.feed.take 4, feed := d.feed.drop 4 } n

/-- A drill's frame begins to enter its FIFO (R324, R325). -/
def State.beginFeed (s : State) (f : Fin 4) (d : Fin 16) (l : List Byte) (chosen : Bool) : State :=
  s.updDrill f d fun D => { D with feed := wordsAt l 0 (l.length / 4), lastFrame := l.length, feedChosen := chosen }

/-- The TX feeder takes its next frame: one that the selector chose, or the descriptor at HIDX; bad descriptors are discarded, a
refused range makes no transfer (R249, R324). -/
def State.nextFeed (s : State) (f : Fin 4) (d : Fin 16) (F : Furrow) : State :=
  let h := 9 + d.val
  match F.chosenOf h with
  | some c => if s.dueNow c.due then s.beginFeed f d c.data true else s
  | none =>
    match s.frameAt F h (s.hidx F h) with
    | none => s
    | some (b, w) =>
      let sound := frameSound h (s.frameTop F h) w
      let note := s.noteDesc f F h (s.hidx F h)
      if s.twinRing F h && frameTwin h w && sound then s
      else
        match (if sound && !note.2 then F.framePlace h b w else none) with
        | none => (note.1.discardFrame f F h).ringBoundary F.id h
        | some a =>
          if !s.dueNow (frameDue h w) || !s.rangeOk F a (frameLen h w) then s
          else
            let n := frameLen h w
            let (t, l, _) := note.1.readFrame f a n true (wordsSpan a n)
            t.beginFeed f d l false

/-- Words enter the FIFO, and HIDX passes the descriptor with the frame's last word (R324). -/
def State.pushFeed (s : State) (f : Fin 4) (d : Fin 16) (F : Furrow) : State :=
  let h := 9 + d.val
  if s.fields[f].drills[d].feed.isEmpty then s
  else
    let s := s.updDrill f d fun D => D.push 8
    let D := s.fields[f].drills[d]
    if !D.feed.isEmpty then s
    else
      let s := if D.feedChosen then
          match F.chosenOf h with
          | some c => s.popChosen F h c
          | none => s
        else s.passPlain F h
      s.ringBoundary F.id h

/-- TX_FEEDER_FRAME (R324): the frame in progress, or the next one that is due, moves into the TX FIFO. -/
def execTxFeederFrame (f : Fin 4) (d : Fin 16) (s : State) : Out :=
  .next (
    match s.drillFurrow f d with
    | none => s
    | some F =>
      if !s.fields[f].drills[d].feedOn || (F.ring? (9 + d.val)).isNone then s
      else
        let s := if s.fields[f].drills[d].feed.isEmpty then s.nextFeed f d F else s
        s.pushFeed f d ((s.furrow? F.id).getD F))

/-- Words of the RX FIFO written into the RX ring while it has room for a whole Plot word; n bounds them (R324). -/
def State.drainRx (s : State) (f : Fin 4) (d : Fin 16) (F : Furrow) (size base : Nat) : Nat → State
  | 0 => s
  | n + 1 =>
    let h := 25 + d.val
    let hidx := s.hidx F h
    match s.fields[f].drills[d].rxFifo with
    | [] => s
    | w :: l =>
      if size < (hidx - s.fidx F h).toNat + 16 then s
      else
        let s := s.updDrill f d fun D => { D with rxFifo := l }
        let s := s.plotWrite f (base + hidx.toNat % size) (bytes32 w)
        (s.putHeader F h 4 (hidx + 4)).drainRx f d F size base n

/-- RX_FEEDER_TRANSFER (R324). -/
def execRxFeederTransfer (f : Fin 4) (d : Fin 16) (s : State) : Out :=
  .next (
    match s.drillFurrow f d with
    | none => s
    | some F =>
      match F.ring? (25 + d.val) with
      | none => s
      | some r =>
        match F.plotAddr r.ext r.off with
        | none => s
        | some a =>
          if !s.fields[f].drills[d].feedOn || !s.rangeOk F a (2 ^ r.size) then s
          else s.drainRx f d F (2 ^ r.size) a 32)

end Sys2Proof.Machine
end

