-- ==== Sys2Proof/Machine/Furrows.lean ====
section
/-! DEFINITION. The furrow commands of Jipeas (R57, R74-R78, R85, R98, R492, R275, R325, R327). -/

namespace Sys2Proof.Machine

/-! The descriptor (R74, R75) -/

/-- The furrow descriptor in 128 bytes. -/
def descOf (l : List Byte) : Desc :=
  { cls := (byteAt l 2).toNat, restartable := (byteAt l 3).getLsbD 0, pin := (byteAt l 3).getLsbD 1
    twinOf := (le16 l 4).toNat, fieldMask := bits (byteAt l 6) 0 4, priority := fieldN (byteAt l 7) 0 3
    demand := (le16 l 8).toNat, workset := (le16 l 10).toNat, codeLen := (le32 l 12).toNat, codeAddr := le64 l 16
    codeCrc := le32 l 24, entry := (le32 l 28).toNat, ingress := (bytesAt l 32 4).map BitVec.toNat
    egress := (bytesAt l 36 4).map BitVec.toNat, drills := le16 l 40
    selMargin := if (le16 l 42).toNat = 0 then 50 else (le16 l 42).toNat
    fabBase := (le64 l 48).toNat, fabLen := (le64 l 56).toNat, param := bytesAt l 64 60, raw := bytesAt l 0 128 }

/-- TWIN_OF of a furrow without a twin. -/
def noTwin : Nat := 0xFFFF

/-- Ranges of a descriptor with the offset each failure reports, in rising order (R74-R76). -/
def descRanges (l : List Byte) : List (Nat × Bool) :=
  let d := descOf l
  let queues := d.cls == 0 || d.cls == 1
  let q (o : Nat) : Nat × Bool := (o, queues || byteAt l o == 0xFF)
  [(0, le16 l 0 == 1), (2, decide (d.cls ≤ 3)), (3, fieldN (byteAt l 3) 2 6 == 0),
    (5, le16 l 4 == 0xFFFF || fieldN (byteAt l 5) 4 4 == 0),
    (6, fieldN (byteAt l 6) 4 4 == 0 && d.fieldMask != 0 && (d.cls != 1 || d.oneField.isSome)),
    (7, fieldN (byteAt l 7) 3 5 == 0), (8, decide (1 ≤ d.demand ∧ d.demand ≤ 1000)),
    (10, decide (1 ≤ d.workset ∧ d.workset ≤ 4096)), (12, d.codeLen % 4 == 0 && decide (d.codeLen ≤ d.workset * 1024)),
    (28, d.entry % 4 == 0 && decide (d.entry < d.codeLen))] ++
    (List.range 8).map (fun i => q (32 + i)) ++
    [(40, if d.cls = 1 then d.drills != 0 else d.drills == 0),
      (42, le16 l 42 == 0 || decide (10 ≤ (le16 l 42).toNat ∧ (le16 l 42).toNat ≤ 1000)),
      (44, byteAt l 44 == 0), (45, byteAt l 45 == 0), (46, byteAt l 46 == 0), (47, byteAt l 47 == 0),
      (56, d.fabLen == 0 || decide (d.fabBase + d.fabLen ≤ 0x0000FFFF00000000))]

/-- Offset of the first bad byte of a descriptor (R75). -/
def descBad (l : List Byte) : Option Nat := ((descRanges l).find? fun r => !r.2).map Prod.fst

/-- The twin rules between a descriptor and the furrow it names (R85). -/
def State.twinOk (s : State) (d : Desc) : Bool :=
  if d.twinOf = noTwin then true
  else
    match s.furrow? d.twinOf with
    | none => false
    | some T =>
      d.cls == T.desc.cls && decide (d.cls ≤ 2) && d.oneField.isSome && T.desc.oneField.isSome &&
        d.oneField != T.desc.oneField && d.codeCrc == T.desc.codeCrc && T.twin.isNone

/-- Field masks: held by another mailbox's session, and covered by the mailbox's own (R55). -/
def State.foreignMask (s : State) (mb : Fin 16) : BitVec 4 :=
  (s.sup.sessions.filter fun x => x.mb != mb).foldl (fun m x => m ||| x.mask) 0

def State.ownMask (s : State) (mb : Fin 16) : BitVec 4 :=
  (s.sup.sessions.filter fun x => x.mb == mb).foldl (fun m x => m ||| x.mask) 0

/-- The session check of R55 for some Fields: its error code, 0 for none. -/
def State.sessionError (s : State) (mb : Fin 16) (fields : BitVec 4) : Nat :=
  if s.foreignMask mb &&& fields ≠ 0 then eSession
  else if fields &&& ~~~(s.ownMask mb) ≠ 0 then eState
  else eOk

/-- Free granules of a Field's shared banks. -/
def State.sharedFree (s : State) (f : Fin 4) : Nat :=
  (((s.banksIn f .owned).filter fun b => s.fields[f].banks[b].shared).map fun b => (s.freeGranules f b).length).sum

/-- Whether a Field can take a Plot reservation beside those that stand: granules come out of shared banks and of FREE banks that no
reservation of whole banks has taken (R75; log 29, DESIGN CHOICE). -/
def State.canReserve (s : State) (f : Fin 4) (d : Desc) : Bool :=
  let free := (s.banksIn f .free).length
  let banks := s.reservedUnits f 4096 true + (if d.wholeBanks then d.units else 0)
  let granules := s.reservedUnits f 4096 false + (if d.wholeBanks then 0 else d.units)
  decide (s.residentsIn f < 512) && decide (banks ≤ free ∧ granules ≤ 32 * (free - banks) + s.sharedFree f)

/-- A furrow in CREATED with its reservation (R78). -/
def newFurrow (id : Nat) (mb : Fin 16) (d : Desc) (f : Fin 4) : Furrow :=
  { id := id, owner := mb, creator := mb, desc := d, st := .created, engine := none, home := some f, extents := []
    ctx := Ctx.zero, waitMask := none, mbar := false, restarts := 0, migrations := 0, runAtCommit := false, startOnCommit := false
    twin := if d.twinOf = noTwin then none else some d.twinOf, run := none, rings := [], enSeen := [], doorbells := [], sels := [], ctlq := []
    verAtStart := (0, 0), loads := [], fetched := [], ctxErr := none }

/-- FURROW_CREATE's checks after the buffer has been read (R75): an error code with RESULT0, or the Field that takes the reservation
and the ID. -/
def State.createCheck (s : State) (mb : Fin 16) (l : List Byte) : Except (Nat × Word) (Fin 4 × Nat) :=
  let d := descOf l
  if crc32cOf (bytesAt l 0 124) ≠ le32 l 124 then .error (eBufCrc, 0)
  else
    match descBad l with
    | some o => .error (eArg, nw o)
    | none =>
      if d.fieldMask &&& ~~~(bits (s.rightsOf mb) 16 4) ≠ 0 then .error (eRights, 0)
      else if s.sessionError mb d.fieldMask ≠ eOk then .error (s.sessionError mb d.fieldMask, 0)
      else if !s.twinOk d then .error (eState, 0)
      else
        match (List.range 4096).find? fun i => (s.furrow? i).isNone,
          (allFin 4).find? fun f => d.fieldMask.getLsbD f.val && s.canReserve f d with
        | some id, some f => .ok (f, id)
        | _, _ => .error (eNoResource, 0)

/-- FURROW_CREATE (R75). -/
def execFurrowCreate (mb : Fin 16) (k : BitVec 16) (buf : Reply) (s : State) : Out :=
  .next (
    match s.cmd? mb k 0x0301 with
    | none => s
    | some c =>
      if c.bufLen < 128 then s.finish mb k eArg [128]
      else
        let s := s.readBuf mb c
        match buf with
        | .bad _ => s.finish mb k eBuf []
        | .ok l =>
          match s.createCheck mb l with
          | .error e => s.finish mb k e.1 [e.2]
          | .ok (f, id) =>
            let F := newFurrow id mb (descOf l) f
            let s := { s with furrows := s.furrows ++ [F] }
            let s := match F.twin with
              | some t => s.updFurrow t fun T => { T with twin := some id }
              | none => s
            s.finish mb k eOk [nw id])

/-! Commands on one furrow -/

/-- The furrow that a command names in ARG0, or the code it fails with (R44, R71, R98). `moving` lets it act on a MOVING one. -/
def State.named (s : State) (mb : Fin 16) (c : ActiveCmd) (moving : Bool) : Except Nat Furrow :=
  match s.furrow? c.args[0].toNat with
  | none => .error eArg
  | some F =>
    if F.owner ≠ mb ∧ mb ≠ 0 then .error eNotOwner
    else if !moving && (F.st == .moving || (s.sower.migs.any fun m => m.fid == F.id) || s.furrowHeld (some (mb, c.k)) F.id) then
      .error eObjectBusy
    else .ok F

/-- A command on a furrow: what `h` makes of it, or its failure. -/
def State.onFurrow (s : State) (mb : Fin 16) (k : BitVec 16) (op : Nat) (moving : Bool) (h : ActiveCmd → Furrow → State) : State :=
  match s.cmd? mb k op with
  | none => s
  | some c =>
    match s.named mb c moving with
    | .error e => s.finish mb k e []
    | .ok F => h c F

/-- Where a binding of a queue stands (R77): 0 nowhere, 1 staged, 2 committed. -/
def State.boundIn (s : State) (f : Fin 4) (q dir : Nat) : Nat :=
  let is (e : Nat × Item) : Bool :=
    e.1 == f.val && e.2.ty == 0x0010 && (byteAt e.2.body 0).toNat == q && (byteAt e.2.body 1).toNat == dir
  if s.sup.conf.any is then 2
  else if s.sup.sessions.any fun x => x.mask.getLsbD f.val && x.items.any is then 1
  else 0

/-- Where the run registers of a drill's record stand: the committed one, else one staged (R325). -/
def State.runRecord (s : State) (f : Fin 4) (d : Nat) : Option (List Byte × Bool) :=
  let is (e : Nat × Item) : Bool := e.1 == f.val && e.2.ty == 0x0022 && (byteAt e.2.body 0).toNat == d
  match s.sup.conf.find? is with
  | some e => some (e.2.body, true)
  | none => ((s.sup.sessions.filter fun x => x.mask.getLsbD f.val).flatMap Session.items |>.find? is).map fun e => (e.2.body, false)

/-- TXMASK of a record 0x0022; 0 with none. -/
def txMaskOf (r : Option (List Byte × Bool)) : Byte := match r with
  | some b => byteAt b.1 8
  | none => 0

/-- Queue bindings that a STREAM furrow needs, in every Field of its mask (R77): the least of where they stand. -/
def State.bindings (s : State) (F : Furrow) : Nat :=
  if F.desc.cls ≠ 0 then 2
  else
    let q := (F.desc.ingress.filter (· ≠ 255)).map (fun q => (q, 0)) ++ (F.desc.egress.filter (· ≠ 255)).map fun q => (q, 1)
    ((allFin 4).filter fun f => F.desc.fieldMask.getLsbD f.val).foldl (fun n f =>
      q.foldl (fun n p => min n (s.boundIn f p.1 p.2)) n) 2

/-- Whether the second furrow of a twin pair may start (R243, R325): equal DRILLS, equal CS_VER, equal TXMASKs; the answer is
whether it may, and whether a record stands only in staging. -/
def State.twinStart (s : State) (F : Furrow) : Bool × Bool :=
  if F.desc.twinOf = noTwin then (true, false)
  else
    match F.twin.bind s.furrow? with
    | none => (true, false)
    | some T =>
      match F.desc.oneField, T.desc.oneField with
      | some f, some g =>
        let ds := (List.range 16).filter fun d => F.desc.drills.getLsbD d
        let same := ds.all fun d => txMaskOf (s.runRecord f d) == txMaskOf (s.runRecord g d)
        let staged := ds.any fun d =>
          (s.runRecord f d).any (fun r => !r.2) || (s.runRecord g d).any fun r => !r.2
        (F.desc.drills == T.desc.drills && same && s.csVer f 1 == s.csVer g 1 && s.csVer f 2 == s.csVer g 2, staged)
      | _, _ => (true, false)

/-- A furrow placed for its first start (R82, R108, R253): Plot taken, filled, firmware written, ENTRY with CAUSE 0. -/
def State.firstStart (s : State) (F : Furrow) (g : Fin 96) (only : Option Word) (code : List Byte) : State :=
  match s.alloc g F only none with
  | none => s
  | some a => ((s.takeAlloc g a).fillAlloc (fieldOf g) a).startOn F.id g a.extents (some code) 0

/-- Whether the blocks of a furrow fit the extent 0 of an allocation (R275, R322). -/
def Furrow.allocFits (F : Furrow) (a : Option Alloc) : Bool := a.any fun a => F.blockFits a.extents

/-- Whether the blocks of a furrow fit the longest extent 0 that it can have: all its Plot in one (R275, R322). A start that is put off to a
COMMIT is checked so. -/
def Furrow.blockCanFit (F : Furrow) : Bool :=
  F.blockFits [{ base := 0, len := F.desc.units * (if F.desc.wholeBanks then bankBytes else granuleBytes) }]

/-- A headroom breach is recorded (R82). -/
def State.noteBreach (s : State) (fid : Nat) (g : Fin 96) (breach : Bool) : State :=
  if breach then s.log 2 4 (some (fieldOf g)) fid (nw g.val) 0 else s

/-- The run of escalations of a furrow ends (R211). -/
def State.endRun (s : State) (fid : Nat) : State := s.updFurrow fid fun F => { F with run := none }

/-- FURROW_START of a CREATED furrow whose firmware has been fetched and checked (R77, R88, R492). -/
def State.startCreated (s : State) (mb : Fin 16) (k : BitVec 16) (F : Furrow) (code : List Byte) : State :=
  if !F.blockCanFit then s.finish mb k eArg []
  else if s.sealed then
    (s.updFurrow F.id fun F => { F with runAtCommit := true, fetched := code }).finish mb k eOk []
  else if s.bindings F = 1 ∨ (s.twinStart F).2 then
    (s.updFurrow F.id fun F => { F with startOnCommit := true, fetched := code }).finish mb k eOk []
  else
    match s.choose F fun _ => true with
    | none => s.finish mb k eNoResource []
    | some (g, breach) =>
      if !F.allocFits (s.alloc g F none none) then s.finish mb k eArg []
      else (((s.firstStart F g none code).noteBreach F.id g breach).endRun F.id).finish mb k eOk []

/-- What the fetch of a furrow's firmware gives: the firmware, or the code it fails with (R75). -/
def Furrow.firmware (F : Furrow) : Reply → Except Nat (List Byte)
  | .bad _ => .error eBuf
  | .ok l => if crc32cOf (bytesAt l 0 F.desc.codeLen) ≠ F.desc.codeCrc then .error eBufCrc else .ok (bytesAt l 0 F.desc.codeLen)

/-- Whether the fetch of a furrow's firmware must wait for the port (R287). -/
def State.codeWaits (s : State) (F : Furrow) : Bool := s.supBlocked false F.desc.codeAddr F.desc.codeLen

/-- The supervisor fetches a furrow's firmware, in the substream of the mailbox that created it (R33, R74, R75). -/
def State.readCode (s : State) (F : Furrow) : State :=
  s.asks F.creator (s.mbRequests F.creator false F.desc.codeAddr.toNat [] F.desc.codeLen (F.desc.codeLen / 32 + 2))

/-- Whether a furrow that restarts on an engine finds its firmware in its own Plot (R101, R492). -/
def Furrow.keepsPlot (F : Furrow) (g : Fin 96) : Bool := F.home == some (fieldOf g) && !F.extents.isEmpty

/-- FURROW_START of a FAILED furrow: a cold restart placed under R82 with CAUSE 3, from its copy in Plot, or in another Field from the host
(R492). -/
def State.startFailed (s : State) (mb : Fin 16) (k : BitVec 16) (F : Furrow) (code : Reply) : State :=
  if s.sealed then s.finish mb k eState []
  else
    match s.choose F fun _ => true with
    | none => s.finish mb k eNoResource []
    | some (g, breach) =>
      if !F.allocFits (s.allocFor g F none) then s.finish mb k eArg []
      else
        if F.keepsPlot g then
          (((s.restartOn F.id g none [] (some 3)).noteBreach F.id g breach).endRun F.id).finish mb k eOk []
        else if s.codeWaits F then s
        else
          let s := s.readCode F
          match F.firmware code with
          | .error e => s.finish mb k e []
          | .ok l => (((s.restartOn F.id g none l (some 3)).noteBreach F.id g breach).endRun F.id).finish mb k eOk []

/-- FURROW_START (R492). -/
def execFurrowStart (mb : Fin 16) (k : BitVec 16) (code : Reply) (s : State) : Out :=
  .next (s.onFurrow mb k 0x0302 false fun _ F =>
    match F.st with
    | .created =>
      if s.bindings F = 0 ∨ !(s.twinStart F).1 then s.finish mb k eState []
      else if s.codeWaits F then s
      else
        let s := s.readCode F
        match F.firmware code with
        | .error e => s.finish mb k e []
        | .ok l => s.startCreated mb k F l
    | .running => s.finish mb k eOk []
    | .stopped => ((s.updFurrow F.id fun F => { F with st := .running }).endRun F.id).finish mb k eOk []
    | .moving => s.finish mb k eObjectBusy []
    | .unplaced => s.finish mb k eState []
    | .failed => s.startFailed mb k F code)

/-- FURROW_STOP (R492): a running furrow keeps its context and Plot and leaves scheduling at its next boundary. -/
def execFurrowStop (mb : Fin 16) (k : BitVec 16) (s : State) : Out :=
  .next (s.onFurrow mb k 0x0303 false fun _ F =>
    match F.st with
    | .created =>
      if s.sealed then
        ((s.updFurrow F.id fun F => { F with runAtCommit := false, fetched := [] }).endRun F.id).finish mb k eOk []
      else s.finish mb k eState []
    | .running => ((s.updFurrow F.id fun F => { F with st := .stopped }).endRun F.id).finish mb k eOk []
    | .stopped => s.finish mb k eOk []
    | .moving => s.finish mb k eObjectBusy []
    | .unplaced => s.finish mb k eState []
    | .failed => s.finish mb k eState [])

/-- The furrow's drills go to IDLE by PARK, whatever they were doing (R327). -/
def State.parkDrills (s : State) (f : Fin 4) (m : BitVec 16) : State :=
  (allFin 16).foldl (fun (s : State) (d : Fin 16) =>
    if m.getLsbD d.val then
      let s := s.updDrill f d fun D => { D.clear with st := .idle }
      if s.fields[f].pinsLive then s.updField f fun F => F.idlePads d else s
    else s) s

/-- Timers that a furrow owns stop (R360). -/
def State.stopTimers (s : State) (fid : Nat) : State :=
  s.updAlm fun A => { A with timers := vmap (fun _ t => if t.owner = some (some fid) then t.stop else t) A.timers }

/-- A furrow is destroyed: its pair ends, its drills park, its timers stop, its Plot is released (R85, R327, R360, R253). -/
def State.destroy (s : State) (F : Furrow) : State :=
  let s := match F.twin with
    | some t => s.updFurrow t fun T => { T with twin := none }
    | none => s
  let s := match F.home with
    | some f => s.parkDrills f F.desc.drills
    | none => s
  let s := (s.stopTimers F.id).takeOff F.id .failed
  let s := s.releasePlot F.id
  let s := s.updSower fun W => { W with restarts := W.restarts.filter fun r => r.1 ≠ F.id }
  { s with furrows := s.furrows.filter fun G => G.id ≠ F.id }

/-- FURROW_DESTROY (R492). -/
def execFurrowDestroy (mb : Fin 16) (k : BitVec 16) (s : State) : Out :=
  .next (s.onFurrow mb k 0x0304 false fun _ F =>
    match F.st with
    | .running => s.finish mb k eState []
    | .moving => s.finish mb k eObjectBusy []
    | .created => (s.destroy F).finish mb k eOk []
    | .stopped => (s.destroy F).finish mb k eOk []
    | .failed => (s.destroy F).finish mb k eOk []
    | .unplaced => if s.sealed then s.finish mb k eState [] else (s.destroy F).finish mb k eOk [])

/-- Codes of FURROW_QUERY (R78). -/
def FurrowSt.code : FurrowSt → Nat
  | .created => 0
  | .running => 1
  | .stopped => 2
  | .moving => 3
  | .unplaced => 4
  | .failed => 5

/-- Side that the egress selectors of a furrow have selected (R78, R86): remote where one of them is REMOTE. -/
def Furrow.side (F : Furrow) : Bool := F.sels.any Selector.remote

/-- FURROW_QUERY (R78). -/
def execFurrowQuery (mb : Fin 16) (k : BitVec 16) (s : State) : Out :=
  .next (s.onFurrow mb k 0x0305 true fun _ F =>
    let place : Word := match F.engine with
      | some g => (BitVec.ofNat 2 (fieldOf g).val ++ 0#1 ++ BitVec.ofNat 7 g.val : BitVec 10).setWidth 32
      | none => (BitVec.ofNat 2 ((F.home.map Fin.val).getD 0) ++ 0#1 ++ 0x7F#7 : BitVec 10).setWidth 32
    let twin : Word := (bit 1 F.side ++ BitVec.ofNat 16 (F.twin.getD noTwin) : BitVec 17).setWidth 32
    let st := if s.sower.migs.any fun m => m.fid == F.id then FurrowSt.moving else F.st
    s.finish mb k eOk [nw st.code, place, twin, nw F.migrations])

/-- The 32 bytes of a FURROW_SIGNAL (R57). -/
def signalWords (c : ActiveCmd) : List Word := (List.range 8).map fun i => c.args.toList.getD (i + 1) 0

/-- An entry joins a furrow's control queue, once for each command (R98). -/
def State.signal (s : State) (mb : Fin 16) (k : BitVec 16) (c : ActiveCmd) (F : Furrow) : State :=
  if c.started then s
  else (s.updFurrow F.id fun F => { F with ctlq := F.ctlq ++ [signalWords c] }).start mb k

/-- The furrow has read its oldest entry and answered (R98; log 19, DESIGN CHOICE). -/
def State.answered (s : State) (mb : Fin 16) (k : BitVec 16) (fid : Nat) (code : Word) : State :=
  (s.updFurrow fid fun F => { F with ctlq := F.ctlq.drop 1 }).finish mb k eOk [code]

/-- FURROW_SIGNAL (R98, R492): delivered to a running furrow, after RESUME to a moving one. One whose furrow leaves RUNNING before it answers
ends with E_ABORTED, and its entry stays (log 61, DESIGN CHOICE). -/
def execFurrowSignal (mb : Fin 16) (k : BitVec 16) (ans : Option Word) (s : State) : Out :=
  .next (s.onFurrow mb k 0x0306 true fun c F =>
    if F.st = .running ∨ F.st = .moving then
      let s := s.signal mb k c F
      match ans with
      | some w => if F.st = .running then s.answered mb k F.id w else s
      | none => s
    else if c.started then s.finish mb k eAborted []
    else s.finish mb k eState [])

/-! RESTORE (R344) -/

/-- Zone record of a zone in a Field's committed configuration (R338). -/
def State.zoneRec (s : State) (f : Fin 4) (zone : Nat) : Option (List Byte) :=
  ((itemsOf s.sup.conf f.val 0x0030).find? fun x => (le16 x.body 0).toNat == zone).map Item.body

/-- A line's judgement state rewritten. -/
def State.updLines (s : State) (p : LineSt → Bool) (h : LineSt → LineSt) : State :=
  s.updSup fun u => { u with judged := updWhere p h u.judged }

/-- Acceptance code of a RESTORE (R344). -/
def State.restoreCode (s : State) (f : Fin 4) (c : ActiveCmd) : Nat :=
  let zone := c.args[2].toNat
  if c.args[1] ≠ 1 ∨ (List.range 6).any fun i => c.args.toList.getD (3 + i) 0 != 0 then 4
  else if (s.zoneRec f zone).isNone then 1
  else if s.sup.zones.any fun z => z.zone == zone && z.walking then 2
  else if !(s.sup.judged.any fun l => l.zone == zone && l.field == f && l.crossed) then 3
  else 0

/-- BREAK and the B end's drive clear on the changed-over lines of a zone, which are then judged afresh (R344). -/
def State.restoreZone (s : State) (f : Fin 4) (zone : Nat) : State :=
  s.updLines (fun l => l.zone == zone && l.field == f && l.crossed) fun l =>
    let fresh (e : EndSt) : EndSt := { e with setCnt := Vector.replicate 8 0, clrCnt := Vector.replicate 8 0 }
    { l with
      a := fresh l.a, b := { fresh l.b with faults := insertBits l.b.faults 4 0#1, cycles := 0 }, bdrv := false, crossed := false
      release := false, owed := true }

/-- RESTORE (R344): the supervision furrow answers with the acceptance code of R344. -/
def execRestore (mb : Fin 16) (k : BitVec 16) (ans : Option Word) (s : State) : Out :=
  .next (s.onFurrow mb k 0x0306 true fun c F =>
    if F.st = .running ∨ F.st = .moving then
      let t := s.signal mb k c F
      match ans, F.st, F.home with
      | some _, .running, some f =>
        let code := s.restoreCode f c
        (if code = 0 then t.restoreZone f c.args[2].toNat else t).answered mb k F.id (nw code)
      | _, _, _ => t
    else if c.started then s.finish mb k eAborted []
    else s.finish mb k eState [])

end Sys2Proof.Machine
end

