-- ==== Sys2Proof/Machine/Commit.lean ====
section
/-! DEFINITION. Staging, plans, COMMIT and what applying a configuration does (R54-R58, R64, R77, R81, R88-R92, R268, R339, R360, R371,
R389-R392, R416, R422). -/

namespace Sys2Proof.Machine

/-! Sessions (R54, R55) -/

/-- The session of a mailbox. -/
def State.session? (s : State) (mb : Fin 16) : Option Session := s.sup.sessions.find? fun x => x.mb == mb

/-- A session put in place of the mailbox's. -/
def State.putSession (s : State) (x : Session) : State :=
  s.updSup fun u => { u with sessions := u.sessions.filter (fun y => y.mb != x.mb) ++ [x] }

/-- A mailbox's session ends with what it staged (R45, R54). -/
def State.dropSession (s : State) (mb : Fin 16) : State :=
  s.updSup fun u => { u with sessions := u.sessions.filter fun y => y.mb != mb }

/-- STAGE_OPEN (R55): a mailbox's masks join in its one session (log 34, DEDUCED); a mask of 0 is E_ARG (log 51, DESIGN CHOICE). -/
def execStageOpen (mb : Fin 16) (k : BitVec 16) (s : State) : Out :=
  .next (
    match s.cmd? mb k 0x0201 with
    | none => s
    | some c =>
      let mask : BitVec 4 := bits c.args[0] 0 4
      let new := mask &&& ~~~(s.ownMask mb)
      if mask = 0 then s.finish mb k eArg []
      else if s.foreignMask mb &&& mask ≠ 0 then s.finish mb k eSession []
      else if s.sessionHeld (some (mb, k)) mb ∨ (allFin 4).any (fun f => mask.getLsbD f.val && s.fieldHeld (some (mb, k)) f.val) then
        s.finish mb k eObjectBusy []
      else if (allFin 4).any fun f => new.getLsbD f.val && s.fields[f].st != .out then s.finish mb k eState []
      else
        match s.session? mb with
        | some x => (s.putSession { x with mask := x.mask ||| mask }).finish mb k eOk [x.num]
        | none =>
          let n := s.sup.sessionNum + 1
          ((s.updSup fun u => { u with sessionNum := n }).putSession { mb := mb, mask := mask, num := n, items := [] }).finish mb k
            eOk [n])

/-- Records of a STAGE_WRITE staged one by one, or the failure of the first that is refused (R43, R55, R301). -/
def State.stageAll (s : State) (mb : Fin 16) (mask : BitVec 4) (items : List (Nat × Item)) :
    List (Nat × Item) → Except (Nat × Nat) (List (Nat × Item))
  | [] => .ok items
  | (o, x) :: l =>
    let cs := s.scopesOf mask x
    let fields : BitVec 4 := cs.foldl (fun m c => if c < 4 then m ||| fieldBit c else m) 0
    if fields &&& ~~~(bits (s.rightsOf mb) 16 4) ≠ 0 then .error (eRights, o)
    else if s.sessionError mb fields ≠ eOk then .error (s.sessionError mb fields, o)
    else if cs.any fun c => progOverlaps items c x then .error (eArg, o)
    else s.stageAll mb mask (cs.foldl (fun r c => putItem r c x) items) l

/-- Fields that a list of records names for a mailbox without a session: those of records whose scope does not come from the session (R55,
R389; log 34, DEDUCED). -/
def State.recordFields (s : State) (rs : List (Nat × Item)) : BitVec 4 :=
  rs.foldl (fun (m : BitVec 4) (r : Nat × Item) => (s.scopesOf 0 r.2).foldl (fun m c => if c < 4 then m ||| fieldBit c else m) m) 0

/-- STAGE_WRITE (R52): every record is checked before one is staged. Without an open session of the mailbox it ends with E_SESSION where
another mailbox's holds a Field that its records name, and with E_STATE otherwise (R55). -/
def execStageWrite (mb : Fin 16) (k : BitVec 16) (buf : Reply) (s : State) : Out :=
  .next (
    match s.cmd? mb k 0x0202 with
    | none => s
    | some c =>
      let s := s.readBuf mb c
      match buf with
      | .bad _ => s.finish mb k eBuf []
      | .ok l =>
        match parseRecords (bytesAt l 0 c.bufLen) 0 (c.bufLen / 8 + 1) with
        | .error e => s.finish mb k e.1 [nw e.2]
        | .ok rs =>
          match s.session? mb with
          | none => s.finish mb k (if s.recordFields rs &&& s.foreignMask mb ≠ 0 then eSession else eState) []
          | some x =>
            if s.sessionHeld (some (mb, k)) mb then s.finish mb k eObjectBusy [] else
            match s.stageAll mb x.mask x.items rs with
            | .error e => s.finish mb k e.1 [nw e.2]
            | .ok items => (s.putSession { x with items := items }).finish mb k eOk [nw rs.length])

/-- The item of a type and key that STAGE_READ returns: staged by the mailbox, else committed; of several Fields, the one of the lowest scope
in the order staged or committed (R54; log 61, DESIGN CHOICE). -/
def State.stagedOr (s : State) (mb : Fin 16) (ty : Nat) (key : Word) : Option Item :=
  let is (e : Nat × Item) : Bool := e.2.ty == ty && e.2.key == bytesAt (bytes32 key) 0 (keyLen ty)
  let staged := ((s.session? mb).map Session.items).getD []
  ((staged.find? is).orElse fun _ => s.sup.conf.find? is).map Prod.snd

/-- STAGE_READ (R54). A record neither staged nor committed is E_ARG (log 61, DESIGN CHOICE). -/
def execStageRead (mb : Fin 16) (k : BitVec 16) (resp : BitVec 3) (s : State) : Out :=
  .next (
    match s.cmd? mb k 0x0203 with
    | none => s
    | some c =>
      if 0x00F0 ≤ c.args[0].toNat then s.finish mb k eArg []
      else
        match s.stagedOr mb c.args[0].toNat c.args[1] with
        | none => s.finish mb k eArg []
        | some x => s.answer mb c resp x.record [])

/-- STAGE_ABORT (R54). -/
def execStageAbort (mb : Fin 16) (k : BitVec 16) (s : State) : Out :=
  .next (
    match s.cmd? mb k 0x0204 with
    | none => s
    | some _ =>
      if s.sessionHeld (some (mb, k)) mb then s.finish mb k eObjectBusy [] else (s.dropSession mb).finish mb k eOk [])

/-- SEAL_GET (R392). -/
def execSealGet (mb : Fin 16) (k : BitVec 16) (s : State) : Out :=
  .next (
    match s.cmd? mb k 0x0205 with
    | none => s
    | some c =>
      if s.sessionHeld (some (mb, k)) mb then s.finish mb k eObjectBusy []
      else s.finish mb k eOk [(confSeal (s.asCommitted mb (bits c.args[0] 0 4))).1])

/-! Plans (R58, R88-R91, R268) -/

/-- Length of a plan table (R88). -/
def planLen (l : List Byte) : Nat := 68 + 8 * (le16 l 4).toNat + 8 * (byteAt l 6).toNat

/-- Values of a plan table with the offset each failure reports, in rising order (R88-R90). -/
def planRanges (n : Nat) (l : List Byte) : List (Nat × Bool) :=
  let spare (o : Nat) : Nat × Bool := (o, decide ((byteAt l o).toNat < 24) || byteAt l o == 0xFF)
  let entry (i : Nat) : List (Nat × Bool) :=
    let o := 64 + 8 * i
    [(o + 1, fieldN (byteAt l (o + 1)) 4 4 == 0),
      (o + 2, decide ((byteAt l (o + 2)).toNat < 96) || byteAt l (o + 2) == 0x7F), (o + 3, byteAt l (o + 3) == 0)]
  let trans (i : Nat) : List (Nat × Bool) :=
    let o := 64 + 8 * (le16 l 4).toNat + 8 * i
    [(o, byteAt l o == 1 || byteAt l o == 2), (o + 1, decide ((byteAt l (o + 1)).toNat < 4)),
      (o + 2, decide ((byteAt l (o + 2)).toNat < 16))] ++ (List.range 5).map fun j => (o + 3 + j, byteAt l (o + 3 + j) == 0)
  [(0, le16 l 0 == 1), (2, (byteAt l 2).toNat == n), (3, byteAt l 3 == 0), (4, decide ((le16 l 4).toNat ≤ 4096)),
    (6, decide ((byteAt l 6).toNat ≤ 16)), (7, byteAt l 7 == 0)] ++ (List.range 32).map (fun i => spare (8 + i)) ++
    (List.range 24).map (fun i => (40 + i, byteAt l (40 + i) == 0)) ++ (List.range (le16 l 4).toNat).flatMap entry ++
    (List.range (byteAt l 6).toNat).flatMap trans

/-- PLAN_WRITE (R91). -/
def execPlanWrite (mb : Fin 16) (k : BitVec 16) (buf : Reply) (s : State) : Out :=
  .next (
    match s.cmd? mb k 0x0401 with
    | none => s
    | some c =>
      let n := c.args[0].toNat
      if 16 ≤ n then s.finish mb k eArg []
      else
        let s := s.readBuf mb c
        match buf with
        | .bad _ => s.finish mb k eBuf []
        | .ok l =>
          let len := planLen l
          if c.bufLen < len ∨ c.bufLen < 68 then s.finish mb k eArg [4]
          else
            let t := bytesAt l 0 len
            if crc32cOf (t.take (len - 4)) ≠ le32 t (len - 4) then s.finish mb k eBufCrc []
            else
              match (planRanges n t).find? fun r => !r.2 with
              | some r => s.finish mb k eArg [nw r.1]
              | none =>
                if s.sessionError mb 0xF ≠ eOk then s.finish mb k (s.sessionError mb 0xF) []
                else (s.updSower fun W => { W with plans := mapPut n (some t) W.plans }).finish mb k eOk [])

/-- PLAN_READ (R58). A plan never written is E_ARG (log 61, DESIGN CHOICE). -/
def execPlanRead (mb : Fin 16) (k : BitVec 16) (resp : BitVec 3) (s : State) : Out :=
  .next (
    match s.cmd? mb k 0x0402 with
    | none => s
    | some c =>
      match mapFind c.args[0].toNat s.sower.plans with
      | none => s.finish mb k eArg []
      | some t => s.answer mb c resp t [])

/-- PLAN_STATUS (R58). -/
def execPlanStatus (mb : Fin 16) (k : BitVec 16) (s : State) : Out :=
  .next (
    match s.cmd? mb k 0x0403 with
    | none => s
    | some _ => s.finish mb k eOk [nw s.sower.activePlan, s.sower.transitions, s.sower.lastTransSeq])

/-- Whether a written plan breaks no rule of R91 and R268. -/
def State.planOk (s : State) (t : List Byte) : Bool :=
  let es := planEntries t
  let placed := es.filterMap fun e => (toFin? 96 e.2.1).map fun g => (e.1, g, e.2.2)
  let fieldIn (fid : Nat) : Option (Fin 4) := (placed.find? fun p => p.1 == fid).map fun p => fieldOf p.2.1
  let ones (w : Word) : Nat := ((List.range 32).filter fun i => w.getLsbD i).length
  es.all (fun e => (s.furrow? e.1).isSome) &&
    (planTransitions t).all (fun q => (mapFind q.2.2 s.sower.plans).isSome) &&
    placed.all (fun p =>
      match s.furrow? p.1 with
      | none => false
      | some F =>
        F.desc.fieldMask.getLsbD (fieldOf p.2.1).val && decide (F.desc.workset ≤ 128 * ones p.2.2) &&
          (match F.twin with
            | some t => fieldIn t != some (fieldOf p.2.1)
            | none => true) &&
          placed.all (fun q => fieldOf q.2.1 != fieldOf p.2.1 || q.2.2 &&& p.2.2 == 0 || q.2.1 == p.2.1) &&
          decide (((placed.filter fun q => q.2.1 == p.2.1).length) ≤ 32) &&
          decide ((((placed.filter fun q => q.2.1 == p.2.1).filterMap fun q => s.furrow? q.1).map fun G => G.desc.demand).sum ≤ 1000) &&
          decide (p.2.1 ∉ planSpares t (fieldOf p.2.1)) &&
          (allFin 32).all fun b => !p.2.2.getLsbD b.val || s.fields[fieldOf p.2.1].banks[b].st != .retired)

/-! Checks of COMMIT -/

/-- Ranges of a zone record (R338). -/
def zoneOk (b : List Byte) : Bool :=
  let line (i : Nat) : Bool :=
    let o := 16 + 12 * i
    let a := (le16 b o).toNat
    let e := (le16 b (o + 2)).toNat
    decide (a ≤ 6143) && ((e == a + 1 && a % 2 == 0) || e == 0xFFFF) && zeroBytes b (o + 10) 2
  let or0 (n lo hi : Nat) : Bool := n == 0 || decide (lo ≤ n ∧ n ≤ hi)
  decide ((le16 b 0).toNat ≤ 4094) && fieldN (byteAt b 3) 1 7 == 0 && decide ((byteAt b 4).toNat ≤ 3) &&
    or0 (byteAt b 5).toNat 5 50 && or0 (byteAt b 6).toNat 1 7 && or0 (byteAt b 7).toNat 200 230 &&
    decide (25 ≤ (le16 b 8).toNat ∧ (le16 b 8).toNat ≤ 400) && (List.range (byteAt b 2).toNat).all line

/-- Ends that a zone record names. -/
def zoneEnds (b : List Byte) : List Nat :=
  (List.range (byteAt b 2).toNat).flatMap fun i =>
    let a := (le16 b (16 + 12 * i)).toNat
    if (le16 b (18 + 12 * i)).toNat = 0xFFFF then [a] else [a, a + 1]

/-- Whether a zone record of a scope stands against R339: a range, an end named twice, Fields that are no twin pair. -/
def State.zoneBad (s : State) (l : List (Nat × Item)) (c : Nat) (x : Item) : Bool :=
  let others := (itemsOf l c 0x0030).filter fun y => y.key != x.key
  !zoneOk x.body || (s.twinField (byteAt x.body 4).toNat).isNone || !(zoneEnds x.body).Nodup ||
    others.any fun y => (zoneEnds y.body).any fun e => e ∈ zoneEnds x.body

/-- Offset of an item's record in the seal image of a configuration (R390; log 36, DEDUCED). -/
def imageOffset (l : List (Nat × Item)) (c : Nat) (x : Item) : Nat :=
  let before := ((List.range c).map fun d => (imagesOf l d).length).sum
  let mine := sortBy itemLe ((l.filter fun e => e.1 == c && decide (e.2.ty ≠ 0x0060)).map Prod.snd)
  before + 8 + ((mine.takeWhile fun y => y != x).map fun y => y.record.length).sum

/-- Pin records of a Field that COMMIT refuses: two pins of one role for one drill, an output role without a drill (R300). -/
def pinsBad (l : List Item) : Bool :=
  let out := (l.map Item.body).filter fun b => decide (pinRole b < 10)
  out.any (fun b => pinOwner b == 255) || !(out.map fun b => (pinOwner b, pinRole b)).Nodup

/-- Timer records that give a chained pair two owners (R360). -/
def timersBad (l : List Item) : Bool :=
  l.any fun x =>
    (le32 x.body 4).getLsbD 3 &&
      match l.find? fun y => (byteAt y.body 0).toNat == (byteAt x.body 0).toNat + 1 with
      | some y => bytesAt y.body 1 3 != bytesAt x.body 1 3
      | none => true

/-- The checks of COMMIT on a configuration as it will stand: an error code with RESULT0, or none (R77, R91, R300, R325, R339, R360,
R371, R422). -/
def State.commitError (s : State) (l : List (Nat × Item)) (mask : BitVec 4) : Option (Nat × Word) :=
  let fs := (allFin 4).filter fun f => mask.getLsbD f.val
  let badPlan := if s.sealed then s.sower.plans.find? fun p => !s.planOk p.2 else none
  let badZone := fs.findSome? fun f => ((itemsOf l f.val 0x0030).find? (s.zoneBad l f.val)).map fun x => imageOffset l f.val x
  let bound (f : Fin 4) (q dir : Nat) : Bool :=
    (itemsOf l f.val 0x0010).any fun x => (byteAt x.body 0).toNat == q && (byteAt x.body 1).toNat == dir
  let fallowBad := mask.getLsbD 0 && (itemsOf l 0 0x0050).any fun x =>
    !((itemsOf l 0 0x0010).any fun y => byteAt y.body 0 == byteAt x.body 0 && byteAt y.body 1 == 0 && !bindMerge y.body)
  let marked := s.furrows.filter fun F => (F.runAtCommit || F.startOnCommit) && F.desc.fieldMask &&& mask != 0
  let unbound (F : Furrow) : Bool :=
    F.desc.cls == 0 && fs.any fun f => F.desc.fieldMask.getLsbD f.val &&
      (F.desc.ingress.any (fun q => q != 255 && !bound f q 0) || F.desc.egress.any fun q => q != 255 && !bound f q 1)
  let mask22 (f : Fin 4) (d : Nat) : Byte :=
    match (itemsOf l f.val 0x0022).find? fun x => (byteAt x.body 0).toNat == d with
    | some x => byteAt x.body 8
    | none => 0
  let uneven (F : Furrow) : Bool :=
    F.desc.twinOf != noTwin &&
      match F.desc.oneField, (F.twin.bind s.furrow?).bind fun T => T.desc.oneField with
      | some f, some g => (List.range 16).any fun d => F.desc.drills.getLsbD d && mask22 f d != mask22 g d
      | _, _ => false
  match badPlan with
  | some p => some (eArg, nw p.1)
  | none =>
    match badZone with
    | some o => some (eArg, nw o)
    | none =>
      if fs.any (fun f => pinsBad (itemsOf l f.val 0x0020)) || timersBad (itemsOf l blockScope 0x0040) || fallowBad then
        some (eArg, 0)
      else if s.sealed && (List.range 4).any fun f =>
          !((itemsOf l f 0x0041).any fun x => (byteAt x.body 0).toNat == f + 1 && (le32 x.body 4).getLsbD 16) then some (eArg, 0)
      else (marked.find? fun F => unbound F || uneven F).map fun F => (eState, nw F.id)

/-! Applying a configuration (R56, R301, R329, R338, R360, R371, R413) -/

/-- A drill as its record leaves it: IDLE with the run registers loaded (R301, R327). -/
def drillOf (rate : BitVec 32) (l : List Item) (d : Fin 16) : Drill :=
  match l.find? fun x => (byteAt x.body 0).toNat == d.val with
  | none => Drill.reset
  | some x =>
    let mode := le32 x.body 8
    let ddiv := le32 x.body 12
    { Drill.reset with
      dwin := le32 x.body 4, dmode := mode, ddiv := ddiv, dcnt := le32 x.body 16, y := mode.getLsbD 22, k := mode.getLsbD 17
      dTrim := if mode.getLsbD 21 then trimmed ddiv rate else 0 }

/-- Program memory of records 0x0021 (R301). -/
def progOf (l : List Item) : List (Nat × Word) :=
  l.foldl (fun p x => (List.range (progRange x.body).2).foldl (fun p i =>
    mapSet 0 ((progRange x.body).1 + i) (le32 x.body (4 + 4 * i)) p) p) []

/-- An end before any estimate. -/
def EndSt.start : EndSt :=
  { faults := 0, setCnt := Vector.replicate 8 0, clrCnt := Vector.replicate 8 0, pilots := [], scale := 0, atLimit := 0, cycles := 0 }

/-- Lines of a Field's zone records before any estimate (R340-R343). -/
def linesOf (f : Fin 4) (l : List Item) : List LineSt :=
  l.flatMap fun x => (List.range (byteAt x.body 2).toNat).map fun i =>
    { zone := (le16 x.body 0).toNat, line := i, field := f, classA := le16 x.body (18 + 12 * i) != 0xFFFF, a := EndSt.start, b := EndSt.start
      adrv := true, bdrv := false, crossed := false, release := false, zmag := 0, dev := none, gain := 0, vb := 0, seq := 0, owed := true
      posted := 0 }

/-- Report state of a zone before any post, its record in effect since a time. -/
def ZoneSt.start (z : Nat) (since : DWord) : ZoneSt :=
  { zone := z, zfaults := 0, step := 0, walking := false, yielded := false, yieldAt := 0, yields := 0, failed := false, missed := false
    deferred := false, faulted := false, walked := 0, differ := [], since := since }

/-- A watchdog takes its record (R371). -/
def Watchdog.configure (w : Watchdog) (ctl : Word) : Watchdog :=
  { w with period := bits ctl 0 16, en := ctl.getLsbD 16, remain := fieldN ctl 0 16 * almPerMs }

/-- A Field's committed configuration applied: bindings, pins, program memory, drills in IDLE, pads at IDLE levels with the hold
released, zones, watchdog. -/
def State.applyField (s : State) (f : Fin 4) : State :=
  let l := s.sup.conf
  let zones := itemsOf l f.val 0x0030
  let s := s.updField f fun F =>
    Field.committedPads
      { F with
        queueTab := (itemsOf l f.val 0x0010).map Item.body, pinTab := (itemsOf l f.val 0x0020).map Item.body
        prog := progOf (itemsOf l f.val 0x0021), progErr := []
        drills := vmap (fun d _ => drillOf s.almanac.rate (itemsOf l f.val 0x0022) d) F.drills, pinsLive := true, padHold := false }
  let s := s.updSup fun u =>
    { u with
      judged := u.judged.filter (fun x => x.field != f) ++ linesOf f zones
      zones := zones.foldl (fun zs x => if zs.any fun z => z.zone == (le16 x.body 0).toNat then zs
        else zs ++ [ZoneSt.start (le16 x.body 0).toNat s.now]) u.zones }
  match (itemsOf l f.val 0x0041).head? with
  | some x => s.updAlm fun A => { A with wdf := vupd A.wdf f fun w => w.configure (le32 x.body 4) }
  | none => s

/-- A timer takes its record: owner and ATn_CTL, everything else at its reset value (R360-R362). -/
def timerOf (n : Fin 32) (b : List Byte) : Timer :=
  let ctl := le32 b 4
  { Timer.reset with
    owner := some (if byteAt b 1 = 0 then none else some (fieldN (le16 b 2) 0 12))
    ctl := ctlFields n ctl, capDue := ctl.getLsbD 15 && fieldN ctl 4 4 == 1 }

/-- A block-scope item applied (R360, R371, R471). -/
def State.applyBlockItem (s : State) (x : Item) : State :=
  match x.ty with
  | 0x0040 =>
    match toFin? 32 (byteAt x.body 0).toNat with
    | some n => s.updTimer n fun _ => timerOf n x.body
    | none => s
  | 0x0041 => s.updAlm fun A => { A with wds := A.wds.configure (le32 x.body 4) }
  | 0x0060 => s.updDbg fun d => { d with tallyCfg := x.body, tallyPos := 0 }
  | _ => s

/-- The Fallow set of a committed configuration (R422): the record 0x0050, its queue's binding, and the records of its drills and
their pins. -/
def fallowOf (l : List (Nat × Item)) : Option (List Item) :=
  (itemsOf l 0 0x0050).head?.map fun x =>
    let ds : BitVec 16 := le16 x.body 6
    [x] ++ (itemsOf l 0 0x0010).filter (fun y => byteAt y.body 0 == byteAt x.body 0 && byteAt y.body 1 == 0) ++
      (itemsOf l 0 0x0020).filter (fun y => decide (pinOwner y.body < 16) && ds.getLsbD (pinOwner y.body)) ++ itemsOf l 0 0x0021 ++
      (itemsOf l 0 0x0022).filter fun y => ds.getLsbD (byteAt y.body 0).toNat

/-! Furrows at a commit (R77, R82, R88, R92, R100) -/

/-- Engines that a plan uses. -/
def planEngines (t : List Byte) : List (Fin 96) := (planEntries t).filterMap fun e => toFin? 96 e.2.1

/-- The first spare of an engine's Field in a plan that is neither retired nor in use (R92). -/
def State.spareFor (s : State) (n : Nat) (g : Fin 96) : Option (Fin 96) :=
  (planSpares (s.planTable n) (fieldOf g)).find? fun h =>
    s.usable h && !(s.sower.subs.any fun p => p.2 == h)

/-- A spare put in place of a retired engine of the active plan, and woken (R84, R92); with none left, the KIND 2 event. -/
def State.substitute (s : State) (g : Fin 96) : State :=
  match s.spareFor s.sower.activePlan g with
  | some h => (s.wake h).updSower fun W => { W with subs := W.subs.map (fun p => if p.2 = g then (p.1, h) else p) ++
      (if W.subs.any fun p => p.2 == g then [] else [(g, h)]) }
  | none => s.updSower fun W => { W with events := W.events ++ [(2, fieldOf g)] }

/-- A furrow started at its entry of the active plan; UNPLACED without one (R88, R89), FAILED where its engine is retired with no spare left
or cannot take it (R92, R100; log 69, DESIGN CHOICE). -/
def State.startPlanned (s : State) (F : Furrow) : State :=
  match s.planned s.sower.activePlan F.id with
  | none => s.updFurrow F.id fun F => { F with st := .unplaced }
  | some (g, m) =>
    match if s.planHealthy g && s.slotFor F g then s.alloc g F (some m) none else none with
    | none => s.updFurrow F.id fun F => { F with st := .failed }
    | some a =>
      if F.blockFits a.extents then ((s.takeAlloc g a).fillAlloc (fieldOf g) a).startOn F.id g a.extents (some F.fetched) 0
      else s.updFurrow F.id fun F => { F with st := .failed }

/-- The order in which furrows are placed together: BULK last, then decreasing load, then lower ID (R82). -/
def placeLe (a b : Furrow) : Bool :=
  if (a.desc.cls == 3) != (b.desc.cls == 3) then b.desc.cls == 3
  else if a.loadScaled = b.loadScaled then decide (a.id ≤ b.id) else decide (b.loadScaled < a.loadScaled)

/-- Furrows that run from a commit start: in Sealed mode at plan 0, in Rolling mode those whose bindings are now committed; one that finds no
place stays CREATED (R82; log 69, DESIGN CHOICE). -/
def State.startMarked (s : State) : State :=
  if s.sealed then
    let s := s.updSower fun W => { W with activePlan := 0 }
    let s := (planEngines (s.planTable 0)).foldl (fun (s : State) (g : Fin 96) =>
      if s.engines[g].st = .retired ∧ !(s.sower.subs.any fun p => p.1 == g) then s.substitute g else s) s
    (s.furrows.filter fun F => F.st == .created && F.runAtCommit).foldl (fun (s : State) (F : Furrow) => s.startPlanned F) s
  else
    (sortBy placeLe (s.furrows.filter fun F => F.st == .created && F.startOnCommit)).foldl (fun (s : State) (F : Furrow) =>
      if s.bindings F ≠ 2 ∨ (s.twinStart F).2 then s
      else
        match s.choose F fun _ => true with
        | some (g, breach) =>
          if F.allocFits (s.alloc g F none none) then (s.firstStart F g none F.fetched).noteBreach F.id g breach else s
        | none => s) s

/-- Engines of an In service Field stay awake with packing off (R82). -/
def State.keepAwake (s : State) (f : Fin 4) : State :=
  if s.sower.packing || s.sealed then s
  else (fieldEngines f).foldl (fun (s : State) (g : Fin 96) => if s.usable g then s.wake g else s) s

/-- A Field enters In service (R20). -/
def State.toService (s : State) (f : Fin 4) : State := (s.setFieldSt f .inService).keepAwake f

/-- The session of a commit closes (R56). -/
def closeSession (mb : Fin 16) (l : List Session) : List Session := l.filter fun x => x.mb != mb

/-- A COMMIT whose seal matches takes effect (R56, R392, R416, R422). A Field whose retained customer image has failed its check stays Out
(R241). -/
def State.commitNow (s : State) (mb : Fin 16) (mask : BitVec 4) (l : List (Nat × Item)) : State :=
  let (total, parts) := confSeal l
  let staged := ((s.session? mb).map Session.items).getD []
  let s := s.updSup fun u =>
    { u with
      conf := l, committed := true, firstCommit := true, confErr := u.confErr &&& ~~~mask
      committedFields := u.committedFields ||| mask, reapply := u.reapply &&& ~~~mask
      sessions := closeSession mb u.sessions }
  let s := s.updHost fun H => { H with sealAct := total, sealActParts := parts }
  let s := s.extend 7 (sealDigest total)
  let s := if mask.getLsbD 0 then s.updSeed fun d => { d with fallowSet := fallowOf l } else s
  let s := (staged.filter fun e => e.1 == blockScope).foldl (fun (s : State) (e : Nat × Item) => s.applyBlockItem e.2) s
  let fs := (allFin 4).filter fun f => mask.getLsbD f.val
  let s := fs.foldl (fun (s : State) (f : Fin 4) =>
    if s.sup.custErr.getLsbD f.val then s.applyField f else (s.applyField f).toService f) s
  s.startMarked

/-- COMMIT (R54-R56, R392). A mask of 0, and the first one in Sealed mode with a mask other than 0xF, end with E_ARG (log 51,
DESIGN CHOICE). -/
def execCommit (mb : Fin 16) (k : BitVec 16) (s : State) : Out :=
  .next (
    match s.cmd? mb k 0x0206 with
    | none => s
    | some c =>
      let mask : BitVec 4 := bits c.args[0] 0 4
      if mask = 0 ∨ (s.sealed ∧ mask ≠ 0xF) then s.finish mb k eArg []
      else if s.sessionError mb mask ≠ eOk then s.finish mb k (s.sessionError mb mask) []
      else if s.sessionHeld (some (mb, k)) mb ∨ (allFin 4).any (fun f => mask.getLsbD f.val && s.fieldHeld (some (mb, k)) f.val) then
        s.finish mb k eObjectBusy []
      else if (allFin 4).any fun f => mask.getLsbD f.val && s.fields[f].st != .out then s.finish mb k eState []
      else
        let l := s.asCommitted mb mask
        match s.commitError l mask with
        | some e => s.finish mb k e.1 [e.2]
        | none =>
          let total := (confSeal l).1
          if total ≠ s.host.sealRef then s.finish mb k eSealRef []
          else (s.commitNow mb mask l).finish mb k eOk [total])

/-! Policy and rates (R58, R63, R64, R81) -/

/-- POLICY_SET (R81). -/
def execPolicySet (mb : Fin 16) (k : BitVec 16) (s : State) : Out :=
  .next (
    match s.cmd? mb k 0x0404 with
    | none => s
    | some c =>
      let n := c.args[0].toNat
      if n < 5 ∨ 50 < n then s.finish mb k eArg []
      else
        let s := s.updSower fun W => { W with headroom := n, packing := c.args[1].getLsbD 0 }
        let s := (allFin 4).foldl (fun (s : State) (f : Fin 4) => if s.fields[f].st = .inService then s.keepAwake f else s) s
        s.finish mb k eOk [])

/-- Ranges of a declared rate in kHz (R24). -/
def rateOk (d n : Nat) : Bool := if d = 4 then decide (800000 ≤ n ∧ n ≤ 1600000) else decide (400000 ≤ n ∧ n ≤ 2000000)

/-- RATE_DECLARE (R25, R64). -/
def execRateDeclare (mb : Fin 16) (k : BitVec 16) (s : State) : Out :=
  .next (
    match s.cmd? mb k 0x0803 with
    | none => s
    | some c =>
      match toFin? 5 c.args[0].toNat with
      | none => s.finish mb k eArg []
      | some d =>
        let n := c.args[1].toNat
        if !rateOk d.val n then s.finish mb k eArg []
        else if (toFin? 4 d.val).any fun f => s.fieldHeld (some (mb, k)) f.val then s.finish mb k eObjectBusy []
        else if (toFin? 4 d.val).any fun f => s.fields[f].st != .out && s.fields[f].st != .off then s.finish mb k eState []
        else
          (s.updSower fun W => { W with rates := W.rates.set d n, ratesDeclared := W.ratesDeclared.set d true }).finish mb k eOk [])

end Sys2Proof.Machine
end

