-- ==== Sys2Proof/Machine/Microword.lean ====
section
/-! DEFINITION. The microword and the rules of a customer microword (R219-R227, R237). -/

namespace Sys2Proof.Machine

/-- A microword: its 144 data bits (R219). -/
abbrev MWord := BitVec 144

def MWord.next (w : MWord) : BitVec 13 := w.extractLsb' 131 13
def MWord.seq (w : MWord) : Nat := fieldN w 128 3
def MWord.cond (w : MWord) : Nat := fieldN w 122 6
def MWord.cinv (w : MWord) : Bool := w.getLsbD 121
def MWord.waitlim (w : MWord) : Nat := fieldN w 112 9
def MWord.asrc (w : MWord) : Nat := fieldN w 108 4
def MWord.bsrc (w : MWord) : Nat := fieldN w 104 4
def MWord.aluop (w : MWord) : Nat := fieldN w 99 5
def MWord.dest (w : MWord) : Nat := fieldN w 95 4
def MWord.flagw (w : MWord) : Nat := fieldN w 93 2
def MWord.fsel (w : MWord) : Nat := fieldN w 89 4
def MWord.marw (w : MWord) : Bool := w.getLsbD 88
def MWord.mdrw (w : MWord) : Bool := w.getLsbD 87
def MWord.pwr (w : MWord) : Nat := fieldN w 84 3
def MWord.ldel (w : MWord) : Bool := w.getLsbD 83
def MWord.mop (w : MWord) : Nat := fieldN w 77 3
def MWord.msize (w : MWord) : Nat := fieldN w 75 2
def MWord.mseg (w : MWord) : Nat := fieldN w 71 4
def MWord.msx (w : MWord) : Bool := w.getLsbD 70
def MWord.sopc (w : MWord) : Nat := fieldN w 67 3
def MWord.sreg (w : MWord) : Fin 8 := ⟨fieldN w 64 3 % 8, by omega⟩
def MWord.ralu (w : MWord) : Bool := w.getLsbD 63
def MWord.radr (w : MWord) : Bool := w.getLsbD 62
def MWord.rshf (w : MWord) : Bool := w.getLsbD 61
def MWord.dup (w : MWord) : Bool := w.getLsbD 60
def MWord.ipt (w : MWord) : Nat := fieldN w 58 2
def MWord.supint (w : MWord) : Bool := w.getLsbD 57
def MWord.ecmt (w : MWord) : Bool := w.getLsbD 56
def MWord.fault (w : MWord) : Nat := fieldN w 50 6
def MWord.trace (w : MWord) : Nat := fieldN w 46 4
def MWord.tally (w : MWord) : Nat := fieldN w 42 4
def MWord.lit (w : MWord) : BitVec 32 := w.extractLsb' 0 32

/-- The customer region of the control store (R215). -/
def inCustomer (a : BitVec 13) : Bool := decide (0x1C00 ≤ a.toNat)

/-- The rules of a customer microword (R237). A code that R220-R224 reserve breaks them too. -/
def MWord.customerOk (w : MWord) : Bool :=
  (inCustomer w.next || w.seq == 4 || 6 ≤ w.seq) &&
  (w.seq != 2 || w.cond ≤ 8) &&
  (w.seq != 5 || w.waitlim != 0) &&
  (w.dest ≤ 4 || (7 ≤ w.dest && w.dest ≤ 10)) &&
  w.pwr ≤ 5 && !w.ldel && w.mop != 7 && w.mseg ≤ 11 && w.sopc != 7 && w.aluop != 31 && w.fsel ≤ 10 &&
  fieldN w 60 4 == 15 && w.ipt != 3 && !w.supint && (w.fault == 0 || w.fault == 14) && w.trace ≤ 1 &&
  (w.tally == 0 || 8 ≤ w.tally) && fieldN w 80 3 == 0 && fieldN w 32 10 == 0

end Sys2Proof.Machine
end

