-- ==== Sys2Proof/Machine/Issue.lean ====
section
/-! DEFINITION. Issue of an instruction word: boundary, break units, fetch, decode, guard (R132-R143, R199, R459;
logs 3, 5, DEDUCED and DESIGN CHOICE). -/

namespace Sys2Proof.Machine

/-- A long-format instruction: its legal layouts of [18:0], whether it needs the Sheaf unit enabled (R178), whether it is for
Supervisor mode (R106), whether it has interruption points (R163), and what it does. -/
structure LongOp where
  legal : BitVec 19 → Bool
  sheaf : Bool
  priv : BitVec 19 → Bool
  long : Bool
  run : BitVec 19 → M Unit

/-- An instruction of any privilege that is neither long nor of the Sheaf unit. -/
def plainOp (legal : BitVec 19 → Bool) (run : BitVec 19 → M Unit) : LongOp :=
  { legal := legal, sheaf := false, priv := fun _ => false, long := false, run := run }

/-- A Supervisor-mode instruction (R106). -/
def superOp (legal : BitVec 19 → Bool) (run : BitVec 19 → M Unit) : LongOp :=
  { legal := legal, sheaf := false, priv := fun _ => true, long := false, run := run }

/-- The 32-bit word of a long-format instruction (R132). -/
def longWord (op : BitVec 8) (gd : Guard) (x : BitVec 19) : Word :=
  0#1 ++ bit 1 gd.pinv ++ BitVec.ofNat 3 gd.pred.val ++ op ++ x

/-- The 32-bit word of a paired instruction (R132). -/
def pairWord (w : BitVec 31) : Word := 1#1 ++ w

/-- SHSAVE.EN (R178). -/
def Ctx.sheafOn (c : Ctx) : Bool := c.shsave.getLsbD 31

/-- The furrow whose word an engine may issue now: the engine is awake at a boundary, the furrow is ready, and no fault, interrupt or
report is due, or a handler's first word comes next, or the word that has stalled tries again (R84, R155, R199). -/
def State.issuer (s : State) (g : Fin 96) (word : Word) : Option Furrow :=
  let E := s.engines[g]
  if E.st ≠ .awake ∨ (E.phase.canIssue = false ∧ E.phase ≠ .stalled word) then none
  else
    match E.cur with
    | none => none
    | some fid =>
      match s.furrow? fid with
      | none => none
      | some F => if F.engine = some g ∧ s.ready F ∧ (E.phase ≠ .ready ∨ s.takesFirst g = false) then some F else none

/-- The vendor microwords of a word are fetched as its routines run: a corrected one counts, an uncorrectable one answers none (R217). -/
def State.fetchRoutine (s : State) (g : Fin 96) (word : Word) : Option State :=
  (s.engines[g].csErr.filter fun e => decide (e.1 < 0x1C00 ∧ e.1 ∈ Config.routine word)).foldl
    (fun o e => o.bind fun s => s.csFetch g e.1) (some s)

/-- Fetch of a word at PC (R142, R143): rights, alignment, limit, owner, array code. -/
def fetch : M Unit := fun x =>
  let cs := pswCsel x.c.psw
  let pc := x.c.pc
  let g := x.c.segAt cs
  let bad {α : Type} (v : Nat) (x : Ex) : EStateM.Result Stop Ex α := raiseAt v cs pc false 0 true x
  match check3 x.F.extents g (pswPriv x.c.psw) pc 4 4 false false true with
  | some v => bad v x
  | none =>
    match place x.F.extents g pc.toNat with
    | .plot a =>
      if x.st.handed x.g a then .error .held x
      else if !x.st.owns x.g a then bad 15 x
      else
        match x.st.eccAt (fieldOf x.g) a with
        | none => .ok () x
        | some .corr => .ok () { x with found := x.found ++ [(a, false)] }
        | some _ => bad 10 { x with found := x.found ++ [(a, true)] }
    | _ => bad 4 x

/-- The guard of a long word (R137). -/
def guardTrue (c : Ctx) (gd : Guard) : Bool := c.pred gd.pred != gd.pinv

/-- Decode faults, guard and effect of a long word after its fetch (R134, R138, R142). -/
def longBody (gd : Guard) (x : BitVec 19) (o : LongOp) : M Unit := do
  let c ← getC
  if !o.legal x || (o.sheaf && !c.sheafOn) then raiseV 1
  else if o.priv x && !pswPriv c.psw then raiseV 2
  else if guardTrue c gd then o.run x
  else if o.long then modC fun c => { c with prog0 := 0, prog1 := 0 }
  else pure ()

/-- A long word: fetch, then its body. -/
def longM (gd : Guard) (x : BitVec 19) (o : LongOp) : M Unit := do
  fetch
  longBody gd x o

/-- Break units at a word about to issue; the word issues when the answer says so (R459, R460). -/
def State.breaks (s : State) (g : Fin 96) (F : Furrow) : State × Bool :=
  let v := s.fields[fieldOf g].units
  let hit (u : Fin 8) : Bool := v[u].breakHit (localOf g) F.id F.ctx
  if s.engines[g].ctl.skipBreak || !(allFin 8).any hit then (s, true)
  else
    let r := linkMatches v hit
    let s := s.noteUnits (fieldOf g) r
    let s := r.1.foldl (fun s u => s.unitAct g F.id F.ctx F.ctx.pc u none) s
    (s, s.engines[g].st == .awake && s.engines[g].phase.canIssue)

/-- Issue of a word: break units, the dispatch tables' array code, the microwords of its routines, then the word itself (R199, R217, R428,
R459). -/
def State.issue (s : State) (g : Fin 96) (word : Word) (m : M Unit) : State :=
  match s.issuer g word with
  | none => s
  | some F =>
    match (if s.engines[g].phase.canIssue then s.breaks g F else (s, true)) with
    | (s, false) => s
    | (s, true) =>
      match s.engines[g].dispErr with
      | some .uncorr => s.stick g 1
      | some .poison => s.stick g 1
      | _ =>
        match s.fetchRoutine g word with
        | none => s.stick g 3
        | some s => runM s g F word m

/-- Issue of a long-format instruction (R132). -/
def issueLong (g : Fin 96) (op : BitVec 8) (gd : Guard) (x : BitVec 19) (o : LongOp) (s : State) : State :=
  s.issue g (longWord op gd x) (longM gd x o)

end Sys2Proof.Machine
end

