-- ==== Sys2Proof/Machine/Scalar.lean ====
section
/-! DEFINITION. Loads and stores, arithmetic and logic, index and predicate instructions (R147-R150). -/

namespace Sys2Proof.Machine

/-- Register codes (R104, R159). -/
def rA : BitVec 2 := 0
def rX : BitVec 2 := 1
def rY : BitVec 2 := 2
def rSP : BitVec 2 := 3

/-- A load of a register: at once in immediate mode, under the load delay in a memory mode (R120, R147). -/
def loadReg (r : BitVec 2) (signed : Bool) (x : BitVec 19) : M Unit := do
  let v ← operand x signed
  if xMode x = 0 then modC fun c => c.setReg r v else setLoad r v

/-- LDA, LDAS, LDX, LDXS, LDY, LDYS, LDSP (R147). -/
def opLda : LongOp := plainOp okIM (loadReg rA false)
def opLdas : LongOp := plainOp okIM (loadReg rA true)
def opLdx : LongOp := plainOp okIM (loadReg rX false)
def opLdxs : LongOp := plainOp okIM (loadReg rX true)
def opLdy : LongOp := plainOp okIM (loadReg rY false)
def opLdys : LongOp := plainOp okIM (loadReg rY true)
def opLdsp : LongOp := plainOp okIMw (loadReg rSP false)

/-- LDAH: IMM << 15 (R136, R147). -/
def opLdah : LongOp := plainOp okI fun x => modC fun c => { c with a := xImm x ++ 0#15 }

/-- A store of a register (R147). -/
def storeReg (r : BitVec 2) (x : BitVec 19) : M Unit := do
  let c ← getC
  storeOperand x (c.reg r)

/-- STA, STX, STY, STSP (R147). -/
def opSta : LongOp := plainOp okM (storeReg rA)
def opStx : LongOp := plainOp okM (storeReg rX)
def opSty : LongOp := plainOp okM (storeReg rY)
def opStsp : LongOp := plainOp okMw (storeReg rSP)

/-- An operation on a register and the operand: the result into the register, its flags set (R146, R148). -/
def aluReg (r : BitVec 2) (u : Nat) (f : Ctx → Word → Word → Alu) (x : BitVec 19) : M Unit := do
  let v ← operand x
  useUnit u
  modC fun c => let q := f c (c.reg r) v; (c.setReg r q.val).flags q

/-- As aluReg, the flags alone (R148). -/
def aluFlags (r : BitVec 2) (u : Nat) (f : Ctx → Word → Word → Alu) (x : BitVec 19) : M Unit := do
  let v ← operand x
  useUnit u
  modC fun c => c.flags (f c (c.reg r) v)

/-- ADD, ADC, SUB, SBC (R148). -/
def opAdd : LongOp := plainOp okIM (aluReg rA 1 fun _ a b => aluAdd a b false)
def opAdc : LongOp := plainOp okIM (aluReg rA 1 fun c a b => aluAdd a b (pswC c.psw))
def opSub : LongOp := plainOp okIM (aluReg rA 1 fun _ a b => aluSub a b false)
def opSbc : LongOp := plainOp okIM (aluReg rA 1 fun c a b => aluSub a b (!pswC c.psw))

/-- AND, OR, XOR (R148). -/
def opAnd : LongOp := plainOp okIM (aluReg rA 3 fun _ a b => aluZN (a &&& b))
def opOr : LongOp := plainOp okIM (aluReg rA 3 fun _ a b => aluZN (a ||| b))
def opXor : LongOp := plainOp okIM (aluReg rA 3 fun _ a b => aluZN (a ^^^ b))

/-- CMP, TST (R148). -/
def opCmp : LongOp := plainOp okIM (aluFlags rA 1 fun _ a b => aluSub a b false)
def opTst : LongOp := plainOp okIM (aluFlags rA 3 fun _ a b => aluZN (a &&& b))

/-- MUL, MULH, MULHU (R148). -/
def opMul : LongOp := plainOp okIM (aluReg rA 1 fun _ a b => aluMul a b)
def opMulh : LongOp := plainOp okIM (aluReg rA 1 fun _ a b => aluMulh a b)
def opMulhu : LongOp := plainOp okIM (aluReg rA 1 fun _ a b => aluMulhu a b)

/-- A division: a divisor of 0 raises vector 11 and leaves A and the flags (R149). -/
def divReg (f : Word → Word → Alu) (x : BitVec 19) : M Unit := do
  let v ← operand x
  if v = 0 then raiseV 11
  useUnit 1
  modC fun c => let q := f c.a v; (c.setReg rA q.val).flags q

/-- DIV, DIVU, REM, REMU (R148, R149). -/
def opDiv : LongOp := plainOp okIM (divReg aluDiv)
def opDivu : LongOp := plainOp okIM (divReg aluDivu)
def opRem : LongOp := plainOp okIM (divReg aluRem)
def opRemu : LongOp := plainOp okIM (divReg aluRemu)

/-- SHL, SHR, SAR, ROR by op[4:0] (R148, R149). -/
def opShl : LongOp := plainOp okIM (aluReg rA 3 fun _ a b => aluShl a (fieldN b 0 5))
def opShr : LongOp := plainOp okIM (aluReg rA 3 fun _ a b => aluShr a (fieldN b 0 5))
def opSar : LongOp := plainOp okIM (aluReg rA 3 fun _ a b => aluSar a (fieldN b 0 5))
def opRor : LongOp := plainOp okIM (aluReg rA 3 fun _ a b => aluRor a (fieldN b 0 5))

/-- ADDX, ADDY, CMPX, CMPY (R150). -/
def opAddx : LongOp := plainOp okIM (aluReg rX 1 fun _ a b => aluAdd a b false)
def opAddy : LongOp := plainOp okIM (aluReg rY 1 fun _ a b => aluAdd a b false)
def opCmpx : LongOp := plainOp okIM (aluFlags rX 1 fun _ a b => aluSub a b false)
def opCmpy : LongOp := plainOp okIM (aluFlags rY 1 fun _ a b => aluSub a b false)

/-- Predicate number of three bits. -/
def predNo {m : Nat} (w : BitVec m) (lo : Nat) : Fin 8 := ⟨fieldN w lo 3 % 8, by omega⟩

/-- PSET: P[d] = c, and c, or c, xor c (R150). -/
def opPset : LongOp := plainOp (fun x => okI x && bits x 9 8 == 0#8) fun x =>
  modC fun c =>
    let d := predNo x 0
    let b := condHolds (bits x 3 4) c.psw
    let o := c.pred d
    c.setPred d (match fieldN x 7 2 with
      | 0 => b
      | 1 => o && b
      | 2 => o || b
      | _ => o != b)

/-- PLD: P1-P7 from IMM or from a word, interlocked (R122, R150). -/
def opPld : LongOp :=
  plainOp (fun x => if xMode x = 0 then !x.getLsbD 0 && bits x 8 9 == 0#9 else xSize x == 2) fun x => do
    let v ← operand x
    modC fun c => c.setPreds v

/-- PST: the predicate image to memory (R125, R150). -/
def opPst : LongOp := plainOp okMw fun x => do
  let c ← getC
  storeOperand x c.predImage

/-- ADDSP: SP = SP + IMM (R145, R150). -/
def opAddsp : LongOp := plainOp okI fun x => do
  useUnit 2
  modC fun c => { c with sp := c.sp + (xImm x).signExtend 32 }

/-! Commands -/

def execLda (g : Fin 96) (gd : Guard) (x : BitVec 19) (s : State) : Out := .next (issueLong g 0x00 gd x opLda s)
def execLdas (g : Fin 96) (gd : Guard) (x : BitVec 19) (s : State) : Out := .next (issueLong g 0x01 gd x opLdas s)
def execLdx (g : Fin 96) (gd : Guard) (x : BitVec 19) (s : State) : Out := .next (issueLong g 0x02 gd x opLdx s)
def execLdxs (g : Fin 96) (gd : Guard) (x : BitVec 19) (s : State) : Out := .next (issueLong g 0x03 gd x opLdxs s)
def execLdy (g : Fin 96) (gd : Guard) (x : BitVec 19) (s : State) : Out := .next (issueLong g 0x04 gd x opLdy s)
def execLdys (g : Fin 96) (gd : Guard) (x : BitVec 19) (s : State) : Out := .next (issueLong g 0x05 gd x opLdys s)
def execLdsp (g : Fin 96) (gd : Guard) (x : BitVec 19) (s : State) : Out := .next (issueLong g 0x06 gd x opLdsp s)
def execLdah (g : Fin 96) (gd : Guard) (x : BitVec 19) (s : State) : Out := .next (issueLong g 0x07 gd x opLdah s)
def execSta (g : Fin 96) (gd : Guard) (x : BitVec 19) (s : State) : Out := .next (issueLong g 0x08 gd x opSta s)
def execStx (g : Fin 96) (gd : Guard) (x : BitVec 19) (s : State) : Out := .next (issueLong g 0x09 gd x opStx s)
def execSty (g : Fin 96) (gd : Guard) (x : BitVec 19) (s : State) : Out := .next (issueLong g 0x0A gd x opSty s)
def execStsp (g : Fin 96) (gd : Guard) (x : BitVec 19) (s : State) : Out := .next (issueLong g 0x0B gd x opStsp s)
def execAdd (g : Fin 96) (gd : Guard) (x : BitVec 19) (s : State) : Out := .next (issueLong g 0x10 gd x opAdd s)
def execAdc (g : Fin 96) (gd : Guard) (x : BitVec 19) (s : State) : Out := .next (issueLong g 0x11 gd x opAdc s)
def execSub (g : Fin 96) (gd : Guard) (x : BitVec 19) (s : State) : Out := .next (issueLong g 0x12 gd x opSub s)
def execSbc (g : Fin 96) (gd : Guard) (x : BitVec 19) (s : State) : Out := .next (issueLong g 0x13 gd x opSbc s)
def execAnd (g : Fin 96) (gd : Guard) (x : BitVec 19) (s : State) : Out := .next (issueLong g 0x14 gd x opAnd s)
def execOr (g : Fin 96) (gd : Guard) (x : BitVec 19) (s : State) : Out := .next (issueLong g 0x15 gd x opOr s)
def execXor (g : Fin 96) (gd : Guard) (x : BitVec 19) (s : State) : Out := .next (issueLong g 0x16 gd x opXor s)
def execCmp (g : Fin 96) (gd : Guard) (x : BitVec 19) (s : State) : Out := .next (issueLong g 0x17 gd x opCmp s)
def execTst (g : Fin 96) (gd : Guard) (x : BitVec 19) (s : State) : Out := .next (issueLong g 0x18 gd x opTst s)
def execMul (g : Fin 96) (gd : Guard) (x : BitVec 19) (s : State) : Out := .next (issueLong g 0x19 gd x opMul s)
def execMulh (g : Fin 96) (gd : Guard) (x : BitVec 19) (s : State) : Out := .next (issueLong g 0x1A gd x opMulh s)
def execMulhu (g : Fin 96) (gd : Guard) (x : BitVec 19) (s : State) : Out := .next (issueLong g 0x1B gd x opMulhu s)
def execDiv (g : Fin 96) (gd : Guard) (x : BitVec 19) (s : State) : Out := .next (issueLong g 0x1C gd x opDiv s)
def execDivu (g : Fin 96) (gd : Guard) (x : BitVec 19) (s : State) : Out := .next (issueLong g 0x1D gd x opDivu s)
def execRem (g : Fin 96) (gd : Guard) (x : BitVec 19) (s : State) : Out := .next (issueLong g 0x1E gd x opRem s)
def execRemu (g : Fin 96) (gd : Guard) (x : BitVec 19) (s : State) : Out := .next (issueLong g 0x1F gd x opRemu s)
def execShl (g : Fin 96) (gd : Guard) (x : BitVec 19) (s : State) : Out := .next (issueLong g 0x20 gd x opShl s)
def execShr (g : Fin 96) (gd : Guard) (x : BitVec 19) (s : State) : Out := .next (issueLong g 0x21 gd x opShr s)
def execSar (g : Fin 96) (gd : Guard) (x : BitVec 19) (s : State) : Out := .next (issueLong g 0x22 gd x opSar s)
def execRor (g : Fin 96) (gd : Guard) (x : BitVec 19) (s : State) : Out := .next (issueLong g 0x23 gd x opRor s)
def execAddx (g : Fin 96) (gd : Guard) (x : BitVec 19) (s : State) : Out := .next (issueLong g 0x24 gd x opAddx s)
def execAddy (g : Fin 96) (gd : Guard) (x : BitVec 19) (s : State) : Out := .next (issueLong g 0x25 gd x opAddy s)
def execCmpx (g : Fin 96) (gd : Guard) (x : BitVec 19) (s : State) : Out := .next (issueLong g 0x26 gd x opCmpx s)
def execCmpy (g : Fin 96) (gd : Guard) (x : BitVec 19) (s : State) : Out := .next (issueLong g 0x27 gd x opCmpy s)
def execPset (g : Fin 96) (gd : Guard) (x : BitVec 19) (s : State) : Out := .next (issueLong g 0x28 gd x opPset s)
def execPld (g : Fin 96) (gd : Guard) (x : BitVec 19) (s : State) : Out := .next (issueLong g 0x29 gd x opPld s)
def execPst (g : Fin 96) (gd : Guard) (x : BitVec 19) (s : State) : Out := .next (issueLong g 0x2A gd x opPst s)
def execAddsp (g : Fin 96) (gd : Guard) (x : BitVec 19) (s : State) : Out := .next (issueLong g 0x2B gd x opAddsp s)

end Sys2Proof.Machine
end

