-- ==== Sys2Proof/Machine/Sheaf.lean ====
section
/-! DEFINITION. Arithmetic of the Sheaf lane unit: formats, rounding, saturation, products, lanes (R177-R185). -/

namespace Sys2Proof.Machine

/-- Fields of SHST (R177). -/
def shRnd (w : Word) : Nat := fieldN w 2 2
def shOsh (w : Word) : Nat := fieldN w 4 5

/-- SAT or AOV set, and kept once set (R177). -/
def Sheaf.noteSat (h : Sheaf) (b : Bool) : Sheaf := if b then { h with shst := h.shst ||| 1#32 } else h
def Sheaf.noteAov (h : Sheaf) (b : Bool) : Sheaf := if b then { h with shst := h.shst ||| 2#32 } else h

/-- v / 2^k under a rounding code (R182). -/
def roundShift (v : Int) (k rnd : Nat) : Int :=
  if k = 0 then v
  else
    match rnd with
    | 0 => v / 2 ^ k
    | 1 => (v + 2 ^ (k - 1)) / 2 ^ k
    | _ =>
      let q := v / 2 ^ k
      let r := v % 2 ^ k
      if r < 2 ^ (k - 1) ∨ (r = 2 ^ (k - 1) ∧ q % 2 = 0) then q else q + 1

/-- Saturation to w signed bits, and whether it acted (R181-R183). -/
def satInt (w : Nat) (v : Int) : Int × Bool :=
  let hi : Int := 2 ^ (w - 1) - 1
  let lo : Int := -(2 ^ (w - 1))
  if hi < v then (hi, true) else if v < lo then (lo, true) else (v, false)

/-- A saturated value as a word of w bits. -/
def satBits (w : Nat) (v : Int) : BitVec w × Bool := (BitVec.ofInt w (satInt w v).1, (satInt w v).2)

/-- Product of a coefficient and a datum under FMT (R181). -/
def laneProd (fmt : Nat) (c m : Word) : Int :=
  let p := c.toInt * m.toInt
  match fmt with
  | 0 => p
  | 1 => p / 2 ^ 16
  | _ => p / 2 ^ 15

/-- One multiply-accumulate step of the 16 lanes (R181, R187). -/
def Sheaf.mac (h : Sheaf) (fmt : Nat) (c : Fin 16 → Word) (m : Fin 16 → Word) : Sheaf :=
  let sum (l : Fin 16) : DWord × Bool := satBits 64 (h.acc[l].toInt + laneProd fmt (c l) (m l))
  { h with acc := Vector.ofFn fun l => (sum l).1 }.noteAov ((allFin 16).any fun l => (sum l).2)

/-- Readout of an accumulator (R182). -/
def readout (a : DWord) (osh rnd : Nat) : Word × Bool := satBits 32 (roundShift a.toInt osh rnd)

/-- Readout of the 16 accumulators, and whether one saturated (R182). -/
def Sheaf.readAll (h : Sheaf) (osh rnd : Nat) : Vector Word 16 × Bool :=
  (Vector.ofFn fun l => (readout h.acc[l] osh rnd).1, (allFin 16).any fun l => (readout h.acc[l] osh rnd).2)

/-! Formats (R183) -/

/-- Bytes per lane of a format. -/
def fmtBytes (f : Nat) : Nat := match f with
  | 0 => 4
  | 1 => 3
  | _ => 2

/-- Alignment of a format. -/
def fmtAlign (f : Nat) : Nat := match f with
  | 0 => 4
  | 3 => 2
  | _ => 1

/-- A lane loaded from its bytes at i. -/
def laneLoad (f : Nat) (l : List Byte) (i : Nat) : Word :=
  match f with
  | 0 => le32 l i
  | 1 => byteAt l i ++ byteAt l (i + 1) ++ byteAt l (i + 2) ++ 0#8
  | 2 => byteAt l i ++ byteAt l (i + 1) ++ 0#16
  | _ => byteAt l (i + 1) ++ byteAt l i ++ 0#16

/-- The bytes of a stored lane, and whether it saturated. -/
def laneStore (f rnd : Nat) (w : Word) : List Byte × Bool :=
  match f with
  | 0 => (bytes32 w, false)
  | 1 =>
    let r := satBits 24 (roundShift w.toInt 8 rnd)
    ([bits r.1 16 8, bits r.1 8 8, bits r.1 0 8], r.2)
  | 2 =>
    let r := satBits 16 (roundShift w.toInt 16 rnd)
    ([bits r.1 8 8, bits r.1 0 8], r.2)
  | _ =>
    let r := satBits 16 (roundShift w.toInt 16 rnd)
    ([bits r.1 0 8, bits r.1 8 8], r.2)

/-- A vector from its bytes. -/
def vecLoad (f : Nat) (l : List Byte) : Vector Word 16 := Vector.ofFn fun i => laneLoad f l (i.val * fmtBytes f)

/-- The bytes of a vector, and whether a lane saturated. -/
def vecStore (f rnd : Nat) (v : Vector Word 16) : List Byte × Bool :=
  (v.toList.flatMap fun w => (laneStore f rnd w).1, v.toList.any fun w => (laneStore f rnd w).2)

/-! Lane operations (R185) -/

/-- A lane result and whether it saturated. -/
def vopLane (op : Nat) (a b : Word) : Word × Bool :=
  match op with
  | 0 => satBits 32 (a.toInt + b.toInt)
  | 1 => satBits 32 (a.toInt - b.toInt)
  | 2 => (if a.toInt ≤ b.toInt then a else b, false)
  | 3 => (if a.toInt ≤ b.toInt then b else a, false)
  | 4 => satBits 32 (roundShift (a.toInt * b.toInt) 31 2)
  | 5 => (a &&& b, false)
  | 6 => (a ||| b, false)
  | 7 => (a ^^^ b, false)
  | 8 => (a + b, false)
  | 9 => (a - b, false)
  | 10 => satBits 32 (-a.toInt)
  | _ => satBits 32 (if a.toInt < 0 then -a.toInt else a.toInt)

/-- The checked unit of an operation (R190, R425; log 15, DESIGN CHOICE). -/
def vopUnit (op : Nat) : Nat := if op = 2 ∨ op = 3 ∨ op = 5 ∨ op = 6 ∨ op = 7 then 5 else 4

/-- A Sheaf instruction whose opcode needs SHSAVE.EN (R178). -/
def sheafOp (legal : BitVec 19 → Bool) (run : BitVec 19 → M Unit) : LongOp :=
  { legal := legal, sheaf := true, priv := fun _ => false, long := false, run := run }

/-- V register of three bits of [18:0]. -/
def vReg (x : BitVec 19) (lo : Nat) : Fin 8 := ⟨fieldN x lo 3 % 8, by omega⟩

/-- VCLR (R184). -/
def opVclr : LongOp := sheafOp (fun x => bits x 9 10 == 0#10) fun x => modSh fun h =>
  { h with
    v := vmap (fun i r => if x.getLsbD i.val then Vector.replicate 16 0 else r) h.v
    acc := if x.getLsbD 8 then Vector.replicate 16 0 else h.acc }

/-- VSPLAT (R184). -/
def opVsplat : LongOp := sheafOp (fun x => bits x 13 6 == 0#6 && bits x 0 10 == 0#10) fun x => do
  let c ← getC
  modSh fun h => { h with v := h.v.set (vReg x 10) (Vector.replicate 16 c.a) }

/-- VEXT, VINS: D or S in [12:10], the lane in [3:0] (R184). -/
def okLane (x : BitVec 19) : Bool := bits x 13 6 == 0#6 && bits x 4 6 == 0#6
def laneNo (x : BitVec 19) : Fin 16 := ⟨fieldN x 0 4 % 16, by omega⟩
def opVext : LongOp := sheafOp okLane fun x => fun e =>
  .ok () { e with c := { e.c with a := e.sh.v[vReg x 10][laneNo x] } }
def opVins : LongOp := sheafOp okLane fun x => do
  let c ← getC
  modSh fun h => { h with v := vupd h.v (vReg x 10) fun r => r.set (laneNo x) c.a }

/-- VACC (R182, R184). -/
def opVacc : LongOp :=
  sheafOp (fun x => bits x 13 6 == 0#6 && bits x 0 2 == 0#2 && fieldN x 3 2 != 3) fun x => do
    useUnit 6
    modSh fun h =>
      let r := h.readAll (fieldN x 5 5) (fieldN x 3 2)
      { h with
        v := h.v.set (vReg x 10) r.1
        acc := if x.getLsbD 2 then Vector.replicate 16 0 else h.acc }.noteSat r.2

/-- VOP with an OP code (R184, R185). -/
def opVop (op : Nat) : LongOp := sheafOp (fun x => bits x 13 6 == 0#6) fun x => do
  useUnit (vopUnit op)
  modSh fun h =>
    let a := h.v[vReg x 7]
    let b := h.v[vReg x 4]
    { h with v := h.v.set (vReg x 10) (Vector.ofFn fun l => (vopLane op a[l] b[l]).1) }.noteSat
      ((allFin 16).any fun l => (vopLane op a[l] b[l]).2)

/-- SHST as written: reserved bits 0, RND 11 as 10 (R177). -/
def shstWrite (v : Word) : Word :=
  let w := v &&& 0x1FF#32
  if fieldN w 2 2 = 3 then w &&& 0xFFFFFFFB#32 else w

/-- SHSAVE as written (R178). -/
def shsaveWrite (v : Word) : Word := v &&& 0x803FFFCF#32

/-- Whether a SHSAVE value may be written (R178). -/
def shsaveOk (F : Furrow) (v : Word) : Bool :=
  !v.getLsbD 31 ||
    match F.extents[fieldN v 0 4]? with
    | some e => decide (fieldN v 6 16 * 64 + 768 ≤ e.len)
    | none => false

/-- VMFS (R178, R184). -/
def opVmfs : LongOp := plainOp (fun x => bits x 1 18 == 0#18) fun x => fun e =>
  .ok () { e with c := { e.c with a := if x.getLsbD 0 then e.c.shsave else e.sh.shst } }

/-- VMTS: SHSAVE in Supervisor mode only, checked (R178, R184). -/
def opVmts : LongOp :=
  { legal := fun x => bits x 1 18 == 0#18, sheaf := false, priv := fun x => x.getLsbD 0, long := false
    run := fun x => do
      let e ← getX
      if x.getLsbD 0 then
        if shsaveOk e.F e.c.a then
          modC fun c => { c with shsave := shsaveWrite c.a }
          modSh fun h => h
        else raiseV 4
      else modSh fun h => { h with shst := shstWrite e.c.a } }

/-! Commands. A VOP row names its OP in [3:0] (R185). -/

/-- [18:0] of a VOP row. -/
def vopX (op : Nat) (x : BitVec 19) : BitVec 19 := insertBits x 0 (BitVec.ofNat 4 op)

def execVclr (g : Fin 96) (gd : Guard) (x : BitVec 19) (s : State) : Out := .next (issueLong g 0x68 gd x opVclr s)
def execVsplat (g : Fin 96) (gd : Guard) (x : BitVec 19) (s : State) : Out := .next (issueLong g 0x69 gd x opVsplat s)
def execVext (g : Fin 96) (gd : Guard) (x : BitVec 19) (s : State) : Out := .next (issueLong g 0x6A gd x opVext s)
def execVins (g : Fin 96) (gd : Guard) (x : BitVec 19) (s : State) : Out := .next (issueLong g 0x6B gd x opVins s)
def execVacc (g : Fin 96) (gd : Guard) (x : BitVec 19) (s : State) : Out := .next (issueLong g 0x6C gd x opVacc s)
def execVopAdds (g : Fin 96) (gd : Guard) (x : BitVec 19) (s : State) : Out :=
  .next (issueLong g 0x6D gd (vopX 0 x) (opVop 0) s)
def execVopSubs (g : Fin 96) (gd : Guard) (x : BitVec 19) (s : State) : Out :=
  .next (issueLong g 0x6D gd (vopX 1 x) (opVop 1) s)
def execVopMin (g : Fin 96) (gd : Guard) (x : BitVec 19) (s : State) : Out :=
  .next (issueLong g 0x6D gd (vopX 2 x) (opVop 2) s)
def execVopMax (g : Fin 96) (gd : Guard) (x : BitVec 19) (s : State) : Out :=
  .next (issueLong g 0x6D gd (vopX 3 x) (opVop 3) s)
def execVopMulq (g : Fin 96) (gd : Guard) (x : BitVec 19) (s : State) : Out :=
  .next (issueLong g 0x6D gd (vopX 4 x) (opVop 4) s)
def execVopAnd (g : Fin 96) (gd : Guard) (x : BitVec 19) (s : State) : Out :=
  .next (issueLong g 0x6D gd (vopX 5 x) (opVop 5) s)
def execVopOr (g : Fin 96) (gd : Guard) (x : BitVec 19) (s : State) : Out :=
  .next (issueLong g 0x6D gd (vopX 6 x) (opVop 6) s)
def execVopXor (g : Fin 96) (gd : Guard) (x : BitVec 19) (s : State) : Out :=
  .next (issueLong g 0x6D gd (vopX 7 x) (opVop 7) s)
def execVopAdd (g : Fin 96) (gd : Guard) (x : BitVec 19) (s : State) : Out :=
  .next (issueLong g 0x6D gd (vopX 8 x) (opVop 8) s)
def execVopSub (g : Fin 96) (gd : Guard) (x : BitVec 19) (s : State) : Out :=
  .next (issueLong g 0x6D gd (vopX 9 x) (opVop 9) s)
def execVopNeg (g : Fin 96) (gd : Guard) (x : BitVec 19) (s : State) : Out :=
  .next (issueLong g 0x6D gd (vopX 10 x) (opVop 10) s)
def execVopAbs (g : Fin 96) (gd : Guard) (x : BitVec 19) (s : State) : Out :=
  .next (issueLong g 0x6D gd (vopX 11 x) (opVop 11) s)
def execVmfs (g : Fin 96) (gd : Guard) (x : BitVec 19) (s : State) : Out := .next (issueLong g 0x6E gd x opVmfs s)
def execVmts (g : Fin 96) (gd : Guard) (x : BitVec 19) (s : State) : Out := .next (issueLong g 0x6F gd x opVmts s)

end Sys2Proof.Machine
end

