-- ==== Sys2Proof/Machine/Stack.lean ====
section
/-! DEFINITION. Stack frames: their checks, images, stores and loads (R111, R124-R126, R202, R213). -/

namespace Sys2Proof.Machine

/-- Checks 1 to 3 of every word of a frame, in the order of a push: from the top down (R110, R111, R125). -/
def checkSpan (off : Word) (read write : Bool) : Nat → M Unit
  | 0 => pure ()
  | k + 1 => do
    let _ ← access true 7 (off + nw (4 * k)) 4 4 read write
    checkSpan off read write k

/-- SP on a 4-byte boundary at a stack operation, once the rights of S7 allow it: vector 13, DETAIL 2 (R111, R124). -/
def spAligned (off : Word) (read write : Bool) : M Unit := fun x =>
  let g := x.c.segAt 7
  let denied := (read && !g.r) || (write && !g.w) || (g.sup && !pswPriv x.c.psw)
  if !denied && bits x.c.sp 0 2 != 0#2 then raiseAt 13 7 off write 2 false x else .ok () x

/-- Every check of a frame of n words at an offset of S7; its place (R111). -/
def frameChecks (off : Word) (n : Nat) (read write : Bool) : M Place := do
  checkSpan off read write n
  let x ← getX
  let p := place x.F.extents (x.c.segAt 7) off.toNat
  match p with
  | .plot a => touchLines 7 off a (4 * n) read write (wordsSpan a (4 * n))
  | _ => pure ()
  pure p

/-- Word stores to engine-local registers, from the top down. -/
def storeRegs (off : Word) (o : Nat) (l : List Word) : Nat → M Unit
  | 0 => pure ()
  | k + 1 => do
    storeAt 7 (off + nw (4 * k)) (bytes32 (l.getD k 0)) (.reg (o + 4 * k))
    storeRegs off o l k

/-- Word loads of engine-local registers, upwards. -/
def loadRegs (off : Word) (o n : Nat) : Nat → M (List Word)
  | 0 => pure []
  | k + 1 => do
    let j := n - (k + 1)
    let b ← loadAt 7 (off + nw (4 * j)) 4 (.reg (o + 4 * j))
    let r ← loadRegs off o n k
    pure (le32 b 0 :: r)

/-- A checked frame stored, its words from the lowest address up. To the fabric it leaves as one buffered store (log 6, DEDUCED). -/
def storeFrame (off : Word) (l : List Word) : M Unit := do
  let p ← frameChecks off l.length false true
  match p with
  | .reg o => storeRegs off o l l.length
  | p => storeAt 7 off (bytesOf l) p

/-- A frame of n words read after its checks. -/
def loadFrame (off : Word) (n : Nat) : M (List Word) := do
  let p ← frameChecks off n true false
  match p with
  | .reg o => loadRegs off o n n
  | .plot a => do
    note 7 off (4 * n) false
    let x ← getX
    pure (wordsAt (x.st.plotBytes (fieldOf x.g) a (4 * n)) 0 n)
  | p => do
    let b ← loadAt 7 off (4 * n) p
    pure (wordsAt b 0 n)

/-- Bits of a mask selected (R125). -/
def onBit (m : BitVec 8) (i : Nat) (l : List Word) : List Word := if m.getLsbD i then l else []

/-- The flag image C, Z, N, V in [3:0] (R125). -/
def Ctx.flagImage (c : Ctx) : Word := (bits c.psw 0 4 : BitVec 4).setWidth 32

/-- C, Z, N, V from an image. -/
def Ctx.setFlagImage (c : Ctx) (w : Word) : Ctx := { c with psw := insertBits c.psw 0 (bits w 0 4 : BitVec 4) }

/-- The items that a CALL mask selects, in push order; an image is pushed from its top word down (R125). -/
def callItems (m : BitVec 8) (c : Ctx) : List Word :=
  onBit m 0 [c.a] ++ onBit m 1 [c.x] ++ onBit m 2 [c.y] ++ onBit m 3 [c.predImage] ++
    onBit m 4 (imageWords (c.segAt 4).image).reverse ++ onBit m 5 (imageWords (c.segAt 5).image).reverse ++
    onBit m 6 [c.flagImage] ++ onBit m 7 [c.sp]

/-- Words of the items of a mask. -/
def callSpan (m : BitVec 8) : Nat := (callItems m Ctx.zero).length

/-- Words of a frame: return PC, items, pad and record (R125). -/
def frameSize (m : BitVec 8) : Nat := (callSpan m + 3) / 2 * 2

/-- The frame record of a mask (R125). -/
def frameRecord (m : BitVec 8) : Word := (BitVec.ofNat 5 (frameSize m) ++ m : BitVec 13).setWidth 32

/-- A CALL frame, its words from the lowest address up (R125). -/
def callFrame (m : BitVec 8) (ret : Word) (c : Ctx) : List Word :=
  let pad : List Word := if callSpan m % 2 = 1 then [0] else []
  frameRecord m :: (pad ++ (callItems m c).reverse ++ [ret])

/-- CALL, CALLF, CALLI: the target first, the frame second (R125, R152). -/
def callTo (m : BitVec 8) (target : Ctx → Word) : M Unit := do
  let c ← getC
  let pc := target c
  checkTarget (pswCsel c.psw) (c.segAt (pswCsel c.psw)) (pswPriv c.psw) pc
  let off := c.sp - nw (4 * frameSize m)
  spAligned (c.sp - 4) false true
  storeFrame off (callFrame m (c.pc + 4) c)
  useUnit 2
  modC fun c => { c with sp := off }
  jumpTo pc

/-- The image of four words, the lowest first. -/
def imageOfWords (l : List Word) : BitVec 128 := l.getD 3 0 ++ l.getD 2 0 ++ l.getD 1 0 ++ l.getD 0 0

/-- What a frame restores, taken from its words in push order after the return PC (R126). -/
structure Restore where
  c : Ctx
  rest : List Word
  segs : Bool
  link : Bool

/-- One item of one word. -/
def Restore.one (r : Restore) (m : BitVec 8) (i : Nat) (f : Ctx → Word → Ctx) : Restore :=
  if m.getLsbD i then { r with c := f r.c (r.rest.getD 0 0), rest := r.rest.drop 1 } else r

/-- A segment image, checked under R109. -/
def Restore.seg (r : Restore) (F : Furrow) (m : BitVec 8) (i : Nat) (k : Fin 8) : Restore :=
  if m.getLsbD i then
    let w := imageOfWords (r.rest.take 4).reverse
    { r with
      c := { r.c with seg := r.c.seg.set k (Seg.ofImage w) }
      rest := r.rest.drop 4, segs := r.segs && F.segOk w }
  else r

/-- The SP-link, which must be SP after the return (R126). -/
def Restore.spLink (r : Restore) (m : BitVec 8) (top : Word) : Restore :=
  if m.getLsbD 7 then { r with link := r.rest.getD 0 0 == top, rest := r.rest.drop 1 } else r

/-- The items of a mask restored from words in push order (R126). -/
def restoreItems (F : Furrow) (m : BitVec 8) (c : Ctx) (top : Word) (l : List Word) : Restore :=
  let r : Restore := { c := c, rest := l, segs := true, link := true }
  let r := r.one m 0 fun c w => { c with a := w }
  let r := r.one m 1 fun c w => { c with x := w }
  let r := r.one m 2 fun c w => { c with y := w }
  let r := r.one m 3 fun c w => c.setPreds w
  let r := r.seg F m 4 4
  let r := r.seg F m 5 5
  let r := r.one m 6 fun c w => c.setFlagImage w
  r.spLink m top

/-- RETM (R126, R152): the record, the frame, the link, the images and the target are checked before anything is restored. -/
def retM : M Unit := do
  let c ← getC
  spAligned c.sp true false
  let rec_ ← loadFrame c.sp 1
  let w := rec_.getD 0 0
  let m : BitVec 8 := bits w 0 8
  if bits w 13 19 ≠ 0#19 ∨ fieldN w 8 5 ≠ frameSize m then raiseAt 13 7 c.sp false 3
  let n := frameSize m
  let l ← loadFrame c.sp n
  let top := c.sp + nw (4 * n)
  let x ← getX
  let ret := l.getD (n - 1) 0
  let r := restoreItems x.F m c top ((l.take (n - 1)).reverse)
  if !r.link then raiseAt 13 7 (c.sp + nw (4 * (n - 2 - (callSpan m - 1)))) false 3
  if !r.segs then raiseAt 4 7 c.sp false
  checkTarget (pswCsel c.psw) (c.segAt (pswCsel c.psw)) (pswPriv c.psw) ret
  useUnit 2
  modC fun _ => { r.c with sp := top }
  jumpTo ret

/-- The exception frame of R202, its words from SP up. -/
def excFrame (pc : Word) (c : Ctx) (psw addr cause : Word) (prog0 prog1 : Word) : List Word :=
  [pc, psw, c.a, c.x, c.y, c.predImage, prog0, prog1, addr, cause, if pswLdp psw then c.ldv else 0, c.sp]

/-- Reserved bits of PSW (R104). -/
def pswReserved : Word := 0xFFF84880#32

/-- RETX (R213): nothing is restored unless every check passes; the next boundary samples no interrupt (R200). -/
def retX : M Unit := do
  let c ← getC
  if fieldN c.sp 0 3 ≠ 0 then raiseAt 13 7 c.sp false 2
  let l ← loadFrame c.sp 12
  let w (i : Nat) : Word := l.getD i 0
  let psw := w 1
  if psw &&& pswReserved ≠ 0 then raiseAt 13 7 (c.sp + 4) false 3
  let x ← getX
  let sw := (w 9).getLsbD 7
  let im ← if sw then (loadFrame (c.sp + 48) 4) else pure []
  if sw ∧ !x.F.segOk (imageOfWords im) then raiseAt 4 7 (c.sp + 48) false
  let seg := if sw then c.seg.set 7 (Seg.ofImage (imageOfWords im)) else c.seg
  checkTarget (pswCsel psw) seg[(pswCsel psw).toNat] (pswPriv psw) (w 0)
  let c' : Ctx :=
    { c with
      psw := psw, a := w 2, x := w 3, y := w 4, prog0 := w 6, prog1 := w 7
      ldv := if pswLdp psw then w 10 else 0, sp := w 11, seg := seg }
  modC fun _ => c'.setPreds (w 5)
  jumpTo (w 0)
  fun x => .ok () { x with retx := true, nosample := true }

end Sys2Proof.Machine
end

