-- ==== Sys2Proof/Machine/System.lean ====
section
/-! DEFINITION. System instructions, atomics and bank hold (R105, R129, R130, R153-R157, R207). -/

namespace Sys2Proof.Machine

/-- SLD Ss: a 128-bit image, checked under R109; an SLD to S7 suppresses sampling at the next boundary (R153, R200). -/
def opSld (k : Fin 8) : LongOp := superOp okMw fun x => do
  let off ← operandOffset x 16
  let l ← load (xSeg x) off 16
  let e ← getX
  if !e.F.segOk (imageOf l) then raiseAt 4 (xSeg x) off false
  modC fun c => { c with seg := c.seg.set k (Seg.ofImage (imageOf l)) }
  if k.val = 7 then fun e => .ok () { e with nosample := true } else pure ()

/-- SST Ss (R153). -/
def opSst (k : Fin 8) : LongOp := superOp okMw fun x => do
  let off ← operandOffset x 16
  let c ← getC
  store (xSeg x) off (bytesOf (imageWords c.seg[k].image))

/-- MFPSW: A = PSW (R153). -/
def opMfpsw : LongOp := plainOp okN fun _ => modC fun c => { c with a := c.psw }

/-- Fields of PSW that MTPSW writes: C, Z, N, V in User mode; TE, ML, PRIV and CSEL too in Supervisor mode (R105). -/
def pswWritable (priv : Bool) : Word := if priv then 0x0007874F#32 else 0x0000000F#32

/-- PSW with a value written field by field (R105). -/
def pswWrite (psw v : Word) : Word :=
  let m := pswWritable (pswPriv psw)
  (psw &&& ~~~m) ||| (v &&& m)

/-- MTPSW: PSW = A, field by field (R105, R153). -/
def opMtpsw : LongOp := plainOp okN fun _ => modC fun c => { c with psw := pswWrite c.psw c.a }

/-- Modes of RDPROG and WRPROG: IMM[0] names the word (R153). -/
def okProg (x : BitVec 19) : Bool := okI x && bits x 1 16 == 0#16

/-- RDPROG, WRPROG (R153). -/
def opRdprog : LongOp := superOp okProg fun x =>
  modC fun c => { c with a := if x.getLsbD 0 then c.prog1 else c.prog0 }
def opWrprog : LongOp := superOp okProg fun x =>
  modC fun c => if x.getLsbD 0 then { c with prog1 := c.a } else { c with prog0 := c.a }

/-- MBAR (R119, R207): a pending report raises vector 8 at it; it completes when no buffered store of the furrow is
unacknowledged, and every cycle of its wait is a boundary. -/
def opMbar : LongOp := plainOp okN fun _ => fun e =>
  match e.c.rep8 with
  | some r =>
    .error (.fault { mkFault e 8 r.off r.seg false true r.seq with more := r.more }) e
  | none => if e.st.storesOut e.F.id then .error .again e else .ok () e

/-- Latched sources of R154: mover completion and timer event. -/
def latchedMask : BitVec 16 := 0x0A00#16

/-- EVWAIT (R155). -/
def opEvwait : LongOp := plainOp (fun x => okI x && !x.getLsbD 16) fun x => fun e =>
  let m : BitVec 16 := bits x 0 16
  let got := e.st.sources e.F &&& m
  if m = 0 then .ok () { e with yields := true, c := { e.c with a := 0 } }
  else if got = 0 then .error (.evwait m) e
  else
    .ok () { e with
      c := { e.c with a := got.setWidth 32, latched := e.c.latched &&& ~~~(got &&& latchedMask) } }

/-- BANKHOLD (R129, R130): a further one breaks the hold in force and takes none. -/
def opBankhold : LongOp := plainOp okMw fun x => do
  let off ← operandOffset x 4
  let a ← plotOnly false (xSeg x) off false true
  fun e =>
    if e.st.engines[e.g].hold.isSome then
      .ok () { e with
        st := e.st.updEngine e.g fun E => { E with hold := none }
        c := { e.c with psw := setHb e.c.psw } }
    else
      .ok () { e with
        st := e.st.updEngine e.g fun E => { E with hold := some (bankOf a) }
        c := { e.c with psw := e.c.psw &&& 0xFFFFFFDF#32 } }

/-- BANKFREE (R130). -/
def opBankfree : LongOp := plainOp okN fun _ => fun e =>
  .ok () { e with st := e.st.updEngine e.g fun E => { E with hold := none } }

/-- An atomic of A at the memory operand: A takes the old value (R156, R157). -/
def atomic (unit : Option Nat) (f : Word → Word → Word) (x : BitVec 19) : M Unit := do
  let off ← operandOffset x 4
  let c ← getC
  let old ← rmw false (xSeg x) off unit fun o => f o c.a
  modC fun c => { c with a := old }

/-- AADD, ASWAP (R156, R157). -/
def opAadd : LongOp := plainOp okMw (atomic (some 7) fun old a => old + a)
def opAswap : LongOp := plainOp okMw (atomic none fun _ a => a)

def execSld (g : Fin 96) (gd : Guard) (k : Fin 8) (x : BitVec 19) (s : State) : Out :=
  .next (issueLong g (BitVec.ofNat 8 (0x40 + k.val)) gd x (opSld k) s)
def execSst (g : Fin 96) (gd : Guard) (k : Fin 8) (x : BitVec 19) (s : State) : Out :=
  .next (issueLong g (BitVec.ofNat 8 (0x48 + k.val)) gd x (opSst k) s)
def execMfpsw (g : Fin 96) (gd : Guard) (x : BitVec 19) (s : State) : Out := .next (issueLong g 0x50 gd x opMfpsw s)
def execMtpsw (g : Fin 96) (gd : Guard) (x : BitVec 19) (s : State) : Out := .next (issueLong g 0x51 gd x opMtpsw s)
def execRdprog (g : Fin 96) (gd : Guard) (x : BitVec 19) (s : State) : Out := .next (issueLong g 0x52 gd x opRdprog s)
def execWrprog (g : Fin 96) (gd : Guard) (x : BitVec 19) (s : State) : Out := .next (issueLong g 0x53 gd x opWrprog s)
def execMbar (g : Fin 96) (gd : Guard) (x : BitVec 19) (s : State) : Out := .next (issueLong g 0x54 gd x opMbar s)
def execEvwait (g : Fin 96) (gd : Guard) (x : BitVec 19) (s : State) : Out := .next (issueLong g 0x55 gd x opEvwait s)
def execBankhold (g : Fin 96) (gd : Guard) (x : BitVec 19) (s : State) : Out := .next (issueLong g 0x56 gd x opBankhold s)
def execBankfree (g : Fin 96) (gd : Guard) (x : BitVec 19) (s : State) : Out := .next (issueLong g 0x57 gd x opBankfree s)
def execAadd (g : Fin 96) (gd : Guard) (x : BitVec 19) (s : State) : Out := .next (issueLong g 0x58 gd x opAadd s)
def execAswap (g : Fin 96) (gd : Guard) (x : BitVec 19) (s : State) : Out := .next (issueLong g 0x59 gd x opAswap s)

end Sys2Proof.Machine
end

