-- ==== Sys2Proof/Machine/Customer.lean ====
section
/-! DEFINITION. Customer instructions: dispatch, and the microwords of their routines (R162, R219-R238). -/

namespace Sys2Proof.Machine

/-- The sequencer within a routine: control-store address, T0-T3, MAR, MDR, micro-call stack, watchdog cycles, held memory writes, words
run since the last commit, whether a fault records PROG; then what stood at the last commit: the sequencer, the fabric data at hand, the
accesses made, the machine and the Sheaf, and the registers of the last boundary (R226-R238). -/
structure Micro where
  pc : BitVec 13
  t : Vector Word 4
  mar : Word
  mdr : Word
  stack : List (BitVec 13)
  cycles : Nat
  held : Nat
  ran : Nat
  progress : Bool
  save : MicroSave
  data : List (DWord × Reply)
  acc : List Access
  st : State
  sh : Sheaf
  c : Ctx

/-- Fabric reads and writes in flight of an engine (R119). -/
def State.opsInFlight (s : State) (g : Fin 96) : Nat :=
  (s.fields[fieldOf g].ports.txns.filter fun t => t.id.toNat / 16 == (localOf g).val).length

/-- Memory operations in flight, with the writes held (R119, R233). -/
def Micro.inFlight (m : Micro) (g : Fin 96) : Nat := m.st.opsInFlight g + m.held

/-- PROG of an interruption point (R234). -/
def Micro.prog (m : Micro) (op : BitVec 8) (c : Ctx) : Ctx :=
  { c with prog0 := m.t[2], prog1 := progWordOf (bits op 0 5) (bits m.t[3] 0 26) }
where
  /-- PROG word 1 (R168). -/
  progWordOf (o : BitVec 5) (state : BitVec 26) : Word := 1#1 ++ o ++ state

/-- The machine as the last commit left it (R233, R234). -/
def Micro.committed (m : Micro) (x : Ex) : Ex :=
  { x with st := m.st, sh := m.sh, acc := m.acc, keep := true, c := { m.c with storeSeq := m.save.c.storeSeq } }

/-- What stands when a routine stops at a fault: everything since the last commit is discarded (R233, R234). -/
def Micro.rollback (m : Micro) (op : BitVec 8) (x : Ex) : Ex :=
  let y := m.committed x
  { y with c := if m.progress then m.prog op y.c else y.c }

/-- What stands while a word of a routine stalls: the engine keeps the routine as it stood at its last commit, and goes on from there
(log 6, DEDUCED). -/
def Micro.stalled (m : Micro) (wait : Option (BitVec 13 × DWord)) (x : Ex) : Ex :=
  let y := m.committed x
  { y with
    data := m.data
    st := y.st.updEngine x.g fun E => { E with micro := some { m.save with ran := max m.save.ran m.ran, wait := wait } } }

/-- The sequencer to go on from. -/
def Micro.here (m : Micro) (c : Ctx) : MicroSave :=
  { pc := m.pc, t := m.t, mar := m.mar, mdr := m.mdr, stack := m.stack, cycles := m.cycles, progress := m.progress, c := c, ran := 0
    wait := none }

/-- All that has been done stands, but for the registers (R233). -/
def Micro.commit (m : Micro) (x : Ex) : Micro :=
  { m with st := x.st, sh := x.sh, data := x.data, acc := x.acc, held := 0, ran := 0, save := m.here x.c }

/-- A routine that starts, or goes on, from a saved sequencer. -/
def Micro.from (v : MicroSave) (x : Ex) : Micro :=
  { pc := v.pc, t := v.t, mar := v.mar, mdr := v.mdr, stack := v.stack, cycles := v.cycles, held := 0, ran := 0, progress := v.progress
    save := v, data := x.data, acc := x.acc, st := x.st, sh := x.sh, c := x.c }

/-- The buffered registers over those of the context, which reports and sources may have changed during a stall (R233). -/
def MicroSave.registers (v : MicroSave) (c : Ctx) : Ctx :=
  let d := v.c
  { c with
    a := d.a, x := d.x, y := d.y, sp := d.sp, pc := d.pc, p := d.p, prog0 := d.prog0, prog1 := d.prog1, storeSeq := d.storeSeq
    psw := if c.psw.getLsbD 5 then setHb d.psw else d.psw }

/-- Vector 14 with a DETAIL of R238; its fault address is MAR (log 9, DESIGN CHOICE). -/
def customerFault {α : Type} (m : Micro) (detail : BitVec 16) : M α := fun x =>
  .error (.fault (mkFault x 14 m.mar 0 false false detail)) x

/-- Source IRF (R223). OPND has no meaning in a long word. -/
def irField (op : BitVec 8) (ir : BitVec 19) (k : Nat) : M Word :=
  match k with
  | 0 => pure ((xImm ir).signExtend 32)
  | 1 => pure (xDisp ir)
  | 2 => pure (xDisp ir * nw (sizeBytes (xSize ir)))
  | 3 => pure ((xSeg ir).setWidth 32)
  | 4 => pure (nw (xMode ir))
  | 5 => pure (nw (xSize ir))
  | 6 => pure (op.setWidth 32)
  | 8 => pure ((bits ir 11 8 : BitVec 8).setWidth 32)
  | 9 => pure ((bits ir 0 11 : BitVec 11).signExtend 32)
  | 10 => pure (ir.setWidth 32)
  | _ => freeM 32

/-- An operand source (R221). -/
def microSource (m : Micro) (w : MWord) (op : BitVec 8) (ir : BitVec 19) (k : Nat) : M Word := do
  let c ← getC
  match k with
  | 0 => pure 0
  | 1 => pure c.a
  | 2 => pure c.x
  | 3 => pure c.y
  | 4 => pure c.sp
  | 5 => pure c.pc
  | 6 => pure c.psw
  | 7 => pure m.mdr
  | 8 => pure w.lit
  | 9 => irField op ir w.fsel
  | 10 => pure m.t[0]
  | 11 => pure m.t[1]
  | 12 => pure m.t[2]
  | 13 => pure m.t[3]
  | 14 => pure c.predImage
  | _ => pure (if w.lit.getLsbD 0 then c.prog1 else c.prog0)

/-- The ALU (R222); the divide steps are in `microDivide`. -/
def microAlu (op : Nat) (a b : Word) (c : Bool) (ir : BitVec 19) : Alu :=
  let k := fieldN b 0 5
  match op with
  | 0 => aluZN a
  | 1 => aluZN b
  | 2 => aluAdd a b false
  | 3 => aluAdd a b c
  | 4 => aluSub a b false
  | 5 => aluSub a b (!c)
  | 6 => aluZN (a &&& b)
  | 7 => aluZN (a ||| b)
  | 8 => aluZN (a ^^^ b)
  | 9 => aluZN (a &&& ~~~b)
  | 10 => aluShl a k
  | 11 => aluShr a k
  | 12 => aluSar a k
  | 13 => aluRor a k
  | 14 => aluMul a b
  | 15 => aluMulh a b
  | 16 => aluMulhu a b
  | 19 => aluClz a
  | 20 => aluBswap a
  | 21 => aluZN ((bits a 0 8 : BitVec 8).signExtend 32)
  | 22 => aluZN ((bits a 0 16 : BitVec 16).signExtend 32)
  | 23 => aluZN ((bits a 0 8 : BitVec 8).setWidth 32)
  | 24 => aluZN ((bits a 0 16 : BitVec 16).setWidth 32)
  | 25 => aluNeg a
  | 26 => aluAbs a
  | 27 => aluZN (if a.toInt ≤ b.toInt then a else b)
  | 28 => aluZN (if a.toInt ≤ b.toInt then b else a)
  | 29 => aluZN (crcByte a (bits b 0 8))
  | _ => aluAdd a (b <<< min 2 (xSize ir)) false

/-- Checked unit of an ALU operation; none for a plain pass (R236, R425). -/
def microUnit (op : Nat) : Option Nat :=
  if op ≤ 1 then none
  else if (2 ≤ op ∧ op ≤ 5) ∨ (14 ≤ op ∧ op ≤ 18) ∨ op = 25 ∨ op = 26 ∨ op = 30 then some 1
  else some 3

/-- Flags that FLAGW writes (R220). -/
def microFlags (k : Nat) (q : Alu) : Alu :=
  match k with
  | 0 => { q with c := none, z := none, n := none, v := none }
  | 1 => { q with c := none, v := none }
  | 2 => q
  | _ => { q with v := none }

/-- The condition of a word before CINV (R230). Data of the latest load and the Sheaf pipeline are always ready (log 7, DESIGN CHOICE). -/
def microCond (m : Micro) (q : Alu) (size : Nat) (x : Ex) (seg : Seg) (ir : BitVec 19) (k : Nat) : Bool :=
  let c := x.c
  let E := x.st.engines[x.g]
  let F := { x.F with ctx := { c with nosample := false } }
  match k with
  | 0 => true
  | 1 => q.val == 0
  | 2 => q.val.msb
  | 3 => q.c.getD false
  | 4 => q.v.getD false
  | 5 => pswC c.psw
  | 6 => pswZ c.psw
  | 7 => pswN c.psw
  | 8 => pswV c.psw
  | 9 => true
  | 10 => pswPriv c.psw
  | 11 => pswLdp c.psw
  | 12 => c.psw.getLsbD 5
  | 13 => E.hold.isSome
  | 14 => true
  | 15 => decide (m.inFlight x.g < 16)
  | 16 => !x.st.storesOut x.F.id
  | 17 => c.rep8.isSome
  | 18 => m.t[0] == 0
  | 19 => fieldN m.t[2] 0 6 == 0
  | 20 => x.st.eventDue x.g F
  | 21 => (x.st.irqNext F).isSome
  | 22 => E.ctl.pend
  | 23 => x.st.sower.migs.any fun g => g.fid == x.F.id && g.st == .quiesce
  | 24 => c.sheafOn
  | 25 => x.sh.dirty
  | 26 => true
  | 27 => x.st.moverSlot (fieldOf x.g) (some x.g)
  | 28 =>
    match place x.F.extents seg m.mar.toNat with
    | .plot a => x.st.heldByOther x.g a
    | _ => false
  | 29 => c.prog1.getLsbD 31
  | 30 => xMode ir == 0
  | 31 => false
  | 56 => m.stack.isEmpty
  | 57 => decide (4 ≤ m.stack.length)
  | 58 => (place x.F.extents seg m.mar.toNat).addr % size == 0
  | 59 => decide (512 < m.cycles)
  | k =>
    if 32 ≤ k ∧ k ≤ 43 then (x.st.sources x.F).getLsbD (k - 32)
    else if 48 ≤ k ∧ k ≤ 55 then c.pred ⟨(k - 48) % 8, by omega⟩
    else false

/-- Key of a DISPATCH (R227). -/
def microKey (ir : BitVec 19) (c : Ctx) (k : Nat) : M (BitVec 4) :=
  match k with
  | 0 => pure (BitVec.ofNat 4 (xMode ir))
  | 1 => pure (BitVec.ofNat 4 (xSize ir))
  | 2 => pure (BitVec.ofNat 4 (4 * xMode ir + xSize ir))
  | 3 => pure ((xSeg ir).setWidth 4)
  | 4 => pure ((bits ir 7 3 : BitVec 3).setWidth 4)
  | 5 => pure (bits ir 0 4)
  | 6 => pure ((bits ir 5 2 : BitVec 2).setWidth 4)
  | 7 => pure ((bit 1 (c.prog1.getLsbD 31) ++ bit 1 (pswLdp c.psw) : BitVec 2).setWidth 4)
  | _ => do
    let r ← freeM 3
    pure (r.setWidth 4)

/-- Segment register of MSEG, and whether the access is a stack operation (R224). -/
def microSeg (ir : BitVec 19) (k : Nat) : BitVec 3 × Bool :=
  match k with
  | 8 => (xSeg ir, false)
  | 9 => (bits ir 16 3, false)
  | 10 => (bits ir 13 3, false)
  | 11 => (7, true)
  | k => (BitVec.ofNat 3 k, false)

/-- Bytes of the access of a word: MSIZE, or the SIZE of the instruction; 16 for a Sheaf line (R224). -/
def microSize (w : MWord) (ir : BitVec 19) : Nat :=
  if 5 ≤ w.mop then 16 else if w.msize = 3 then sizeBytes (xSize ir) else sizeBytes w.msize

/-- Room for one more memory operation (R119): with 16 writes held none comes, and the word waits to the watchdog's limit (R233, R238). -/
def microRoom (m : Micro) : M Unit := fun x =>
  if m.inFlight x.g < 16 then .ok () x else .error (if m.held < 16 then .room else .over) x

/-- A memory write is held: a 17th raises vector 14 (R233, R238). -/
def microHold (m : Micro) : M Micro := do
  if 16 ≤ m.held then customerFault m 0xFF04
  microRoom m
  pure { m with held := m.held + 1 }

/-- The memory operation of a word (R224): the sequencer after it, and the word it gives MDR. -/
def microMemory (m : Micro) (w : MWord) (ir : BitVec 19) : M (Micro × Option Word) := do
  let (i, stack) := microSeg ir w.mseg
  let n := microSize w ir
  match w.mop with
  | 1 => do
    microRoom m
    let l ← load i m.mar n stack
    pure (m, some (extend l n w.msx))
  | 2 => do
    let m ← microHold m
    store i m.mar (lowBytes m.mdr n) stack
    pure (m, none)
  | 3 => do
    let m ← microHold m
    let old ← rmw stack i m.mar (some 7) fun o => o + m.mdr
    pure (m, some old)
  | 4 => do
    let m ← microHold m
    let old ← rmw stack i m.mar none fun _ => m.mdr
    pure (m, some old)
  | 5 => do
    microRoom m
    let _ ← load i m.mar 16 stack
    pure (m, none)
  | 6 => do
    let m ← microHold m
    let l ← freeBytesM 16
    store i m.mar l stack
    pure (m, none)
  | _ => pure (m, none)

/-- Whether a check of a word applies: its bit asks for it, and in the customer region always (R236). -/
def Micro.checks (m : Micro) (b : Bool) : Bool := b || inCustomer m.pc

/-- The Sheaf control of a word (R224). What a step moves between a line and a V register, and which data a MAC step takes, is not stated:
free values (log 9, DESIGN CHOICE). -/
def microSheaf (m : Micro) (w : MWord) (ir : BitVec 19) : M Unit := do
  let c ← getC
  let k := w.sopc
  let unit (u : Nat) : M Unit := if m.checks w.rshf then useUnit u else pure ()
  if k ≠ 0 ∧ !c.sheafOn then raiseV 1
  match k with
  | 1 => do
    if fieldN ir 5 2 = 3 then raiseV 1
    unit 4
    let f ← freeM 512
    modSh fun h => h.mac (fieldN ir 5 2) (fun l => h.v[w.sreg][l]) fun l => bits f (32 * l.val) 32
  | 2 => do
    unit 6
    modSh fun h =>
      let r := h.readAll (shOsh h.shst) (shRnd h.shst)
      { h with v := h.v.set w.sreg r.1 }.noteSat r.2
  | 3 => do
    let o := fieldN ir 0 4
    if 12 ≤ o then raiseV 1
    unit (vopUnit o)
    modSh fun h =>
      let a := h.v[vReg ir 7]
      let b := h.v[vReg ir 4]
      { h with v := h.v.set w.sreg (Vector.ofFn fun l => (vopLane o a[l] b[l]).1) }.noteSat
        ((allFin 16).any fun l => (vopLane o a[l] b[l]).2)
  | 4 => do
    let f ← freeM 512
    modSh fun h => { h with v := h.v.set w.sreg (Vector.ofFn fun l : Fin 16 => bits f (32 * l.val) 32) }
  | 6 => modSh fun h => { h with acc := Vector.replicate 16 0 }
  | _ => pure ()

/-- Destination of the ALU result (R221); codes 13 to 15 are reserved. -/
def microDest (m : Micro) (w : MWord) (v : Word) : M Micro :=
  match w.dest with
  | 1 => do
    modC fun c => { c with a := v }
    pure m
  | 2 => do
    modC fun c => { c with x := v }
    pure m
  | 3 => do
    modC fun c => { c with y := v }
    pure m
  | 4 => do
    modC fun c => { c with sp := v }
    pure m
  | 5 => do
    transfer v
    pure m
  | 6 => do
    modC fun c => { c with psw := pswWrite c.psw v }
    pure m
  | 7 => pure { m with t := m.t.set 0 v }
  | 8 => pure { m with t := m.t.set 1 v }
  | 9 => pure { m with t := m.t.set 2 v }
  | 10 => pure { m with t := m.t.set 3 v }
  | 11 => do
    modC fun c => if w.lit.getLsbD 0 then { c with prog1 := v } else { c with prog0 := v }
    pure m
  | 12 => do
    regWrite 0 (nw (4 * fieldN w 0 8)) (4 * fieldN w 0 8) v
    pure m
  | _ => pure m

/-- The result of a word written: under LDEL the data of its load goes to DEST under the load delay (R120, R220). -/
def microResult (m : Micro) (w : MWord) (got : Option Word) (v : Word) : M Micro :=
  match w.ldel, got with
  | true, some d =>
    if 1 ≤ w.dest ∧ w.dest ≤ 4 then do
      setLoad (BitVec.ofNat 2 (w.dest - 1)) d
      pure m
    else microDest m w v
  | _, _ => microDest m w v

/-- Predicate write of a word (R220). -/
def microPred (w : MWord) (b : Bool) (v : Word) : M Unit := modC fun c =>
  let d := predNo w 0
  match w.pwr with
  | 1 => c.setPred d b
  | 2 => c.setPred d (c.pred d && b)
  | 3 => c.setPred d (c.pred d || b)
  | 4 => c.setPred d (c.pred d != b)
  | 5 => c.setPreds v
  | _ => c

/-- DATA packet of an access of a word (R467). -/
def dataPacket (x : Ex) (a : Access) (v : Word) : List DWord :=
  packet 3 x.g.val x.F.id a.off [(BitVec.ofNat 2 (Nat.log2 (min a.len 4)) ++ bit 1 a.write ++ a.seg : BitVec 6).setWidth 64, v.setWidth 64]

/-- The packet of a word's TRACE code (R225, R467): CUSTOM, RETIRE, or DATA of the access it has made. -/
def microTrace (x : Ex) (w : MWord) (v mdr : Word) (s : State) : State :=
  match w.trace with
  | 1 => s.emitFurrow x.g x.F.id x.c (packet 4 x.g.val x.F.id ((bits w 0 16 : BitVec 16).setWidth 32) [v.setWidth 64])
  | 2 => s.emitFurrow x.g x.F.id x.c (packet 5 x.g.val x.F.id x.orig.pc [])
  | 3 =>
    match s.dbg.trcCtl.getLsbD 6, w.mop == 0, x.acc.getLast? with
    | true, false, some a => s.emitFurrow x.g x.F.id x.c (dataPacket x a mdr)
    | _, _, _ => s
  | _ => s

/-- Trace packet and Tally event of a word (R225, R467, R469); neither is discarded by a later fault. A word that a stalled routine runs
again has made its own already. -/
def microNotes (m : Micro) (w : MWord) (v : Word) : M Micro := do
  let x ← getX
  if m.ran < m.save.ran then pure m
  else
    let f (s : State) : State :=
      let s := microTrace x w v m.mdr s
      if 8 ≤ w.tally then s.count 6 (x.g.val * 8 + (w.tally - 8)) 1 else s
    modS f
    pure { m with st := f m.st }

/-- Engine cycles that have passed since a time at the Field's declared rate (R229; log 65, DESIGN CHOICE). -/
def Ex.cyclesSince (x : Ex) (t : DWord) : Nat := x.st.since t * x.st.rateOf (fieldOf x.g) / 1000000

/-- Overflow or underflow of the micro-call stack: vector 14 in the customer region, Stuck in the vendor region (R228). -/
def stackFault {α : Type} (m : Micro) (detail : BitVec 16) : M α :=
  if inCustomer m.pc then customerFault m detail else fun x => .error (.stuck 3) x

/-- The address after a word (R226, R228, R229): none at a boundary that ends the routine. A WAIT word whose condition is false stalls, and
its limit counts from its first cycle. -/
def microNext (m : Micro) (w : MWord) (ir : BitVec 19) (b : Bool) : M (Micro × Bool) := do
  let x ← getX
  let a1 := m.pc + 1
  match w.seq with
  | 0 => pure ({ m with pc := w.next }, false)
  | 1 => pure ({ m with pc := if b then w.next else a1 }, false)
  | 2 => do
    let k ← microKey ir x.c w.cond
    pure ({ m with pc := insertBits w.next 0 k }, false)
  | 3 =>
    if 4 ≤ m.stack.length then stackFault m 0xFF01
    else pure ({ m with pc := w.next, stack := a1 :: m.stack }, false)
  | 4 =>
    match m.stack with
    | [] => stackFault m 0xFF02
    | r :: l => pure ({ m with pc := r, stack := l }, false)
  | 5 =>
    if b then pure ({ m with pc := a1 }, false)
    else
      match m.save.wait with
      | some (p, t) =>
        if p = m.pc ∧ w.waitlim ≠ 0 ∧ 16 * w.waitlim ≤ x.cyclesSince t then
          pure ({ m with pc := w.next, cycles := m.cycles + 16 * w.waitlim }, false)
        else fun x => .error .room x
      | none => fun x => .error .room x
  | _ => do
    (fun x => .ok () { x with eoi := w.seq == 6 })
    pure (m, true)

/-- What stands committed after a word: all at an interruption point, memory and Sheaf state under ECMT (R233, R234). The micro-call stack
is empty at a boundary (R228). -/
def microCommit (m : Micro) (w : MWord) (op : BitVec 8) (atPoint done : Bool) : M Micro := do
  let x ← getX
  if atPoint && !done then
    if x.eventDue then (fun x => .error .pause { x with c := m.prog op x.c, keep := true })
    else pure { ({ m with cycles := 0, stack := [] } : Micro).commit x with c := x.c }
  else if w.ecmt then pure (m.commit x)
  else pure m

/-- The fault that a word raises at its end (R225). -/
def microFault (m : Micro) (w : MWord) (seg : BitVec 3) : M Unit :=
  if w.fault = 0 then pure ()
  else if w.fault = 14 then customerFault m (bits w 0 16)
  else raiseAt w.fault seg m.mar false

/-- A divide step: what it leaves in T0, T1 and the result is not stated (R222; log 9, DESIGN CHOICE). -/
def microDivide (m : Micro) (op : Nat) (q : Alu) : M (Micro × Alu) :=
  if op = 17 ∨ op = 18 then do
    let r ← freeM 32
    let t0 ← freeM 32
    let t1 ← freeM 32
    pure ({ m with t := (m.t.set 0 t0).set 1 t1 }, aluZN r)
  else pure (m, q)

/-- One microword (R231, R233): sources as at its start, every write at its end. The answer says whether the routine has ended. -/
def microWord (m : Micro) (w : MWord) (op : BitVec 8) (ir : BitVec 19) : M (Micro × Bool) := do
  let x0 ← getX
  let a ← microSource m w op ir w.asrc
  let b ← microSource m w op ir w.bsrc
  let (m1, q) ← microDivide m w.aluop (microAlu w.aluop a b (pswC x0.c.psw) ir)
  match microUnit w.aluop with
  | some u => if m.checks (if u = 1 then w.ralu else w.dup) then useUnit u
  | none => pure ()
  if w.marw && m.checks w.radr then useUnit 2
  let seg := (microSeg ir w.mseg).1
  let raw := microCond m q (microSize w ir) x0 (x0.c.segAt seg) ir w.cond
  let cond := raw != w.cinv
  let (m2, got) ← microMemory m1 w ir
  microSheaf m w ir
  modC fun c => c.flags (microFlags w.flagw q)
  microPred w cond q.val
  let m3 ← microResult m2 w got q.val
  let m4 : Micro :=
    { m3 with
      mar := if w.marw then q.val else m3.mar
      mdr := match got with
        | some v => v
        | none => if w.mdrw then q.val else m3.mdr
      cycles := m3.cycles + 1
      progress := m3.progress || w.ipt != 0 }
  microFault m w seg
  let m5 ← microNotes m4 w q.val
  if w.supint then fun x => .ok () { x with nosample := true }
  let atPoint := w.ipt = 1 ∨ (w.ipt = 2 ∧ fieldN m.t[2] 0 6 = 0)
  let (m6, done) ← microNext m5 w ir cond
  let m7 ← microCommit { m6 with ran := m6.ran + 1 } w op atPoint done
  pure (m7, done)

/-- Fetch of a customer microword: a corrected one counts, an uncorrectable one makes the engine Stuck, one without a record raises
vector 14, and so does one that breaks a rule of R237 (R217, R238, R241). A routine that runs past 0x1FFF reaches no customer word (log 65,
DESIGN CHOICE). -/
def microFetch (m : Micro) : M (Micro × MWord) := fun x =>
  if !inCustomer m.pc then customerFault m 0xFF05 x
  else
    match x.st.csFetch x.g m.pc.toNat, m.st.csFetch x.g m.pc.toNat with
    | some s, some s' =>
      let y : Ex := if m.ran < m.save.ran then x else { x with st := s }
      let n : Micro := if m.ran < m.save.ran then m else { m with st := s' }
      match mapFind m.pc.toNat (x.st.custOf x.g).words with
      | some w => if MWord.customerOk w then .ok (n, w) y else customerFault m 0xFF05 y
      | none => customerFault m 0xFF06 y
    | _, _ => .error (.stuck 3) x

/-- A routine, word by word; a fault discards what is held, a stall keeps the last commit, and the watchdog ends it (R233, R238). -/
def microRun (op : BitVec 8) (ir : BitVec 19) : Nat → Micro → M Unit
  | 0, m => fun x => .error .over (m.rollback op x)
  | k + 1, m => fun x =>
    if 1024 ≤ m.cycles then .error .over (m.rollback op x)
    else
      match microFetch m x with
      | .error e y => .error e (m.rollback op y)
      | .ok (m, w) y =>
        match microWord m w op ir y with
        | .error (.wait a n) z => .error (.wait a n) (m.stalled none { z with found := z.found })
        | .error .room z =>
          .error .room (m.stalled (match m.save.wait with
            | some (p, t) => if p = m.pc then some (p, t) else some (m.pc, x.st.now)
            | none => some (m.pc, x.st.now)) z)
        | .error .pause z => .error .pause z
        | .error e z => .error e (m.rollback op z)
        | .ok (m', done) z =>
          if done then .ok () { z with c := { z.c with prog0 := 0, prog1 := 0 } } else microRun op ir k m' z

/-- Whether a dispatch entry is enabled and consistent with its opcode (R232). -/
def entryOk (op : Nat) (e : BitVec 16) : Bool :=
  e.getLsbD 15 &&
    (if e.getLsbD 14 then decide (0xE0 ≤ op) && inCustomer (bits e 0 13) else decide (op < 0xE0) && !inCustomer (bits e 0 13))

/-- Dispatch entry of a customer opcode in an engine's table, if it is enabled and consistent (R232). -/
def State.customerEntry (s : State) (g : Fin 96) (op : BitVec 8) : Option (BitVec 16) :=
  (mapFind op.toNat (s.custOf g).disp).filter (entryOk op.toNat)

/-- The most words that a routine can run in one issue without its watchdog stopping it, for the recursion. -/
def microFuel : Nat := 0x1000000000

/-- A customer routine that starts at its dispatch entry: T0-T3, MAR and MDR are free values (R235). -/
def customerStart (op : BitVec 8) (ir : BitVec 19) (e : BitVec 16) : M Unit := do
  let t0 ← freeM 32
  let t1 ← freeM 32
  let t2 ← freeM 32
  let t3 ← freeM 32
  let mar ← freeM 32
  let mdr ← freeM 32
  let y ← getX
  microRun op ir microFuel (Micro.from
    { pc := bits e 0 13, t := #v[t0, t1, t2, t3], mar := mar, mdr := mdr, stack := [], cycles := 0, progress := y.c.prog1.getLsbD 31
      c := y.c, ran := 0, wait := none } y)

/-- A customer routine that goes on after a stall. -/
def customerResume (op : BitVec 8) (ir : BitVec 19) (v : MicroSave) : M Unit := fun x =>
  microRun op ir microFuel (Micro.from v x) { x with c := v.registers x.c }

/-- A customer word after its fetch (R134, R138, R162, R232). -/
def customerBody (gd : Guard) (op : BitVec 8) (ir : BitVec 19) : M Unit := do
  let x ← getX
  match x.st.engines[x.g].micro with
  | some v => customerResume op ir v
  | none =>
    match x.st.customerEntry x.g op with
    | none => raiseV 1
    | some e =>
      if e.getLsbD 13 && !pswPriv x.c.psw then raiseV 2
      else if guardTrue x.c gd then customerStart op ir e
      else pure ()

/-- CUSTOMER_WATCHDOG_EXPIRY (R238): the watchdog has reached 1,024, and vector 14 is raised. -/
def execCustomerWatchdogExpiry (g : Fin 96) (s : State) : Out :=
  .next (match s.engines[g].phase with
    | .customerOver pc =>
      s.updEngine g fun E =>
        { E with
          phase := .faulted
            { vector := 14, pc := pc, addr := 0, slot := false, seg := 0, fetch := false, write := false,
              more := 0, detail := 0xFF03 } }
    | _ => s)

end Sys2Proof.Machine
end

