-- ==== Sys2Proof/Machine/Exceptions.lean ====
section
/-! DEFINITION. Exception entry, the headland handler, furrow switches and hold limits (R79, R130, R179, R192-R212). -/

namespace Sys2Proof.Machine

/-! Entry (R193-R203) -/

/-- Fields of a descriptor (R194), as its four words. -/
structure ExcDesc where
  handler : Word
  w1 : Word
  w2 : Word
  w3 : Word

def ExcDesc.cseg (d : ExcDesc) : BitVec 3 := d.w1.extractLsb' 0 3
def ExcDesc.priv (d : ExcDesc) : Bool := d.w1.getLsbD 3
def ExcDesc.newml (d : ExcDesc) : BitVec 3 := d.w1.extractLsb' 4 3
def ExcDesc.level (d : ExcDesc) : BitVec 3 := d.w1.extractLsb' 8 3
def ExcDesc.stksw (d : ExcDesc) : Bool := d.w1.getLsbD 12
def ExcDesc.arm (d : ExcDesc) : Bool := d.w1.getLsbD 13
def ExcDesc.slim (d : ExcDesc) : Nat := fieldN d.w3 0 22

/-- Reserved bits of a descriptor, words 2 and 3 whole without STKSW (R194). -/
def ExcDesc.reservedSet (d : ExcDesc) : Bool :=
  d.w1 &&& 0xFFFFC880#32 != 0 ||
    (if d.stksw then d.w2 &&& 0xFFC00FF0#32 != 0 || d.w3 &&& 0xFFC00000#32 != 0 else d.w2 != 0 || d.w3 != 0)

/-- Whether a descriptor is invalid for a vector, its target apart (R201, R209 reason 3). -/
def ExcDesc.invalid (d : ExcDesc) (v : Nat) : Bool :=
  d.reservedSet || (d.arm && !(16 ≤ v && v ≤ 27)) || (d.stksw && (d.slim < 64 || d.slim % 64 != 0))

/-- The descriptor stack image (R194). -/
def ExcDesc.stack (d : ExcDesc) : Seg :=
  { extSeg (fieldN d.w2 0 4) (fieldN d.w2 12 10 * 4096) d.slim true true false with sup := true }

/-- The cause word (R203). -/
def causeWord (e : EngFault) (switched : Bool) : Word :=
  e.detail ++ e.more ++ bit 1 e.write ++ bit 1 e.fetch ++ e.seg ++ bit 1 switched ++ bit 1 e.slot ++ e.vector

/-- An event about to be taken, and whether it is synchronous (R192). -/
structure Event where
  fault : EngFault
  sync : Bool

/-- Interrupt k at a boundary (R192). -/
def irqEvent (c : Ctx) (k : Fin 12) : Event :=
  { fault := { vector := BitVec.ofNat 6 (16 + k.val), pc := c.pc, addr := 0, slot := false, seg := 0, fetch := false,
               write := false, more := 0, detail := 0 }
    sync := false }

/-- The pending vector-8 report at a boundary (R192, R206). -/
def repEvent (c : Ctx) (r : Rep8) : Event :=
  { fault := { vector := 8, pc := c.pc, addr := r.off, slot := false, seg := r.seg, fetch := false, write := true,
               more := r.more, detail := r.seq }
    sync := false }

/-- The event that a boundary takes (R199 orders 1 to 3). A step without STEPINT takes no interrupt (R456). -/
def State.nextEvent (s : State) (g : Fin 96) (F : Furrow) : Option Event :=
  let E := s.engines[g]
  match E.phase with
  | .faulted e => some { fault := e, sync := true }
  | .ready =>
    match F.mbarFault with
    | some r => some { repEvent F.ctx r with sync := true }
    | none =>
      if E.ctl.stepping && !E.ctl.stepInt then
        if F.repDue then F.ctx.rep8.map (repEvent F.ctx) else none
      else
        match s.irqDue F with
        | some k => some (irqEvent F.ctx k)
        | none => if F.repDue then F.ctx.rep8.map (repEvent F.ctx) else none
  | _ => none

/-- LEVEL that masks an event: the copy for vector 8, the descriptor otherwise (R195, R196). -/
def entryLevel (c : Ctx) (d : ExcDesc) (v : Nat) : BitVec 3 := if v = 8 then c.lvl8 else d.level

/-- An escalation (R209). -/
def State.escalate (s : State) (g : Fin 96) (e : EngFault) (reason : Nat) (level : BitVec 3) (behind : Nat) : State :=
  s.updEngine g fun E =>
    { E with
      data := []
      phase := .escalated
        { fault := e, reason := BitVec.ofNat 4 reason, level := level, behind := BitVec.ofNat 6 behind } }

/-- The words of a frame range that a failed push may have reached are unpredictable (R201): those in Plot of the engine take free
values. -/
def State.scramble (s : State) (g : Fin 96) (F : Furrow) (priv : Bool) (seg : Seg) (off : Word) : Nat → State
  | 0 => s
  | k + 1 =>
    let o := off + nw (4 * k)
    let s := match check3 F.extents seg priv o 4 4 false true false, place F.extents seg o.toNat with
      | none, .plot a =>
        if s.owns g a then
          let r := s.fresh 32
          r.2.plotWrite (fieldOf g) a (bytes32 r.1)
        else s
      | _, _ => s
    s.scramble g F priv seg off k

/-- The pushes of an entry: the old S7 image where the stack switches, then the frame (R201, R202); they are made with the privilege of the
handler (log 44, DEDUCED). -/
def pushEntry (frame : List Word) (base : Word) (old : Option (Word × Seg)) : M Unit := do
  match old with
  | some (at_, g) => storeFrame at_ (imageWords g.image)
  | none => pure ()
  useUnit 2
  storeFrame (base - 48) frame

/-- Registers on entry (R201): PRIV, ML and CSEL from the descriptor, no load pending, PROG clear; a latched source is cleared. -/
def entryCtx (c : Ctx) (d : ExcDesc) (v : Nat) (sp : Word) (s7 : Seg) : Ctx :=
  let psw := insertBits (insertBits (insertBits (setLd c.psw false 0) 15 (bit 1 d.priv)) 8 d.newml) 16 d.cseg
  { c with
    psw := psw, sp := sp, seg := c.seg.set 7 s7, prog0 := 0, prog1 := 0, ldv := 0, pc := d.handler
    nosample := false
    rep8 := if v = 8 then none else c.rep8
    latched := if 16 ≤ v ∧ v ≤ 27 then c.latched &&& ~~~((1#16 <<< (v - 16)) &&& 0x0A00#16) else c.latched }

/-- Entry into the handler of an event, or its escalation at the first failing check (R201, R209). -/
def State.enterHandler (s : State) (g : Fin 96) (F : Furrow) (ev : Event) : State :=
  let e := ev.fault
  let v := e.vector.toNat
  let base0 := F.ctx.excBase
  match s.tableFault g F base0 [v] with
  | some n => (if n = 10 then s.noteFound (fieldOf g) (s.tableWords F base0 [v]) else s).escalate g e 2 0 n
  | none =>
    let s := match F.extents[fieldN base0 0 4]? with
      | some x => (s.noteRead (fieldOf g) (x.base + tableAddr base0 v 0) 1).1
      | none => s
    let w (i : Nat) : Word := s.descWord g F base0 v i
    let d : ExcDesc := { handler := w 0, w1 := w 1, w2 := w 2, w3 := w 3 }
    if d.invalid v then s.escalate g e 3 d.level 0
    else if ev.sync ∧ masked (entryLevel F.ctx d v) F.ctx.psw then s.escalate g e 1 d.level 0
    else if (targetFault (F.ctx.segAt d.cseg) d.priv d.handler).isSome then s.escalate g e 3 d.level 0
    else
      let s := s.breakHold g
      let F := (s.furrow? F.id).getD F
      let c := F.ctx
      let s7 := c.segAt 7
      let sw := d.stksw && d.stack.image != s7.image
      if sw && !F.segOk d.stack.image then s.escalate g e 4 d.level 4
      else
        let top := nw d.slim
        let base := if sw then top - 16 else c.sp &&& 0xFFFFFFF8#32
        let seg := if sw then d.stack else s7
        let frame := excFrame e.pc c c.psw e.addr (causeWord e sw) c.prog0 c.prog1
        let x := { enter s g F with c := { c with psw := insertBits c.psw 15 (bit 1 d.priv), seg := c.seg.set 7 seg }, data := [] }
        match pushEntry frame base (if sw then some (top - 16, s7) else none) x with
        | .error (.fault b) _ =>
          let s := s.noteMismatch g b
          (s.scramble g F d.priv seg (base - 48) (if sw then 16 else 12)).escalate g e 5 d.level b.vector.toNat
        | .error _ _ => s
        | .ok _ y =>
          let c' := entryCtx { y.c with seg := c.seg } d v (base - 48) seg
          let s := y.st.updFurrow F.id fun F => { F with ctx := c', waitMask := none, mbar := false }
          let s := s.updEngine g fun E =>
            { E with phase := .entered, data := [], traceWords := E.traceWords, sliceUp := E.sliceUp }
          let s := s.emitFlow g F.id c' v true false
          if s.engines[g].ctl.stepping then (s.updEngine g fun E => { E with phase := .ready }).takeHalt g else s

/-- EXCEPTION_ENTRY (R201): the event of the boundary is taken; without one the command is not due (log 2, DESIGN CHOICE). -/
def execExceptionEntry (g : Fin 96) (s : State) : Out :=
  .next (
    if s.engines[g].st ≠ .awake then s
    else
      match s.engines[g].cur with
      | none => s
      | some fid =>
        match s.furrow? fid with
        | none => s
        | some F =>
          if F.engine ≠ some g ∨ F.st ≠ .running then s
          else
            match s.nextEvent g F with
            | none => s
            | some ev =>
              match s.csFetch g 0x20 with
              | none => s.stick g 3
              | some s => s.enterHandler g F ev)

/-! The headland handler (R208-R212) -/

/-- The header's COUNT, and whether the handler must rebuild it (R210). -/
def State.headlandCount (s : State) (f : Fin 4) (top : Nat) : Nat × Bool :=
  let l := s.plotBytes f (top - 64) 64
  let bad := (List.range 4).any fun k =>
    match s.eccAt f (top - 64 + 16 * k) with
    | some .uncorr => true
    | some .poison => true
    | _ => false
  if bad || crc32cOf (l.take 60) != le32 l 60 then (0, true) else ((le32 l 0).toNat, false)

/-- A slot of 64 bytes (R210). -/
def headlandSlot (c : Ctx) (x : Escalation) (fid : Nat) (g : Fin 96) (time : DWord) : List Byte :=
  let frame := excFrame x.fault.pc c c.psw x.fault.addr (causeWord x.fault false) c.prog0 c.prog1
  let esc : Word := (x.behind ++ x.level ++ 0#1 ++ bits c.psw 8 3 ++ x.reason : BitVec 17).setWidth 32
  let l := bytesOf (frame ++ [esc, (BitVec.ofNat 7 g.val ++ BitVec.ofNat 12 fid : BitVec 19).setWidth 32, bits time 0 32])
  l ++ bytes32 (crc32cOf l)

/-- A header of 64 bytes (R210). -/
def headlandHeader (count slot : Nat) (rebuilt : Bool) : List Byte :=
  let l := bytes32 (nw count) ++ bytes32 ((bit 1 rebuilt ++ BitVec.ofNat 6 slot : BitVec 7).setWidth 32) ++
    List.replicate 52 0
  l ++ bytes32 (crc32cOf l)

/-- Escalations of a furrow count in runs (R211): the run after one more, and whether it was the third. -/
def runStep (s : State) (r : Option (Nat × Option DWord)) : (Nat × Option DWord) × Bool :=
  match r with
  | some (n, t) =>
    let ended := match t with
      | some t => decide (1000000000 ≤ s.since t)
      | none => false
    if ended then ((1, none), false) else ((n + 1, t), decide (3 ≤ n + 1))
  | none => ((1, none), false)

/-- The Sower after an escalation (R211, R385): restart on the same engine with CAUSE 1, or FAILED. -/
def State.escalated (s : State) (g : Fin 96) (F : Furrow) (x : Escalation) : State :=
  let (r, third) := runStep s F.run
  let s := s.log 2 5 (some (fieldOf g)) F.id x.fault.pc
    ((BitVec.ofNat 7 g.val ++ x.reason ++ 0#2 ++ x.fault.vector : BitVec 19).setWidth 32)
  let s := if F.desc.restartable ∧ !third then s.restartLater F.id (restartHere g) else s.takeOff F.id .failed
  s.updFurrow F.id fun F => { F with run := some r }

/-- HEADLAND_HANDLER (R211): a slot and the header are written, and the furrow is taken off; where it cannot complete, the engine is
Stuck (R212). -/
def execHeadlandHandler (g : Fin 96) (s : State) : Out :=
  .next (
    match s.engines[g].phase, s.engines[g].cur with
    | .escalated x, some fid =>
      match s.furrow? fid with
      | none => s
      | some F =>
        let f := fieldOf g
        let top := s.engines[g].hdlSp.toNat
        if s.engines[g].mismatch.isSome then (s.updEngine g fun E => { E with mismatch := none }).stick g 1
        else if top < granuleBytes ∨ s.owns g (top - 64) = false then s.stick g 1
        else
          match s.csFetch g 0x40 with
          | none => s.stick g 3
          | some s =>
            let s := (s.noteRange f (top - 64) 1 4).1
            let (n, rebuilt) := s.headlandCount f top
            let k := n % 63
            let slot := top - 64 * (k + 2)
            if s.owns g slot = false then s.stick g 1
            else
              let s := s.plotWrite f slot (headlandSlot F.ctx x fid g s.now)
              let s := s.plotWrite f (top - 64) (headlandHeader (n + 1) k rebuilt)
              let s := s.count 2 (g.val * 9 + 6) 1
              let s := s.escalated g F x
              s.takeHalt g
    | _, _ => s)

/-! Furrow switches (R79, R179) -/

/-- Sheaf state of a furrow that does not use the unit (R177, R179). -/
def Sheaf.given : Sheaf := { Sheaf.zero with shst := 0x000000F8 }

/-- The 768 bytes of the save area (R179). -/
def Sheaf.image (h : Sheaf) : List Byte :=
  h.v.toList.flatMap (fun r => bytesOf r.toList) ++ h.acc.toList.flatMap bytes64 ++ bytes32 h.shst ++
    List.replicate 124 0

/-- Sheaf state from a save area (R179). -/
def Sheaf.ofImage (l : List Byte) : Sheaf :=
  { v := Vector.ofFn fun i : Fin 8 => Vector.ofFn fun k : Fin 16 => le32 l (64 * i.val + 4 * k.val)
    acc := Vector.ofFn fun k : Fin 16 => le64 l (512 + 8 * k.val)
    shst := le32 l 640, dirty := false }

/-- Engine address of a furrow's save area (R178). -/
def Furrow.saveArea (F : Furrow) : Option Nat :=
  if F.ctx.sheafOn then F.plotAddr (fieldN F.ctx.shsave 0 4) (fieldN F.ctx.shsave 6 16 * 64) else none

/-- Sheaf state saved when a furrow leaves the engine, if it has been altered since its restore (R179). -/
def State.saveSheaf (s : State) (g : Fin 96) (F : Furrow) : State :=
  match F.saveArea with
  | some a =>
    if s.engines[g].sheaf.dirty then
      (s.plotWrite (fieldOf g) a s.engines[g].sheaf.image).updEngine g fun E =>
        { E with sheaf := { E.sheaf with dirty := false } }
    else s
  | none => s

/-- Sheaf state of a furrow coming onto the engine (R179); the words read are findings like any reader's (R259). -/
def State.loadSheaf (s : State) (g : Fin 96) (F : Furrow) : State :=
  match F.saveArea with
  | some a =>
    ((s.noteRange (fieldOf g) a 1 48).1).updEngine g fun E => { E with sheaf := Sheaf.ofImage (s.plotBytes (fieldOf g) a 768) }
  | none => s.updEngine g fun E => { E with sheaf := Sheaf.given }

/-- A furrow's context slot has an uncorrectable word: the furrow is lost (R428). -/
def Furrow.ctxLost (F : Furrow) : Bool := F.ctxErr == some .uncorr || F.ctxErr == some .poison

/-- The engine takes the next ready furrow (R79): its context is loaded unless it is the one last loaded. -/
def State.switchIn (s : State) (g : Fin 96) : State :=
  match s.pickNext g with
  | none => s.updEngine g fun E => { E with cur := none, sliceUp := false }
  | some F =>
    if F.ctxLost then (s.updEngine g fun E => { E with cur := none }).loseFurrow F.id 4 none
    else
      let fresh := s.engines[g].lastLoaded != some F.id
      let s := s.updFurrow F.id fun F => { F with ctxErr := none }
      let s := s.updEngine g fun E => { E with cur := some F.id, lastLoaded := some F.id, sliceUp := false, data := [] }
      if fresh then ((s.loadSheaf g F).count 2 (g.val * 9 + 7) 1).emitSync g F.id F.ctx else s

/-- FURROW_SWITCH (R79, R199): at a boundary that takes no event of an earlier order and where R79 calls for it, the running furrow leaves (its hold breaks, its Sheaf state is saved)
and the next one comes on; a round-robin turn passes to the end of the list. -/
def execFurrowSwitch (g : Fin 96) (s : State) : Out :=
  .next (
    let E := s.engines[g]
    if E.st ≠ .awake ∨ !s.switchable g ∨ !s.switchDue g then s
    else
      match s.csFetch g 0x80 with
      | none => s.stick g 3
      | some s =>
        match E.cur.bind s.furrow? with
        | none => s.switchIn g
        | some F =>
          let s := s.breakHold g
          let s := if F.engine = some g then s.saveSheaf g F else s
          let turn := s.engines[g].sliceUp || !s.ready F
          let s := s.updEngine g fun E =>
            { E with
              cur := none, data := []
              order := if F.engine ≠ some g then E.order.filter (· ≠ F.id)
                else if turn then E.order.filter (· ≠ F.id) ++ [F.id] else E.order }
          s.switchIn g)

/-- TIME_SLICE_EXPIRY (R79): 4 µs have passed while another furrow of equal or higher priority is ready. -/
def execTimeSliceExpiry (g : Fin 96) (s : State) : Out :=
  .next (
    let E := s.engines[g]
    match E.cur.bind s.furrow? with
    | none => s
    | some F =>
      if E.st = .awake ∧ (s.readyOn g).any (fun H => H.id != F.id && decide (F.desc.priority ≤ H.desc.priority)) then
        s.updEngine g fun E => { E with sliceUp := true }
      else s)

/-- BANK_HOLD_TIMEOUT (R130): 64 engine cycles after the grant the hold breaks and HB sets. -/
def execBankHoldTimeout (g : Fin 96) (s : State) : Out := .next (s.breakHold g)

end Sys2Proof.Machine
end

