-- ==== Sys2Proof/Machine/Debug.lean ====
section
/-! DEFINITION. Debug: run control, the memory master, provisioning, freezes, units, the trace port, sessions (R66, R374, R437,
R447-R468). -/

namespace Sys2Proof.Machine

/-- A debug access that got no value. -/
def State.debugError (s : State) : State := s.updHost fun H => { H with resp := none }

/-- A debug access: with DBG_CLK at fault it completes with a debug error and does nothing else (R28; log 73, DESIGN CHOICE). -/
def State.viaDebug (s : State) (h : State → State) : State := if s.pins.clkFault.getLsbD 9 then s.debugError else h s

/-! Run control (R453-R457) -/

/-- Whether the debug port may write to a run-control target (R448). -/
def State.mayControl (s : State) (t : RunTarget) : Bool :=
  match t with
  | .engine g => s.debugWrite.getLsbD (fieldOf g).val
  | .sup => s.debugWrite.getLsbD 4

/-- Window offset of a run-control page (R450). -/
def ctlOffset (t : RunTarget) (off : Nat) : Nat :=
  match t with
  | .engine g => 0x90000 + 0x1000 * g.val + off
  | .sup => 0x82000 + off

/-- Run control of a target. -/
def State.ctlOf (s : State) (t : RunTarget) : RunCtl :=
  match t with
  | .engine g => s.engines[g].ctl
  | .sup => s.sup.ctl

/-- Run control rewritten. -/
def State.updCtl (s : State) (t : RunTarget) (h : RunCtl → RunCtl) : State :=
  match t with
  | .engine g => s.updEngine g fun E => { E with ctl := h E.ctl }
  | .sup => s.updSup fun u => { u with ctl := h u.ctl }

/-- SYNC of the supervisor (R467). Its PC is a free value (log 9, DESIGN CHOICE). -/
def State.supSync (s : State) : List DWord × State :=
  let (pc, t) := s.fresh 32
  (packet 0 127 0xFFF pc [0, s.now], t)

/-- Packets of the supervisor into its buffer of 64 words, or dropped and counted (R464). -/
def State.pushSup (s : State) (p : List DWord) : State :=
  if s.dbg.supTrace.length + p.length ≤ 64 then
    s.updDbg fun d => { d with supTrace := d.supTrace ++ p, supLost := 0, supCount := d.supCount + 1 }
  else
    s.updDbg fun d =>
      { d with supLost := d.supLost + 1, trcLostFull := if d.trcLostFull = 0xFFFF then d.trcLostFull else d.trcLostFull + 1 }

/-- A packet of the supervisor (R464-R466), with EN and SUP; after a drop it follows a LOSS packet and a SYNC; a SYNC
follows every 2^(SYNCP + 8) packets. -/
def State.emitSup (s : State) (p : List DWord) : State :=
  if s.dbg.trcCtl.getLsbD 0 && s.dbg.trcCtl.getLsbD 1 && !s.inFallow then
    let t := if s.dbg.supLost = 0 then s.pushSup p
      else s.supSync.2.pushSup (packet 7 127 0xFFF (nw (min s.dbg.supLost 0xFFFFFFFF)) [] ++ s.supSync.1 ++ p)
    if 2 ^ (fieldN s.dbg.trcCtl 7 4 + 8) ≤ t.dbg.supCount then
      (t.supSync.2.pushSup t.supSync.1).updDbg fun d => { d with supCount := 0 }
    else t
  else s

/-- SYNC of the supervisor, where it is traced (R467). -/
def State.emitSupSync (s : State) : State := s.supSync.2.emitSup s.supSync.1

/-- HALT packet of the supervisor (R467). -/
def State.emitSupHalt (s : State) (cause : BitVec 5) (rel : Bool) : State :=
  s.emitSup (packet 6 127 0xFFF ((bit 1 rel ++ 0#3 ++ cause : BitVec 9).setWidth 32) [s.now])

/-- An engine's halt is released (R456, R467): the first word after it matches no break unit. -/
def State.release (s : State) (g : Fin 96) : State :=
  if s.engines[g].st = .halted then
    let cause := s.engines[g].ctl.cause
    let s := s.updEngine g fun E =>
      { E with st := .awake, ctl := { E.ctl with pend := false, cause := 0, stepping := false, skipBreak := true } }
    let s := s.emitHalt g (s.onEngine g) (s.ctxOn g) cause true
    let s := match s.engines[g].cur with
      | some fid => s.emitSync g fid (s.ctxOn g)
      | none => s
    s.applyFreeze (fieldOf g)
  else s

/-- The supervisor's halt is released: HALT, then SYNC (R456, R467). -/
def State.releaseSup (s : State) : State :=
  if s.sup.halted then
    ((s.updSup fun u =>
      { u with halted := false, sram := [], ctl := { u.ctl with pend := false, cause := 0, stepping := false } }).emitSupHalt
      s.sup.ctl.cause true).emitSupSync
  else s

/-- Both cores of the supervisor halt (R457); WDS freezes where the option asks for it (R374, R463). -/
def State.haltSup (s : State) (cause : BitVec 5) : State :=
  let s := s.updSup fun u => { u with halted := true, ctl := { u.ctl with pend := false, cause := cause, stepping := false } }
  let s := s.emitSupHalt cause false
  if s.freezeHonoured && s.almanac.wds.freeze then
    s.updAlm fun A => { A with wds := { A.wds with frozen := true } }
  else s

/-- A halt is requested of an engine (R199, R455): it is taken at once where the engine stands at a boundary without an earlier event. -/
def State.requestHalt (s : State) (g : Fin 96) : State :=
  let s := if s.engines[g].resetHeld then s else s.wake g
  if !s.engines[g].resetHeld && s.haltable g then s.halt g 1
  else s.updEngine g fun E => { E with ctl := { E.ctl with pend := true, cause := 1 } }

/-- Whether run control refuses an engine: it is Stuck or retired (R455). -/
def Engine.refusesRun (E : Engine) : Bool := E.st == .stuck || E.st == .retired

/-- A run-control command on a target that the port may control: refused on a Stuck or retired engine with ERR (R453, R455). -/
def State.runCommand (s : State) (t : RunTarget) (h : State → State) : State :=
  s.viaDebug fun s =>
  if !s.mayControl t then s.debugRefused (ctlOffset t 0)
  else
    match t with
    | .engine g =>
      if s.engines[g].refusesRun then s.updCtl t fun c => { c with err := true }
      else h (s.updCtl t fun c => { c with err := false })
    | .sup => h (s.updCtl t fun c => { c with err := false })

/-- HALT (R455, R457). -/
def execHalt (t : RunTarget) (s : State) : Out :=
  .next (s.runCommand t fun s =>
    match t with
    | .engine g => if s.engines[g].st = .halted then s else s.requestHalt g
    | .sup => if s.sup.running ∧ !s.sup.halted then s.haltSup 1 else s)

/-- RUN (R456). -/
def execRun (t : RunTarget) (s : State) : Out :=
  .next (s.runCommand t fun s =>
    match t with
    | .engine g => s.release g
    | .sup => s.releaseSup)

/-- STEP (R456): one word, then a halt with CAUSE 2. -/
def execStep (t : RunTarget) (s : State) : Out :=
  .next (s.runCommand t fun s =>
    match t with
    | .engine g =>
      let s := if s.engines[g].st = .halted then s.release g else s.wake g
      s.updEngine g fun E => { E with ctl := { E.ctl with stepping := true, skipBreak := true } }
    | .sup => if s.sup.running then s.releaseSup.haltSup 2 else s)

/-! The register selector (R453, R454) -/

/-- The word that the selector names of the furrow on an engine; 0 for an unlisted code. -/
def selected (c : Ctx) (h : Sheaf) (k : Nat) : Word :=
  if k < 0x10 then
    match k with
    | 0x00 => c.a
    | 0x01 => c.x
    | 0x02 => c.y
    | 0x03 => c.sp
    | 0x04 => c.pc
    | 0x05 => c.psw
    | 0x06 => c.predImage
    | 0x07 => c.prog0
    | 0x08 => c.prog1
    | 0x09 => c.ldv
    | _ => 0
  else if k < 0x30 then (imageWords (c.segAt (BitVec.ofNat 3 ((k - 0x10) / 4))).image).getD ((k - 0x10) % 4) 0
  else if k < 0x40 then 0
  else if k < 0xC0 then ((h.v.toList.getD ((k - 0x40) / 16) (Vector.replicate 16 0)).toList).getD ((k - 0x40) % 16) 0
  else if k < 0xE0 then
    let a := h.acc.toList.getD ((k - 0xC0) / 2) 0
    if k % 2 = 0 then bits a 0 32 else bits a 32 32
  else
    match k with
    | 0xE0 => h.shst
    | 0xE1 => c.shsave
    | 0xF0 => c.excBase
    | _ => 0

/-- ERC_RDATA as read (R212, R454): of a Stuck engine its state as it stood; unpredictable of one that is neither halted nor Stuck. -/
def State.ercRead (s : State) (g : Fin 96) : Word × State :=
  let E := s.engines[g]
  if E.st = .halted then
    match E.cur with
    | some _ => (selected (s.ctxOn g) E.sheaf E.ctl.rsel.toNat, s)
    | none => s.fresh 32
  else if E.st = .stuck then
    match E.stood with
    | some x => (selected x.2 E.sheaf E.ctl.rsel.toNat, s)
    | none => s.fresh 32
  else s.fresh 32

/-- PSW as a debugger writes it: every defined field except LDP and LDD (R454). -/
def pswDebug (psw v : Word) : Word :=
  let m := 0x0007876F#32
  (psw &&& ~~~m) ||| (v &&& m)

/-- The selected register written: the context and Sheaf state after it; none where the write is refused (R109, R178, R454). -/
def writeSelected (F : Furrow) (h : Sheaf) (k : Nat) (v : Word) : Option (Ctx × Sheaf) :=
  let c := F.ctx
  let ctx (c : Ctx) : Option (Ctx × Sheaf) := some (c, h)
  let sh (x : Sheaf) : Option (Ctx × Sheaf) := some (c, { x with dirty := true })
  if k < 0x10 then
    match k with
    | 0x00 => ctx { c with a := v }
    | 0x01 => ctx { c with x := v }
    | 0x02 => ctx { c with y := v }
    | 0x03 => ctx { c with sp := v }
    | 0x04 => ctx { c with pc := v &&& 0xFFFFFFFC#32 }
    | 0x05 => ctx { c with psw := pswDebug c.psw v }
    | 0x06 => ctx (c.setPreds v)
    | 0x07 => ctx { c with prog0 := v }
    | 0x08 => ctx { c with prog1 := v }
    | 0x09 => ctx { c with ldv := v }
    | _ => none
  else if k < 0x30 then
    let i : Fin 8 := ⟨(k - 0x10) / 4 % 8, by omega⟩
    let w := insertBits c.seg[i].image ((k - 0x10) % 4 * 32) v
    if F.segOk w then ctx { c with seg := c.seg.set i (Seg.ofImage w) } else none
  else if k < 0x40 then none
  else if k < 0xC0 then
    let r : Fin 8 := ⟨(k - 0x40) / 16 % 8, by omega⟩
    sh { h with v := vupd h.v r fun l => l.setIfInBounds ((k - 0x40) % 16) v }
  else if k < 0xE0 then
    let i : Fin 16 := ⟨(k - 0xC0) / 2 % 16, by omega⟩
    sh { h with acc := vupd h.acc i fun a => insertBits a (if k % 2 = 0 then 0 else 32) v }
  else
    match k with
    | 0xE0 => sh { h with shst := shstWrite v }
    | 0xE1 => ctx { c with shsave := shsaveWrite v }
    | 0xF0 => ctx c
    | _ => none

/-- ERC_RDATA_WRITE (R454): the selected register of the halted engine's furrow; EXC_BASE loads its copies (R195). -/
def execErcRdataWrite (t : RunTarget) (v : Word) (s : State) : Out :=
  .next (s.viaDebug fun s =>
    let refuse (s : State) : State := s.updCtl t fun c => { c with err := true }
    if !s.mayControl t then s.debugRefused (ctlOffset t 0x14)
    else
      match t with
      | .sup => refuse s
      | .engine g =>
        let E := s.engines[g]
        if E.st ≠ .halted then refuse s
        else
          match E.cur.bind s.furrow? with
          | none => refuse s
          | some F =>
            let k := E.ctl.rsel.toNat
            match writeSelected F E.sheaf k v with
            | none => refuse s
            | some (c, h) =>
              let b := v &&& 0x003FFC0F#32
              if k = 0xF0 ∧ (s.tableFault g F b (8 :: (List.range 12).map (· + 16))).isSome then refuse s
              else
                let c := if k = 0xF0 then s.loadCopies g F b c else c
                let s := s.updFurrow F.id fun F => { F with ctx := c }
                let s := s.updEngine g fun E => { E with sheaf := h, ctl := { E.ctl with err := false } }
                s.debugWrote (some (fieldOf g)) g.val (nw k) v)

/-! The memory master (R461, R462) -/

def Debug.dmmSpace (d : Debug) : Nat := fieldN d.dmmCtl 0 2
def Debug.dmmField (d : Debug) : Fin 4 := ⟨fieldN d.dmmCtl 2 2 % 4, by omega⟩
def Debug.dmmMask (d : Debug) : BitVec 16 := bits d.dmmCtl 4 16
/-- Plot byte address, 16-byte aligned. -/
def Debug.dmmPlot (d : Debug) : Nat := fieldN d.dmmAddr 0 22 / 16 * 16

/-- AINC after a command (R461). -/
def Debug.dmmAdvance (d : Debug) : Debug :=
  if d.dmmCtl.getLsbD 20 then { d with dmmAddr := d.dmmAddr + (if d.dmmSpace = 1 then 1 else 16) } else d

/-- Outcome of a master command: its status bits, and the address after it. -/
def State.dmmDone (s : State) (corr uncorr refused : Bool) : State :=
  s.updDbg fun d => { d with dmmCorr := corr, dmmUncorr := uncorr, dmmRefused := refused }.dmmAdvance

/-- Data of a read. -/
def State.dmmPut (s : State) (l : List Word) : State :=
  s.updDbg fun d => { d with dmmData := Vector.ofFn fun i : Fin 5 => l.getD i.val 0 }

/-- Whether the master may not access a bank of Plot at all (R462). -/
def State.dmmClosed (s : State) (f : Fin 4) (b : Fin 32) : Bool :=
  s.fields[f].st == .off || s.fields[f].st == .resetting || s.fields[f].banks[b].st == .retired

/-- A read of one Plot word (R259, R462): with PEEK 0 the finding is reported as any reader's. -/
def State.dmmReadPlot (s : State) (f : Fin 4) (a : Nat) : State :=
  let e := s.eccAt f a
  let s := s.dmmPut (wordsAt (s.plotBytes f a 16) 0 4)
  let s := if s.dbg.peek then s else (s.noteRead f a 1).1
  s.dmmDone (e == some .corr) (e == some .uncorr || e == some .poison) false

/-- Vendor microword a of a microcode section (R434). -/
def vendorWord (l : List Byte) (a : Nat) : BitVec 144 := (le16 l (18 * a + 16) ++ le64 l (18 * a + 8) ++ le64 l (18 * a) : BitVec 144)

/-- A read of one control-store word (R461): customer words and the vendor image as they stand; a word of neither is a free value
(log 9, DESIGN CHOICE). -/
def State.dmmReadStore (s : State) (g : Fin 96) (a : Nat) : State :=
  let e := mapFind a s.engines[g].csErr
  let (w, s) : BitVec 144 × State :=
    match mapFind a (s.custOf g).words with
    | some w => (w, s)
    | none => if a < 7168 ∧ s.sup.vcode.isEmpty = false then (vendorWord s.sup.vcode a, s) else s.fresh 144
  let s := s.dmmPut [bits w 0 32, bits w 32 32, bits w 64 32, bits w 96 32, (bits w 128 16).setWidth 32]
  s.dmmDone (e == some .corr) (e == some .uncorr || e == some .poison) false

/-- First of the four words of supervisor SRAM that DMM_ADDR names (R461). -/
def Debug.dmmSram (d : Debug) : Nat := fieldN d.dmmAddr 0 19 / 16 * 4

/-- A read of 16 bytes of supervisor SRAM (R461). What firmware keeps there is a free value (log 9, DESIGN CHOICE): while it runs, drawn at
each read; while it is halted, the value that the first read drew stands. -/
def State.dmmReadSram (s : State) : State :=
  let a := s.dbg.dmmSram
  let (w, s) := s.fresh 128
  let l := (List.range 4).map fun i => (mapFind (a + i) s.sup.sram).getD (bits w (32 * i) 32)
  let s := if s.sup.halted then
      s.updSup fun u => { u with sram := (List.range 4).foldl (fun m i => mapPut (a + i) (some (l.getD i 0)) m) u.sram }
    else s
  (s.dmmPut l).dmmDone false false false

/-- DMM_READ (R461, R462). A read of a bank that an engine holds waits for the hold's end (R129, R254; log 74, DESIGN CHOICE). -/
def execDmmRead (s : State) : Out :=
  .next (s.viaDebug fun s =>
    let d := s.dbg
    match d.dmmSpace with
    | 0 =>
      if !s.debugRead.getLsbD d.dmmField.val then s.debugRefused 0x83008
      else if s.dmmClosed d.dmmField (bankOf d.dmmPlot) then s.dmmDone false false true
      else if s.portBHeld d.dmmField d.dmmPlot 16 then s
      else s.dmmReadPlot d.dmmField d.dmmPlot
    | 1 =>
      match toFin? 96 (fieldN d.dmmAddr 16 7) with
      | none => s.dmmDone false false true
      | some g =>
        if !s.debugRead.getLsbD (fieldOf g).val then s.debugRefused 0x83008
        else if s.fields[fieldOf g].st = .off ∨ s.fields[fieldOf g].st = .resetting then s.dmmDone false false true
        else s.dmmReadStore g (fieldN d.dmmAddr 0 13)
    | 2 =>
      if !s.debugRead.getLsbD 4 then s.debugRefused 0x83008
      else s.dmmReadSram
    | _ => s.dmmDone false false true)

/-- A Plot word written under byte enables: whole, or by RMW (R247, R258). -/
def State.writeMasked (s : State) (f : Fin 4) (a : Nat) (m : BitVec 16) (l : List Byte) : State :=
  if m = 0 then s
  else if m = 0xFFFF then s.plotWrite f a l
  else
    let s := match s.eccAt f a with
      | none => s
      | some .corr => (s.noteCorr f a).setEcc f a none
      | some _ => (s.noteUncorr f a 2).setEcc f a (some .poison)
    (List.range 16).foldl (fun (s : State) i => if m.getLsbD i then s.putByte f (a + i) (byteAt l i) else s) s

/-- DMM_WRITE (R461, R462): Plot only; a Ledger record for every write (R18). A write to a bank that an engine holds waits (R129, R254). -/
def execDmmWrite (s : State) : Out :=
  .next (s.viaDebug fun s =>
    let d := s.dbg
    let f := d.dmmField
    let a := d.dmmPlot
    if d.dmmSpace ≠ 0 then s.dmmDone false false true
    else if !s.debugWrite.getLsbD f.val then s.debugRefused 0x83008
    else if s.dmmClosed f (bankOf a) ∨ s.fields[f].banks[bankOf a].st = .harrow then s.dmmDone false false true
    else if s.portBHeld f a 16 then s
    else
      let l := bytesOf (d.dmmData.toList.take 4)
      ((s.writeMasked f a d.dmmMask l).debugWrote (some f) (bankOf a).val (nw a) (d.dmmMask.setWidth 32)).dmmDone false false false)

/-! Provisioning (R437, R452) -/

/-- PROV_CMD (R437): a write-once key; accepted in Rolling mode with strap b2 = 0 before the first commit, for a point of the curve. -/
def execProvCmd (v : Word) (s : State) : Out :=
  .next (s.viaDebug fun s =>
    if v ≠ 0x00005EED then s
    else
      let key := bytesOf s.dbg.provData.toList
      let second := s.dbg.provSel.getLsbD 0
      let written := if second then s.seed.dbgKey.isSome else s.seed.custKey.isSome
      if s.sealed || s.dbgAuth || s.sup.firstCommit || written || !Config.validPoint key then
        s.updDbg fun d => { d with provErr := true }
      else
        (s.updSeed fun e => if second then { e with dbgKey := some key } else { e with custKey := some key }).updDbg fun d =>
          { d with provErr := false })

/-! Freezes (R374, R463) -/

/-- Bits of DBG_FREEZE that the port may set (R448). -/
def freezeScope (w : BitVec 5) : Word :=
  let f : BitVec 4 := bits w 0 4
  (f ++ f ++ bit 1 (w.getLsbD 4) ++ f : BitVec 13).setWidth 32

/-- DBG_FREEZE takes a value: each watchdog's FREEZE follows its bit, and freezes apply at once. -/
def State.setFreeze (s : State) (v : Word) : State :=
  let s := s.updDbg fun d => { d with freeze := v &&& 0x1FFF#32 }
  let s := s.updAlm fun A =>
    { A with
      wds := { A.wds with freeze := v.getLsbD 4 }
      wdf := vmap (fun f w => { w with freeze := v.getLsbD (5 + f.val) }) A.wdf }
  let s := if s.sup.halted && s.freezeHonoured && s.almanac.wds.freeze then
      s.updAlm fun A => { A with wds := { A.wds with frozen := true } }
    else s
  (allFin 4).foldl (fun (s : State) (f : Fin 4) => s.applyFreeze f) s

/-- DBG_FREEZE_WRITE (R448, R463): refused where it changes a bit outside the port's write scope. -/
def execDbgFreezeWrite (v : Word) (s : State) : Out :=
  .next (s.viaDebug fun s =>
    if (v ^^^ s.dbg.freeze) &&& 0x1FFF#32 &&& ~~~freezeScope s.debugWrite ≠ 0 then s.debugRefused 0x8000C
    else s.setFreeze v)

/-- Whether a halt still holds a watchdog frozen (R374). -/
def State.stillFrozen (s : State) (w : Fin 5) : Bool :=
  if h : 1 ≤ w.val then
    let f : Fin 4 := ⟨w.val - 1, by omega⟩
    s.freezeHonoured && s.almanac.wdf[f].freeze &&
      (fieldEngines f).any fun g => s.engines[g].st == .halted && !(s.residents g).isEmpty
  else s.freezeHonoured && s.almanac.wds.freeze && s.sup.halted

/-- A frozen watchdog runs again: its full period, FROZEN clear (R374). -/
def Watchdog.thaw (w : Watchdog) : Watchdog := { w with frozen := false, remain := w.period.toNat * almPerMs }

/-- WATCHDOG_FREEZE_END (R374). -/
def execWatchdogFreezeEnd (w : Fin 5) (s : State) : Out :=
  .next (
    if s.stillFrozen w then s
    else if h : 1 ≤ w.val then
      let f : Fin 4 := ⟨w.val - 1, by omega⟩
      if s.almanac.wdf[f].frozen then
        (s.updAlm fun A => { A with wdf := vupd A.wdf f Watchdog.thaw }).log 8 5 (some f) w.val 0 0
      else s
    else if s.almanac.wds.frozen then (s.updAlm fun A => { A with wds := A.wds.thaw }).log 8 5 none w.val 0 0
    else s)

/-! Break and watch units (R458, R460) -/

/-- BW_CTL_WRITE (R460): ARMED clears. -/
def execBwCtlWrite (f : Fin 4) (u : Fin 8) (v : Word) (s : State) : Out :=
  .next (s.viaDebug fun s =>
    s.updField f fun F => { F with units := vupd F.units u fun b => { b with ctl := v &&& 0x00FFFFFF#32, armed := false } })

/-! The trace port (R464) -/

/-- Trace buffer of source i: engine i, or the supervisor at 96. -/
def State.traceOf (s : State) (i : Nat) : List DWord :=
  match toFin? 96 i with
  | some g => s.engines[g].trace
  | none => s.dbg.supTrace

/-- Words taken from a source's buffer. -/
def State.dropTrace (s : State) (i n : Nat) : State :=
  match toFin? 96 i with
  | some g => s.updEngine g fun E => { E with trace := E.trace.drop n }
  | none => s.updDbg fun d => { d with supTrace := d.supTrace.drop n }

/-- The next source with a packet, round-robin. -/
def State.nextTrace (s : State) : Option Nat :=
  ((List.range 97).map fun k => (s.dbg.trcRr + 1 + k) % 97).find? fun i => !(s.traceOf i).isEmpty

/-- Words of the packet at the head of a buffer (R467). -/
def packetLen (l : List DWord) : Nat := match l with
  | w :: _ => fieldN w 4 3 + 1
  | [] => 0

/-- A whole packet is dropped at the port: counted, and the source's next packet follows a LOSS (R464). -/
def State.dropTracePacket (s : State) (i : Nat) : State :=
  let s := s.dropTrace i (packetLen (s.traceOf i))
  let s := match toFin? 96 i with
    | some g => s.updEngine g fun E => { E with traceSync := true, traceLost := E.traceLost + 1 }
    | none => s.updDbg fun d => { d with supLost := d.supLost + 1 }
  s.updDbg fun d => { d with trcRr := i, trcLostPwr := if d.trcLostPwr = 0xFFFF then d.trcLostPwr else d.trcLostPwr + 1 }

/-- The next word of a source leaves. -/
def State.sendTrace (s : State) (i : Nat) (left : Nat) : State :=
  let w := (s.traceOf i).head?
  (s.dropTrace i 1).updDbg fun d => { d with trcRr := i, trcOut := w, trcPkt := left }

/-- TRACE_PORT_TRANSFER (R464): one word of a whole packet, sources in round-robin order. -/
def execTracePortTransfer (s : State) : Out :=
  .next (
    if s.dbg.trcPkt ≠ 0 then s.sendTrace s.dbg.trcRr (s.dbg.trcPkt - 1)
    else
      match s.nextTrace with
      | none => s
      | some i =>
        if !s.pins.trcPwr then s.dropTracePacket i
        else (s.sendTrace i (packetLen (s.traceOf i) - 1)).countPacket 1)

/-! Sessions (R66, R449) -/

/-- What the end of a session undoes, where a session is needed (R449). -/
def State.endDebug (s : State) : State :=
  if !s.sealed && !s.dbgAuth then s
  else
    let s := (allFin 96).foldl (fun (s : State) (g : Fin 96) => s.release g) s
    let s := s.releaseSup.setFreeze 0
    let off (F : Field) : Field := { F with units := vmap (fun _ b => { b with ctl := insertBits b.ctl 0 0#2 }) F.units }
    { s with fields := vmap (fun _ F => off F) s.fields }.updDbg fun d => { d with trcCtl := insertBits d.trcCtl 0 0#1 }

/-- The open session ends (R449). -/
def State.closeDebug (s : State) : State :=
  if s.dbg.session.isNone then s
  else ((s.endDebug).updDbg fun d => { d with session := none }).log 13 3 none 0 0 0

/-- DEBUG_CHALLENGE (R63, R66). -/
def execDebugChallenge (mb : Fin 16) (k : BitVec 16) (resp : BitVec 3) (s : State) : Out :=
  .next (
    match s.cmd? mb k 0x0901 with
    | none => s
    | some c =>
      let l := bytesAt (Config.nonce s.dbg.challenges) 0 32
      let s := s.updDbg fun d => { d with nonce := some (l, s.now), challenges := d.challenges + 1 }
      s.answer mb c resp l [])

/-- Nanoseconds that a nonce lives (R66). -/
def nonceNs : Nat := 60000000000

/-- What DEBUG_OPEN's signature covers (R66). -/
def challengeBytes (nonce : List Byte) (arg0 : Word) : List Byte := nonce ++ bytes64 Config.devId ++ bytes32 arg0

/-- The failure of a DEBUG_OPEN, 0 for none (R66). -/
def State.openError (s : State) (c : ActiveCmd) (l : List Byte) : Nat :=
  match s.dbg.nonce, s.seed.dbgKey with
  | none, _ => eExpired
  | some (n, t), key =>
    if nonceNs ≤ s.since t then eExpired
    else
      match key with
      | none => eSignature
      | some q =>
        if Config.ecdsaVerify q (Config.sha384 (challengeBytes n c.args[0])) (bytesAt l 0 96) then eOk else eSignature

/-- DEBUG_OPEN (R48, R66): one session at most, so that one while a session is open ends with E_STATE (log 61, DESIGN CHOICE); in Rolling mode
with strap b2 = 0 it opens without a check. -/
def execDebugOpen (mb : Fin 16) (k : BitVec 16) (buf : Reply) (s : State) : Out :=
  .next (
    match s.cmd? mb k 0x0902 with
    | none => s
    | some c =>
      let opened (s : State) : State :=
        let n := s.dbg.sessions + 1
        ((s.updDbg fun d => { d with session := some (bits c.args[0] 0 7), sessions := n }).log 13 2 none 0 c.args[0] n).finish mb k
          eOk [n]
      let free := !s.sealed && !s.dbgAuth
      if !free ∧ c.bufLen < 96 then s.finish mb k eArg [96]
      else if s.dbg.session.isSome then s.finish mb k eState []
      else if free then opened s
      else
        let s := s.readBuf mb c
        match buf with
        | .bad _ => s.finish mb k eBuf []
        | .ok l =>
          let e := s.openError c l
          let s := s.updDbg fun d => { d with nonce := none }
          if e = eOk then opened s else s.finish mb k e [])

/-- DEBUG_CLOSE (R63, R449); with no session open it ends with E_STATE (log 61, DESIGN CHOICE). -/
def execDebugClose (mb : Fin 16) (k : BitVec 16) (s : State) : Out :=
  .next (
    match s.cmd? mb k 0x0903 with
    | none => s
    | some _ => if s.dbg.session.isNone then s.finish mb k eState [] else s.closeDebug.finish mb k eOk [])

/-- DEBUG_NONCE_EXPIRY (R66): the nonce expires 60 s after its issue. -/
def execDebugNonceExpiry (s : State) : Out :=
  .next (match s.dbg.nonce with
    | some (_, t) => if nonceNs ≤ s.since t then s.updDbg fun d => { d with nonce := none } else s
    | none => s)

end Sys2Proof.Machine
end

