-- ==== Sys2Proof/Machine/Control.lean ====
section
/-! DEFINITION. Control transfer: BR, CALL, CALLF, CALLI, RETM, RETX, TRAP, BRK (R143, R151, R152, R213). -/

namespace Sys2Proof.Machine

/-- BR: PC + 4 × IMM, or a loaded word (R151). -/
def opBr : LongOp := plainOp okIMw fun x =>
  if xMode x = 0 then do
    let c ← getC
    transfer (c.pc + 4 * (xImm x).signExtend 32)
  else do
    let v ← memOperand x false
    transfer v

/-- CALL mask and signed D (R151). -/
def xMask (x : BitVec 19) : BitVec 8 := x.extractLsb' 11 8
def xD (x : BitVec 19) : Word := (x.extractLsb' 0 11 : BitVec 11).signExtend 32

/-- CALL: PC + 4 × D (R151). -/
def opCall : LongOp := plainOp (fun _ => true) fun x => callTo (xMask x) fun c => c.pc + 4 * xD x

/-- CALLF: PC with [7:0] cleared, plus 256 × D (R151). -/
def opCallf : LongOp := plainOp (fun _ => true) fun x =>
  callTo (xMask x) fun c => (c.pc &&& 0xFFFFFF00#32) + 256 * xD x

/-- CALLI: the target in Y (R151, R152). -/
def opCalli : LongOp := plainOp (fun x => bits x 0 11 == 0#11) fun x => callTo (xMask x) fun c => c.y

/-- RETM (R126). -/
def opRetm : LongOp := plainOp okN fun _ => retM

/-- RETX (R213). -/
def opRetx : LongOp := superOp okN fun _ => retX

/-- TRAP: vector 32 + t with the PC of the word after it (R152). It completes, and its entry or escalation follows at its
boundary (R199). -/
def opTrap : LongOp := plainOp (fun x => okI x && bits x 5 12 == 0#12) fun x => fun e =>
  .ok () { e with
    trap := some { mkFault e (32 + fieldN x 0 5) 0 0 false false 0 with pc := e.orig.pc + 4, slot := false } }

/-- BRK: vector 12 at the BRK itself, or a halt with CAUSE 4 under BRKHALT (R152, R453). -/
def opBrk : LongOp := plainOp okN fun _ => fun e =>
  if e.st.engines[e.g].ctl.brkHalt then .error (.halt 4) e else raiseV 12 0 e

def execBr (g : Fin 96) (gd : Guard) (x : BitVec 19) (s : State) : Out := .next (issueLong g 0x30 gd x opBr s)
def execCall (g : Fin 96) (gd : Guard) (x : BitVec 19) (s : State) : Out := .next (issueLong g 0x31 gd x opCall s)
def execCallf (g : Fin 96) (gd : Guard) (x : BitVec 19) (s : State) : Out := .next (issueLong g 0x32 gd x opCallf s)
def execCalli (g : Fin 96) (gd : Guard) (x : BitVec 19) (s : State) : Out := .next (issueLong g 0x33 gd x opCalli s)
def execRetm (g : Fin 96) (gd : Guard) (x : BitVec 19) (s : State) : Out := .next (issueLong g 0x34 gd x opRetm s)
def execRetx (g : Fin 96) (gd : Guard) (x : BitVec 19) (s : State) : Out := .next (issueLong g 0x35 gd x opRetx s)
def execTrap (g : Fin 96) (gd : Guard) (x : BitVec 19) (s : State) : Out := .next (issueLong g 0x36 gd x opTrap s)
def execBrk (g : Fin 96) (gd : Guard) (x : BitVec 19) (s : State) : Out := .next (issueLong g 0x37 gd x opBrk s)

end Sys2Proof.Machine
end

