-- ==== Sys2Proof/Machine/LongOps.lean ====
section
/-! DEFINITION. Long instructions: progress, ranges, interruption points and elements (R163-R176, R183, R186-R191). -/

namespace Sys2Proof.Machine

/-! Progress (R165-R170) -/

/-- PROG word 1 (R168). -/
def progWord (op : BitVec 5) (state : BitVec 26) : Word := 1#1 ++ op ++ state

/-- Where an issue starts: elements done, STATE, and whether PROG was valid; none where PROG does not fit (R165). -/
def progStart (op : BitVec 5) (c : Ctx) : Option (Nat × BitVec 26 × Bool) :=
  if c.prog1.getLsbD 31 then
    if bits c.prog1 26 5 = op ∧ c.prog0.toNat ≤ c.x.toNat then some (c.prog0.toNat, bits c.prog1 0 26, true)
    else none
  else some (0, 0, false)

/-- Progress stands in PROG from here on (R166). -/
def setProg (op : BitVec 5) (done : Nat) (state : BitVec 26) : M Unit := fun x =>
  .ok () { x with keep := true, c := { x.c with prog0 := nw done, prog1 := progWord op state } }

/-- An interruption point (R167). -/
def point : M Unit := fun x => if x.eventDue then .error .pause x else .ok () x

/-- An element has been performed: its fabric data is used up. -/
def endElement : M Unit := fun x => .ok () { x with data := [] }

/-- Elements n - k to n - 1, each whole; an element may end the run (R165, R166). The answer is the element that did. -/
def elements (op : BitVec 5) (state : BitVec 26) (n : Nat) (elem : Nat → M Bool) : Nat → M (Option Nat)
  | 0 => pure none
  | k + 1 => do
    let e := n - (k + 1)
    setProg op e state
    let stop ← whole (elem e)
    endElement
    if stop then pure (some e)
    else
      setProg op (e + 1) state
      if e + 1 < n ∧ (e + 1) % 64 = 0 then point
      elements op state n elem k

/-- PROG cleared and the completion updates applied (R164, R165). -/
def finish (f : Ctx → Ctx) : M Unit := modC fun c => { f c with prog0 := 0, prog1 := 0 }

/-! Ranges (R165) -/

/-- Checks 1 to 3 of R110 for count elements of s bytes from an offset. `beyond` is the fault address of an element count beyond what the
instruction allows (R186, R188), `words` says that the elements are word accesses, `top` that the first element is the topmost. -/
def rangeCheck (i : BitVec 3) (off : Word) (s align count : Nat) (beyond : Option Word) (words r w top : Bool) : M Unit :=
  fun x =>
    let g := x.c.segAt i
    let p := place x.F.extents g off.toNat
    let isReg := match p with
      | .reg _ => true
      | _ => false
    let fail (v k : Nat) := raiseAt (α := Unit) v i (off + nw ((if top then count - 1 else k) * s)) w 0 false x
    let fits := if off.toNat + count * s ≤ g.limit.toNat then count else (g.limit.toNat - off.toNat) / s
    if count ≠ 0 ∧ ((r && !g.r) || (w && !g.w) || (g.sup && !pswPriv x.c.psw)) then fail 4 0
    else if count ≠ 0 ∧ (p.addr % align ≠ 0 || (isReg && !words)) then fail 5 0
    else
      match beyond with
      | some a => raiseAt 3 i a w 0 false x
      | none => if fits < count then fail 3 fits else .ok () x

/-- The fault address of an element count n beyond a bound of s-byte elements, if it is (R186, R188). -/
def overBound (n bound s : Nat) (off : Word) : Option Word := if bound < n then some (off + nw (s * bound)) else none

/-! Element accesses -/

/-- Word reads of engine-local registers, upwards. -/
def regBytes (i : BitVec 3) (off : Word) (o n : Nat) : Nat → M (List Byte)
  | 0 => pure []
  | k + 1 => do
    let j := n - (k + 1)
    let w ← regRead i (off + nw (4 * j)) (o + 4 * j)
    let r ← regBytes i off o n k
    pure (bytes32 w ++ r)

/-- Word writes of engine-local registers, upwards. -/
def regStores (i : BitVec 3) (off : Word) (o n : Nat) (l : List Byte) : Nat → M Unit
  | 0 => pure ()
  | k + 1 => do
    let j := n - (k + 1)
    regWrite i (off + nw (4 * j)) (o + 4 * j) (le32 l (4 * j))
    regStores i off o n l k

/-- Fabric reads of at most 2 beats (R171, R286); k bounds their number. -/
def fabricReads (i : BitVec 3) (off : Word) (io : DWord) (len : Nat) : Nat → M (List Byte)
  | 0 => pure []
  | k + 1 =>
    if len = 0 then pure []
    else do
      let d := beatChunk 2 io.toNat len
      let a ← fabricPart i off io d
      let b ← fabricReads i (off + nw d) (io + BitVec.ofNat 64 d) (len - d) k
      pure (a ++ b)

/-- Fabric stores of at most 2 beats (R171, R286); k bounds their number. -/
def fabricStores (i : BitVec 3) (off : Word) (io : DWord) (l : List Byte) : Nat → M Unit
  | 0 => pure ()
  | k + 1 =>
    if l.isEmpty then pure ()
    else do
      let d := beatChunk 2 io.toNat l.length
      fabricWrite i off io (l.take d)
      fabricStores i (off + nw d) (io + BitVec.ofNat 64 d) (l.drop d) k

/-- Bytes of an element at its place, after checks 1 to 3. -/
def readBytes (i : BitVec 3) (off : Word) (len : Nat) : M (List Byte) := do
  let x ← getX
  note i off len false
  match place x.F.extents (x.c.segAt i) off.toNat with
  | .plot a => do
    touchLines i off a len true false (wordsSpan a len)
    pure (x.st.plotBytes (fieldOf x.g) a len)
  | .reg o => regBytes i off o (len / 4) (len / 4)
  | .fabric io => fabricReads i off io len (len / 32 + 3)

/-- Whether the bytes of an element may be written: check 4 of R110. -/
def readyWrite (i : BitVec 3) (off : Word) (len : Nat) : M Unit := do
  let x ← getX
  match place x.F.extents (x.c.segAt i) off.toNat with
  | .plot a => touchLines i off a len false true (wordsSpan a len)
  | _ => pure ()

/-- Bytes of an element written at its place, after checks 1 to 3. -/
def writeBytes (i : BitVec 3) (off : Word) (l : List Byte) : M Unit := do
  readyWrite i off l.length
  let x ← getX
  match place x.F.extents (x.c.segAt i) off.toNat with
  | .plot a => storeAt i off l (.plot a)
  | .reg o => do
    regStores i off o (l.length / 4) l (l.length / 4)
    note i off l.length true
  | .fabric io => do
    fabricStores i off io l (l.length / 32 + 3)
    note i off l.length true

/-! Fields of [18:0] (R163) -/

def xSd (x : BitVec 19) : BitVec 3 := x.extractLsb' 16 3
def xSs (x : BitVec 19) : BitVec 3 := x.extractLsb' 13 3
def xEsize (x : BitVec 19) : Nat := sizeBytes (fieldN x 11 2)

/-- Offset of element e of s bytes. -/
def elemOff (base : Word) (s e : Nat) : Word := base + nw (s * e)

/-- A long instruction after its decode checks: PROG, then the rest with elements done, STATE and whether PROG was valid (R165). -/
def longOp (op : BitVec 5) (sheaf : Bool) (legal : BitVec 19 → Bool)
    (run : BitVec 19 → Ctx → Nat → BitVec 26 → Bool → M Unit) : LongOp :=
  { legal := legal, sheaf := sheaf, priv := fun _ => false, long := true
    run := fun x => do
      let c ← getC
      match progStart op c with
      | none => raiseV 1
      | some (first, st, valid) => run x c first st valid }

/-! Block move, fill, compare, CRC-32C (R173-R176) -/

/-- Engine address of a place, fabric addresses in their window (R112, R114). -/
def Place.engineAddr (p : Place) : Nat :=
  match p with
  | .plot a => a
  | .reg o => 0xF00000 + o
  | .fabric d => d.toNat + 0x100000000

/-- Whether BMOVE runs from the top: the ranges overlap with the destination above the source (R174). -/
def descends (F : Furrow) (c : Ctx) (sd ss : BitVec 3) (bytes : Nat) : Bool :=
  let d := (place F.extents (c.segAt sd) c.y.toNat).engineAddr
  let s := (place F.extents (c.segAt ss) c.a.toNat).engineAddr
  decide (s < d ∧ d < s + bytes)

/-- BMOVE (R173, R174). -/
def opBmove : LongOp :=
  longOp 0 false (fun x => fieldN x 11 2 != 3 && bits x 0 11 == 0#11) fun x c first st valid => do
    let s := xEsize x
    let n := c.x.toNat
    let e ← getX
    let down := if valid then st.getLsbD 0 else descends e.F c (xSd x) (xSs x) (n * s)
    let lo := if down then 0 else first
    rangeCheck (xSd x) (elemOff c.y s lo) s s (n - first) none (s == 4) false true down
    rangeCheck (xSs x) (elemOff c.a s lo) s s (n - first) none (s == 4) true false down
    let _ ← elements 0 (bit 26 down) n (fun e => do
      let i := if down then n - 1 - e else e
      let l ← load (xSs x) (elemOff c.a s i) s
      store (xSd x) (elemOff c.y s i) l
      pure false) (n - first)
    finish fun c => { c with x := 0, y := c.y + nw (n * s), a := c.a + nw (n * s) }

/-- BFILL (R173). -/
def opBfill : LongOp :=
  longOp 1 false (fun x => fieldN x 11 2 != 3 && bits x 13 3 == 0#3 && bits x 0 11 == 0#11) fun x c first _ _ => do
    let s := xEsize x
    let n := c.x.toNat
    rangeCheck (xSd x) (elemOff c.y s first) s s (n - first) none (s == 4) false true false
    let _ ← elements 1 0 n (fun e => do
      store (xSd x) (elemOff c.y s e) (lowBytes c.a s)
      pure false) (n - first)
    finish fun c => { c with x := 0, y := c.y + nw (n * s) }

/-- BCMP (R175). Unequal operands are found by the elements; the flags are those of CMP on them. -/
def opBcmp : LongOp :=
  longOp 2 false (fun x => fieldN x 11 2 != 3 && bits x 0 11 == 0#11) fun x c first _ _ => do
    let s := xEsize x
    let n := c.x.toNat
    rangeCheck (xSd x) (elemOff c.y s first) s s (n - first) none (s == 4) true false false
    rangeCheck (xSs x) (elemOff c.a s first) s s (n - first) none (s == 4) true false false
    let r ← elements 2 0 n (fun e => do
      let a ← load (xSd x) (elemOff c.y s e) s
      let b ← load (xSs x) (elemOff c.a s e) s
      let u := extend a s false
      let v := extend b s false
      if u = v then pure false
      else do
        modC fun c => c.flags (aluSub u v false)
        pure true) (n - first)
    match r with
    | some k => finish fun d => { d with x := nw (n - k), y := elemOff c.y s k, a := elemOff c.a s k }
    | none => finish fun d =>
      { d with
        x := 0, y := c.y + nw (n * s), a := c.a + nw (n * s)
        psw := insertBits d.psw 0 (0x3#4) }

/-- CRC32C: A is the register, written as it runs (R176). -/
def opCrc32c : LongOp := longOp 3 false (fun x => bits x 0 16 == 0#16) fun x c first _ _ => do
  let n := c.x.toNat
  rangeCheck (xSd x) (elemOff c.y 1 first) 1 1 (n - first) none false true false false
  let _ ← elements 3 0 n (fun e => do
    let l ← load (xSd x) (elemOff c.y 1 e) 1
    modC fun c => { c with a := crcByte c.a (byteAt l 0) }
    pure false) (n - first)
  finish fun c => { c with x := 0, y := c.y + nw n }

/-! VXFER (R183, R186) -/

/-- Legal VXFER layouts. -/
def okVxfer (x : BitVec 19) : Bool := bits x 0 5 == 0#5

/-- Format of [6:5]. -/
def xFmt (x : BitVec 19) : Nat := fieldN x 5 2

/-- V register of element i (R186). -/
def cyc (r : Fin 8) (i : Nat) : Fin 8 := ⟨(r.val + i) % 8, by omega⟩

/-- A lane vector written to V. -/
def setV (r : Fin 8) (v : Vector Word 16) : M Unit := modSh fun h => { h with v := h.v.set r v }

/-- Whether two ranges of bytes overlap in engine address (R191). -/
def rangesMeet (F : Furrow) (c : Ctx) (sd : BitVec 3) (offD : Word) (lenD : Nat) (ss : BitVec 3) (offS : Word) (lenS : Nat) : Bool :=
  let d := (place F.extents (c.segAt sd) offD.toNat).engineAddr
  let s := (place F.extents (c.segAt ss) offS.toNat).engineAddr
  decide (d < s + lenS ∧ s < d + lenD)

/-- A vector stored in a format at an offset; a saturating store sets SAT (R183). `free` says that the destination overlaps the source: what
it holds then is a free value (R191). -/
def storeVec (i : BitVec 3) (off : Word) (f : Nat) (v : Vector Word 16) (free : Bool := false) : M Unit := do
  useUnit 6
  let e ← getX
  let r := vecStore f (shRnd e.sh.shst) v
  let l ← if free then freeBytesM r.1.length else pure r.1
  writeBytes i off l
  if r.2 then modSh fun h => h.noteSat true

/-- A vector loaded in a format. -/
def loadVec (i : BitVec 3) (off : Word) (f : Nat) : M (Vector Word 16) := do
  useUnit 6
  let l ← readBytes i off (16 * fmtBytes f)
  pure (vecLoad f l)

/-- LOADV (R186). -/
def opLoadv : LongOp := longOp 0x10 true okVxfer fun x c first _ _ => do
  let f := xFmt x
  let b := 16 * fmtBytes f
  let n := c.x.toNat
  rangeCheck (xSd x) (elemOff c.y b first) b (fmtAlign f) (n - first) none (f == 0) true false false
  let _ ← elements 0x10 0 n (fun e => do
    let v ← loadVec (xSd x) (elemOff c.y b e) f
    setV (cyc (vReg x 10) e) v
    pure false) (n - first)
  finish fun c => { c with x := 0, y := c.y + nw (n * b) }

/-- STOREV (R186). -/
def opStorev : LongOp := longOp 0x10 true okVxfer fun x c first _ _ => do
  let f := xFmt x
  let b := 16 * fmtBytes f
  let n := c.x.toNat
  rangeCheck (xSd x) (elemOff c.y b first) b (fmtAlign f) (n - first) none (f == 0) false true false
  let _ ← elements 0x10 0 n (fun e => do
    let h ← getX
    storeVec (xSd x) (elemOff c.y b e) f h.sh.v[cyc (vReg x 10) e]
    pure false) (n - first)
  finish fun c => { c with x := 0, y := c.y + nw (n * b) }

/-- CONVIN (R186). -/
def opConvin : LongOp := longOp 0x10 true okVxfer fun x c first _ _ => do
  let f := xFmt x
  let b := 16 * fmtBytes f
  let n := c.x.toNat
  rangeCheck (xSd x) (elemOff c.y 64 first) 64 4 (n - first) none true false true false
  rangeCheck (xSs x) (elemOff c.a b first) b (fmtAlign f) (n - first) none (f == 0) true false false
  let h ← getX
  let meet := rangesMeet h.F c (xSd x) c.y (64 * n) (xSs x) c.a (b * n)
  let _ ← elements 0x10 0 n (fun e => do
    let v ← loadVec (xSs x) (elemOff c.a b e) f
    storeVec (xSd x) (elemOff c.y 64 e) 0 v meet
    setV (vReg x 10) v
    pure false) (n - first)
  finish fun c => { c with x := 0, y := c.y + nw (64 * n), a := c.a + nw (n * b) }

/-- CONVOUT (R186). -/
def opConvout : LongOp := longOp 0x10 true okVxfer fun x c first _ _ => do
  let f := xFmt x
  let b := 16 * fmtBytes f
  let n := c.x.toNat
  rangeCheck (xSd x) (elemOff c.y b first) b (fmtAlign f) (n - first) none (f == 0) false true false
  rangeCheck (xSs x) (elemOff c.a 64 first) 64 4 (n - first) none true true false false
  let h ← getX
  let meet := rangesMeet h.F c (xSd x) c.y (b * n) (xSs x) c.a (64 * n)
  let _ ← elements 0x10 0 n (fun e => do
    let v ← loadVec (xSs x) (elemOff c.a 64 e) 0
    storeVec (xSd x) (elemOff c.y b e) f v meet
    setV (vReg x 10) v
    pure false) (n - first)
  finish fun c => { c with x := 0, y := c.y + nw (n * b), a := c.a + nw (64 * n) }

/-- Accumulator of element i. -/
def accNo (i : Nat) : Fin 16 := ⟨i % 16, by omega⟩

/-- LOADACC: n at most 16 (R186). -/
def opLoadacc : LongOp := longOp 0x10 true okVxfer fun x c first _ _ => do
  let n := c.x.toNat
  rangeCheck (xSd x) (elemOff c.y 8 first) 8 8 (n - first) (overBound n 16 8 c.y) true true false false
  let _ ← elements 0x10 0 n (fun e => do
    let l ← readBytes (xSd x) (elemOff c.y 8 e) 8
    modSh fun h => { h with acc := h.acc.set (accNo e) (le64 l 0) }
    pure false) (n - first)
  finish fun c => { c with x := 0, y := c.y + nw (8 * n) }

/-- STOREACC (R186). -/
def opStoreacc : LongOp := longOp 0x10 true okVxfer fun x c first _ _ => do
  let n := c.x.toNat
  rangeCheck (xSd x) (elemOff c.y 8 first) 8 8 (n - first) (overBound n 16 8 c.y) true false true false
  let _ ← elements 0x10 0 n (fun e => do
    let h ← getX
    writeBytes (xSd x) (elemOff c.y 8 e) (bytes64 h.sh.acc[accNo e])
    pure false) (n - first)
  finish fun c => { c with x := 0, y := c.y + nw (8 * n) }

/-! Multiply-accumulate (R187-R189) -/

/-- VMAC (R187). -/
def opVmac : LongOp :=
  longOp 0x11 true (fun x => bits x 13 3 == 0#3 && bits x 0 5 == 0#5 && xFmt x != 3) fun x c first _ _ => do
    let n := c.x.toNat
    let nc := fieldN x 7 3 + 1
    rangeCheck (xSd x) (elemOff c.y 64 first) 64 4 (n - first) none true true false false
    let _ ← elements 0x11 0 n (fun e => do
      let l ← readBytes (xSd x) (elemOff c.y 64 e) 64
      useUnit 4
      let m := vecLoad 0 l
      modSh fun h =>
        let k := h.v[cyc (vReg x 10) (e % nc)]
        h.mac (xFmt x) (fun i => k[i]) (fun i => m[i])
      pure false) (n - first)
    finish fun c => { c with x := 0, y := c.y + nw (64 * n) }

/-- VMIX (R188). -/
def opVmix : LongOp :=
  longOp 0x12 true (fun x => bits x 7 3 == 0#3 && bits x 0 5 == 0#5 && xFmt x != 3) fun x c first _ _ => do
    let n := c.x.toNat
    let cap := 16 * (8 - fieldN x 10 3)
    rangeCheck (xSs x) (elemOff c.a 4 first) 4 4 (n - first) (overBound n cap 4 c.a) true true false false
    let _ ← elements 0x12 0 n (fun e => do
      let t ← readBytes (xSs x) (elemOff c.a 4 e) 4
      let off := c.y + le32 t 0
      rangeCheck (xSd x) off 64 4 1 none true true false false
      let l ← readBytes (xSd x) off 64
      useUnit 4
      let m := vecLoad 0 l
      modSh fun h =>
        let k := h.v[cyc (vReg x 10) (e / 16)][accNo e]
        h.mac (xFmt x) (fun _ => k) (fun i => m[i])
      pure false) (n - first)
    finish fun c => { c with x := 0, a := c.a + nw (4 * n) }

/-- k tap steps of VFIR from t on, on the words of a window (R189). -/
def firTaps (cr : Fin 8) (stride : Nat) (win : List Byte) (h : Sheaf) (t : Nat) : Nat → Sheaf
  | 0 => h
  | k + 1 =>
    let coef := h.v[cyc cr (t / 16)][accNo t]
    let h' := h.mac 1 (fun _ => coef) fun l => le32 win (4 * (stride * l.val + t))
    firTaps cr stride win h' (t + 1) k

/-- One VFIR output vector j from tap t on: up to the next interruption point of the instruction, or to its output (R167, R189).
k bounds the runs of taps. -/
def firVector (x : BitVec 19) (c : Ctx) (n : Nat) (meet : Bool) (j t : Nat) : Nat → M Unit
  | 0 => pure ()
  | k + 1 => do
    let taps := fieldN x 0 7 + 1
    let stride := fieldN x 8 2 + 1
    let steps := min (taps - t) (64 - (j * taps + t) % 64)
    let last := decide (taps ≤ t + steps)
    setProg 0x13 j (BitVec.ofNat 26 t)
    let out := elemOff c.a 64 j
    whole (do
      let win ← readBytes (xSd x) (elemOff c.y (64 * stride) j) (4 * (stride * 15 + taps))
      readyWrite (xSs x) out 64
      useUnit 4
      modSh fun h =>
        let h := if t = 0 then { h with acc := Vector.replicate 16 0 } else h
        firTaps (vReg x 10) stride win h t steps
      if last then
        useUnit 6
        let e ← getX
        let r := e.sh.readAll (shOsh e.sh.shst) (shRnd e.sh.shst)
        let l ← if meet then freeBytesM 64 else pure (vecStore 0 0 r.1).1
        writeBytes (xSs x) out l
        modSh fun h => h.noteSat r.2)
    if last then
      endElement
      setProg 0x13 (j + 1) 0
    else setProg 0x13 j (BitVec.ofNat 26 (t + steps))
    if (j * taps + t + steps) % 64 = 0 ∧ (!last ∨ j + 1 < n) then point
    if last then pure () else firVector x c n meet j (t + steps) k

/-- Output vectors n - k to n - 1; the first from a tap of its own. -/
def firVectors (x : BitVec 19) (c : Ctx) (n : Nat) (meet : Bool) (t : Nat) : Nat → M Unit
  | 0 => pure ()
  | k + 1 => do
    firVector x c n meet (n - (k + 1)) t 3
    firVectors x c n meet 0 k

/-- VFIR (R189). -/
def opVfir : LongOp := longOp 0x13 true (fun x => !x.getLsbD 7) fun x c first st _ => do
  let n := c.x.toNat
  let taps := fieldN x 0 7 + 1
  let stride := fieldN x 8 2 + 1
  let words := if first < n then stride * (16 * (n - 1 - first) + 15) + taps else 0
  rangeCheck (xSd x) (elemOff c.y (64 * stride) first) 4 4 words none true true false false
  rangeCheck (xSs x) (elemOff c.a 64 first) 64 4 (n - first) none true false true false
  let h ← getX
  let span := if n = 0 then 0 else 4 * (stride * (16 * (n - 1) + 15) + taps)
  firVectors x c n (rangesMeet h.F c (xSs x) c.a (64 * n) (xSd x) c.y span) (fieldN st 0 7) (n - first)
  finish fun c => { c with x := 0, y := c.y + nw (64 * stride * n), a := c.a + nw (64 * n) }

/-! Commands. A VXFER row names its OPK in [9:7] (R186). -/

/-- [18:0] of a VXFER row. -/
def vxferX (k : Nat) (x : BitVec 19) : BitVec 19 := insertBits x 7 (BitVec.ofNat 3 k)

def execBmove (g : Fin 96) (gd : Guard) (x : BitVec 19) (s : State) : Out := .next (issueLong g 0x60 gd x opBmove s)
def execBfill (g : Fin 96) (gd : Guard) (x : BitVec 19) (s : State) : Out := .next (issueLong g 0x61 gd x opBfill s)
def execBcmp (g : Fin 96) (gd : Guard) (x : BitVec 19) (s : State) : Out := .next (issueLong g 0x62 gd x opBcmp s)
def execCrc32c (g : Fin 96) (gd : Guard) (x : BitVec 19) (s : State) : Out := .next (issueLong g 0x63 gd x opCrc32c s)
def execLoadv (g : Fin 96) (gd : Guard) (x : BitVec 19) (s : State) : Out :=
  .next (issueLong g 0x70 gd (vxferX 0 x) opLoadv s)
def execStorev (g : Fin 96) (gd : Guard) (x : BitVec 19) (s : State) : Out :=
  .next (issueLong g 0x70 gd (vxferX 1 x) opStorev s)
def execConvin (g : Fin 96) (gd : Guard) (x : BitVec 19) (s : State) : Out :=
  .next (issueLong g 0x70 gd (vxferX 2 x) opConvin s)
def execConvout (g : Fin 96) (gd : Guard) (x : BitVec 19) (s : State) : Out :=
  .next (issueLong g 0x70 gd (vxferX 3 x) opConvout s)
def execLoadacc (g : Fin 96) (gd : Guard) (x : BitVec 19) (s : State) : Out :=
  .next (issueLong g 0x70 gd (vxferX 4 x) opLoadacc s)
def execStoreacc (g : Fin 96) (gd : Guard) (x : BitVec 19) (s : State) : Out :=
  .next (issueLong g 0x70 gd (vxferX 5 x) opStoreacc s)
def execVmac (g : Fin 96) (gd : Guard) (x : BitVec 19) (s : State) : Out := .next (issueLong g 0x71 gd x opVmac s)
def execVmix (g : Fin 96) (gd : Guard) (x : BitVec 19) (s : State) : Out := .next (issueLong g 0x72 gd x opVmix s)
def execVfir (g : Fin 96) (gd : Guard) (x : BitVec 19) (s : State) : Out := .next (issueLong g 0x73 gd x opVfir s)

end Sys2Proof.Machine
end

