-- ==== Sys2Proof/Machine/Paired.lean ====
section
/-! DEFINITION. The paired word and its short operations (R133, R134, R140-R142, R159, R160). -/

namespace Sys2Proof.Machine

/-- Slot of a paired word (R133). -/
structure Slot where
  pred : Fin 8
  sop : Nat
  opnd : Byte
  deriving DecidableEq, Repr

/-- Slot from its 15 bits. -/
def Slot.of (w : BitVec 15) : Slot :=
  { pred := ⟨fieldN w 13 2 % 8, by omega⟩, sop := fieldN w 8 5, opnd := w.extractLsb' 0 8 }

/-- Slots A and B of bits [30:0] (R133). -/
def slotA (w : BitVec 31) : Slot := Slot.of (w.extractLsb' 16 15)
def slotB (w : BitVec 31) : Slot := Slot.of (w.extractLsb' 1 15)

/-- Register code in OPND[1:0]. -/
def Slot.reg (t : Slot) : BitVec 2 := t.opnd.extractLsb' 0 2

/-- Whether the encoding of a slot is legal (R134, R159). -/
def Slot.legal (t : Slot) : Bool :=
  match t.sop with
  | 0x00 => t.opnd == 0
  | 0x07 => bits t.opnd 5 3 == 0#3
  | 0x08 => bits t.opnd 5 3 == 0#3
  | 0x09 => bits t.opnd 5 3 == 0#3
  | 0x0D => bits t.opnd 4 4 == 0#4
  | 0x1B => decide (t.opnd.toNat ≤ 4)
  | 0x1C => decide (t.opnd.toNat ≤ 4)
  | 0x1D => decide (t.opnd.toNat ≤ 4)
  | n => if 0x0E ≤ n ∧ n ≤ 0x13 then bits t.opnd 2 6 == 0#6 else decide (n < 0x1E)

/-! Reads and writes of a slot (R141): A, X, Y, SP in [3:0], PC in [4], C, Z, N, V in [8:5], P1-P7 in [15:9]. -/

def useReg (r : BitVec 2) : BitVec 16 := 1#16 <<< r.toNat
def useSp : BitVec 16 := 0x8#16
def usePc : BitVec 16 := 0x10#16
def useC : BitVec 16 := 0x20#16
def useZ : BitVec 16 := 0x40#16
def useN : BitVec 16 := 0x80#16
def useV : BitVec 16 := 0x100#16
def useZN : BitVec 16 := useZ ||| useN
def useFlags : BitVec 16 := 0x1E0#16
def usePreds : BitVec 16 := 0xFE00#16
def usePred (i : Nat) : BitVec 16 := if i = 0 then 0 else 1#16 <<< (8 + i)

/-- Flags that a condition tests (R141). -/
def condUses (code : Nat) : BitVec 16 :=
  match code with
  | 0 => useZ
  | 1 => useZ
  | 2 => useC
  | 3 => useC
  | 4 => useN
  | 5 => useN
  | 6 => useV
  | 7 => useV
  | 8 => useC ||| useZ
  | 9 => useC ||| useZ
  | 10 => useN ||| useV
  | 11 => useN ||| useV
  | 12 => useZN ||| useV
  | 13 => useZN ||| useV
  | _ => 0

/-- Items of PUSH and POP. -/
def itemUses (k : Nat) : BitVec 16 :=
  match k with
  | 0 => 1
  | 1 => 2
  | 2 => 4
  | 3 => usePreds
  | _ => useFlags

/-- What a slot reads (R141). -/
def Slot.reads (t : Slot) : BitVec 16 :=
  let a : BitVec 16 := 1
  usePred t.pred.val |||
    match t.sop with
    | 0x00 => 0
    | 0x01 => 0
    | 0x0A => 2
    | 0x0B => 4
    | 0x0C => useSp
    | 0x0D => useReg t.reg
    | 0x14 => condUses (fieldN t.opnd 3 4) ||| (if t.opnd.getLsbD 7 then usePred (fieldN t.opnd 0 3) else 0)
    | 0x15 =>
      usePred (fieldN t.opnd 3 3) ||| (if t.opnd.getLsbD 7 then usePred (fieldN t.opnd 0 3) else 0)
    | 0x16 => useSp
    | 0x17 => useSp ||| a
    | 0x18 => 4
    | 0x19 => 4 ||| a
    | 0x1A => usePc
    | 0x1B => useSp ||| itemUses t.opnd.toNat
    | 0x1C => useSp
    | n => if 0x0E ≤ n ∧ n ≤ 0x13 then a ||| useReg t.reg else a

/-- What a slot writes; a destination under the load delay does not count (R140, R141). -/
def Slot.writes (t : Slot) : BitVec 16 :=
  let a : BitVec 16 := 1
  match t.sop with
  | 0x01 => a
  | 0x02 => a ||| useFlags
  | 0x03 => a ||| useZN
  | 0x04 => a ||| useZN
  | 0x05 => a ||| useZN
  | 0x06 => useFlags
  | 0x07 => a ||| useC ||| useZN
  | 0x08 => a ||| useC ||| useZN
  | 0x09 => a ||| useC ||| useZN
  | 0x0A => 2 ||| useFlags
  | 0x0B => 4 ||| useFlags
  | 0x0C => useSp
  | 0x0D => useReg (t.opnd.extractLsb' 2 2)
  | 0x0E => a ||| useFlags
  | 0x0F => a ||| useFlags
  | 0x10 => a ||| useZN
  | 0x11 => a ||| useZN
  | 0x12 => a ||| useZN
  | 0x13 => useFlags
  | 0x14 => usePred (fieldN t.opnd 0 3)
  | 0x15 => usePred (fieldN t.opnd 0 3)
  | 0x1A => usePc
  | 0x1B => useSp
  | 0x1C => useSp ||| (if 3 ≤ t.opnd.toNat then itemUses t.opnd.toNat else 0)
  | 0x1D => a ||| useZN ||| (if t.opnd = 0 ∨ t.opnd = 2 then useV else 0)
  | _ => 0

/-- Whether a slot accesses memory (R141). -/
def Slot.memory (t : Slot) : Bool := (0x16 ≤ t.sop && t.sop ≤ 0x19) || t.sop == 0x1B || t.sop == 0x1C

/-- Vector 6 (R141). -/
def pairConflict (a b : Slot) : Bool := (b.reads &&& a.writes != 0) || (a.memory && b.memory)

/-! Effects (R159) -/

/-- A register and the flags from an operation. -/
def shortAlu (u : Nat) (r : BitVec 2) (f : Ctx → Word → Alu) : M Unit := do
  useUnit u
  modC fun c => let q := f c (c.reg r); (c.setReg r q.val).flags q

/-- The flags alone. -/
def shortCmp (f : Ctx → Word → Alu) : M Unit := do
  useUnit 1
  modC fun c => c.flags (f c c.a)

/-- Item of PUSH (R125, R159). -/
def pushItem (c : Ctx) (k : Nat) : Word :=
  match k with
  | 0 => c.a
  | 1 => c.x
  | 2 => c.y
  | 3 => c.predImage
  | _ => c.flagImage

/-- PUSH (R111, R124). -/
def shortPush (k : Nat) : M Unit := do
  let c ← getC
  let off := c.sp - 4
  spAligned off false true
  store 7 off (bytes32 (pushItem c k)) true
  useUnit 2
  modC fun c => { c with sp := off }

/-- POP: registers under the load delay, the images interlocked (R159, R160). -/
def shortPop (k : Nat) : M Unit := do
  let c ← getC
  spAligned c.sp true false
  let l ← load 7 c.sp 4 true
  useUnit 2
  modC fun d => { d with sp := c.sp + 4 }
  let v := le32 l 0
  match k with
  | 0 => setLoad 0 v
  | 1 => setLoad 1 v
  | 2 => setLoad 2 v
  | 3 => modC fun c => c.setPreds v
  | _ => modC fun c => c.setFlagImage v

/-- UNA (R159, R160). -/
def shortUna (k : Nat) : M Unit :=
  match k with
  | 0 => shortAlu 1 0 fun _ a => aluNeg a
  | 1 => shortAlu 3 0 fun _ a => aluZN (~~~a)
  | 2 => shortAlu 1 0 fun _ a => aluAbs a
  | 3 => shortAlu 3 0 fun _ a => aluClz a
  | _ => shortAlu 3 0 fun _ a => aluBswap a

/-- Effect of a slot whose guard is true (R159). -/
def Slot.run (t : Slot) : M Unit :=
  let sx : Word := t.opnd.signExtend 32
  let zx : Word := t.opnd.setWidth 32
  let r := t.reg
  match t.sop with
  | 0x00 => pure ()
  | 0x01 => modC fun c => { c with a := sx }
  | 0x02 => shortAlu 1 0 fun _ a => aluAdd a sx false
  | 0x03 => shortAlu 3 0 fun _ a => aluZN (a &&& zx)
  | 0x04 => shortAlu 3 0 fun _ a => aluZN (a ||| zx)
  | 0x05 => shortAlu 3 0 fun _ a => aluZN (a ^^^ zx)
  | 0x06 => shortCmp fun _ a => aluSub a sx false
  | 0x07 => shortAlu 3 0 fun _ a => aluShl a (fieldN t.opnd 0 5)
  | 0x08 => shortAlu 3 0 fun _ a => aluShr a (fieldN t.opnd 0 5)
  | 0x09 => shortAlu 3 0 fun _ a => aluSar a (fieldN t.opnd 0 5)
  | 0x0A => shortAlu 1 1 fun _ a => aluAdd a sx false
  | 0x0B => shortAlu 1 2 fun _ a => aluAdd a sx false
  | 0x0C => do
    useUnit 2
    modC fun c => { c with sp := c.sp + 4 * sx }
  | 0x0D => modC fun c => c.setReg (t.opnd.extractLsb' 2 2) (c.reg r)
  | 0x0E => shortAlu 1 0 fun c a => aluAdd a (c.reg r) false
  | 0x0F => shortAlu 1 0 fun c a => aluSub a (c.reg r) false
  | 0x10 => shortAlu 3 0 fun c a => aluZN (a &&& c.reg r)
  | 0x11 => shortAlu 3 0 fun c a => aluZN (a ||| c.reg r)
  | 0x12 => shortAlu 3 0 fun c a => aluZN (a ^^^ c.reg r)
  | 0x13 => shortCmp fun c a => aluSub a (c.reg r) false
  | 0x14 => modC fun c =>
    let d := predNo t.opnd 0
    let b := condHolds (bits t.opnd 3 4) c.psw
    c.setPred d (if t.opnd.getLsbD 7 then c.pred d && b else b)
  | 0x15 => modC fun c =>
    let d := predNo t.opnd 0
    let b := c.pred (predNo t.opnd 3)
    c.setPred d (match fieldN t.opnd 6 2 with
      | 0 => b
      | 1 => !b
      | 2 => c.pred d && b
      | _ => c.pred d || b)
  | 0x16 => do
    let c ← getC
    useUnit 2
    let l ← load 7 (c.sp + 4 * zx) 4
    setLoad 0 (le32 l 0)
  | 0x17 => do
    let c ← getC
    useUnit 2
    store 7 (c.sp + 4 * zx) (bytes32 c.a)
  | 0x18 => do
    let c ← getC
    useUnit 2
    let l ← load 0 (c.y + 4 * zx) 4
    setLoad 0 (le32 l 0)
  | 0x19 => do
    let c ← getC
    useUnit 2
    store 0 (c.y + 4 * zx) (bytes32 c.a)
  | 0x1A => do
    let x ← getX
    transfer (x.orig.pc + 4 * sx)
  | 0x1B => shortPush t.opnd.toNat
  | 0x1C => shortPop t.opnd.toNat
  | _ => shortUna t.opnd.toNat

/-- A slot under its guard as it stands at the start of the word (R137, R138). -/
def Slot.guarded (t : Slot) (c0 : Ctx) : M Unit := if c0.pred t.pred then t.run else pure ()

/-- A fault of the word as a whole or of slot A, then of slot B (R142, R203). -/
def inSlotB : M Unit := fun x => .ok () { x with slotB := true }

/-- A paired word after its fetch (R140-R142): bit [0], the encodings, the conflict, then slot A and slot B. No slot reads what
the other writes but slot A, which runs first. -/
def pairBody (w : BitVec 31) : M Unit := do
  let a := slotA w
  let b := slotB w
  let c0 ← getC
  if w.getLsbD 0 || !a.legal then raiseV 1
  if !b.legal then
    inSlotB
    raiseV 1
  if pairConflict a b then raiseV 6
  a.guarded c0
  inSlotB
  b.guarded c0

/-- A paired word. -/
def pairM (w : BitVec 31) : M Unit := do
  fetch
  pairBody w

/-- PAIRED_WORD (R140). -/
def execPairedWord (g : Fin 96) (w : BitVec 31) (s : State) : Out :=
  .next (s.issue g (pairWord w) (pairM w))

end Sys2Proof.Machine
end

