-- ==== Sys2Proof/Machine/Rerun.lean ====
section
/-! DEFINITION. A word that waited for fabric data, or for room among the operations in flight, runs again (R119, R288;
log 6, DEDUCED). -/

namespace Sys2Proof.Machine

/-- Segment register of an SLD or SST opcode (R153). -/
def opSeg (op : Nat) : Fin 8 := ⟨op % 8, by omega⟩

/-- The meaning of a long opcode below 0x60 (R147-R157). -/
def scalarOpOf (op : Nat) : Option LongOp :=
  match op with
  | 0x00 => some opLda
  | 0x01 => some opLdas
  | 0x02 => some opLdx
  | 0x03 => some opLdxs
  | 0x04 => some opLdy
  | 0x05 => some opLdys
  | 0x06 => some opLdsp
  | 0x07 => some opLdah
  | 0x08 => some opSta
  | 0x09 => some opStx
  | 0x0A => some opSty
  | 0x0B => some opStsp
  | 0x10 => some opAdd
  | 0x11 => some opAdc
  | 0x12 => some opSub
  | 0x13 => some opSbc
  | 0x14 => some opAnd
  | 0x15 => some opOr
  | 0x16 => some opXor
  | 0x17 => some opCmp
  | 0x18 => some opTst
  | 0x19 => some opMul
  | 0x1A => some opMulh
  | 0x1B => some opMulhu
  | 0x1C => some opDiv
  | 0x1D => some opDivu
  | 0x1E => some opRem
  | 0x1F => some opRemu
  | 0x20 => some opShl
  | 0x21 => some opShr
  | 0x22 => some opSar
  | 0x23 => some opRor
  | 0x24 => some opAddx
  | 0x25 => some opAddy
  | 0x26 => some opCmpx
  | 0x27 => some opCmpy
  | 0x28 => some opPset
  | 0x29 => some opPld
  | 0x2A => some opPst
  | 0x2B => some opAddsp
  | 0x30 => some opBr
  | 0x31 => some opCall
  | 0x32 => some opCallf
  | 0x33 => some opCalli
  | 0x34 => some opRetm
  | 0x35 => some opRetx
  | 0x36 => some opTrap
  | 0x37 => some opBrk
  | 0x50 => some opMfpsw
  | 0x51 => some opMtpsw
  | 0x52 => some opRdprog
  | 0x53 => some opWrprog
  | 0x54 => some opMbar
  | 0x55 => some opEvwait
  | 0x56 => some opBankhold
  | 0x57 => some opBankfree
  | 0x58 => some opAadd
  | 0x59 => some opAswap
  | _ =>
    if 0x40 ≤ op ∧ op < 0x48 then some (opSld (opSeg op))
    else if 0x48 ≤ op ∧ op < 0x50 then some (opSst (opSeg op))
    else none

/-- VXFER by OPK (R186). -/
def vxferOf (k : Nat) : Option LongOp :=
  match k with
  | 0 => some opLoadv
  | 1 => some opStorev
  | 2 => some opConvin
  | 3 => some opConvout
  | 4 => some opLoadacc
  | 5 => some opStoreacc
  | _ => none

/-- The meaning of a long opcode from 0x60 on, with its bits [18:0] (R163, R181-R189). -/
def longOpOf (op : Nat) (x : BitVec 19) : Option LongOp :=
  match op with
  | 0x68 => some opVclr
  | 0x69 => some opVsplat
  | 0x6A => some opVext
  | 0x6B => some opVins
  | 0x6C => some opVacc
  | 0x6E => some opVmfs
  | 0x6F => some opVmts
  | 0x60 => some opBmove
  | 0x61 => some opBfill
  | 0x62 => some opBcmp
  | 0x63 => some opCrc32c
  | 0x71 => some opVmac
  | 0x72 => some opVmix
  | 0x73 => some opVfir
  | 0x6D => if fieldN x 0 4 < 12 then some (opVop (fieldN x 0 4)) else none
  | 0x70 => vxferOf (fieldN x 7 3)
  | _ => scalarOpOf op

/-- The guard of a 32-bit long word (R132). -/
def wordGuard (w : Word) : Guard := { pinv := w.getLsbD 30, pred := ⟨fieldN w 27 3 % 8, by omega⟩ }

/-- Long opcodes that vendor microcode defines (R161, R163). -/
def vendorOp (op : Nat) : Bool :=
  (scalarOpOf op).isSome || (0x60 ≤ op && op ≤ 0x63) || (0x68 ≤ op && op ≤ 0x73)

/-- Whether vendor microcode keeps a whole opcode for Supervisor mode (R106, R153, R213). -/
def vendorSup (op : Nat) : Bool := ((scalarOpOf op).map fun o => o.priv 0).getD false

/-- The dispatch entry of a long opcode in an engine's table (R161, R232): vendor microcode fills those below 0xE0, and a reserved opcode
has a disabled one. -/
def State.dispEntry (s : State) (g : Fin 96) (op : Nat) : BitVec 16 :=
  if 0xE0 ≤ op then mapGet 0 op (s.custOf g).disp
  else if vendorOp op then 1#1 ++ 0#1 ++ bit 1 (vendorSup op) ++ BitVec.ofNat 13 (Config.vendorAddr op).val
  else 0

/-- What a 32-bit word does once it has been fetched: its dispatch entry, then its routine (R132, R134, R161, R232). -/
def wordBody (w : Word) : M Unit := do
  let op := fieldN w 19 8
  let x : BitVec 19 := bits w 0 19
  let e ← getX
  if w.getLsbD 31 then pairBody (bits w 0 31)
  else if !entryOk op (e.st.dispEntry e.g op) && e.st.engines[e.g].micro.isNone then raiseV 1
  else if 0xE0 ≤ op then customerBody (wordGuard w) (BitVec.ofNat 8 op) x
  else
    match longOpOf op x with
    | some o => longBody (wordGuard w) x o
    | none => raiseV 1

/-- CUSTOMER_INSTRUCTION (R162): a long word with an opcode that vendor microcode does not define, 0xE0-0xFF or a reserved one, whose entry
is disabled (R134, R158, R161; log 66, DESIGN CHOICE). -/
def execCustomerInstruction (g : Fin 96) (gd : Guard) (op : BitVec 8) (x : BitVec 19) (s : State) : Out :=
  .next (s.issue g (longWord op gd x) (do fetch; wordBody (longWord op gd x)))

/-- A stalled word runs again with the fabric data that has arrived (R119, R288). -/
def State.resume (s : State) (g : Fin 96) : State :=
  match s.engines[g].phase, s.engines[g].cur.bind s.furrow? with
  | .stalled w, some F => runM (s.updEngine g fun E => { E with phase := .ready }) g F w (wordBody w)
  | _, _ => s

/-- Every stalled word of a Field runs again: an operation in flight has ended (R119, R287). -/
def State.resumeField (s : State) (f : Fin 4) : State := (fieldEngines f).foldl (fun (s : State) (g : Fin 96) => s.resume g) s

end Sys2Proof.Machine
end

