-- ==== Sys2Proof/Machine/FabricEvents.lean ====
section
/-! DEFINITION. Responses and timeouts of the fabric (R206, R287-R291). -/

namespace Sys2Proof.Machine

/-- RESP as the block takes it: 7 counts as TARGET (R288). -/
def respCode (r : BitVec 3) : BitVec 3 := if r = 7 then 4 else r

/-- A reply with its code as the block takes it. -/
def takenReply (r : Reply) : Reply :=
  match r with
  | .ok l => .ok l
  | .bad c => .bad (respCode c)

/-- A failed buffered store becomes the furrow's pending vector-8 report, or counts in LATE_MORE; the Ledger keeps its code (R206,
R288). -/
def State.lateStore (s : State) (fid : Nat) (off : Word) (seg : BitVec 3) (seq : BitVec 16) (resp : BitVec 3) : State :=
  match s.furrow? fid with
  | none => s
  | some F =>
    let r : Rep8 := match F.ctx.rep8 with
      | none => { off := off, seg := seg, seq := seq, more := 0 }
      | some r => { r with more := if r.more = 7 then 7 else r.more + 1 }
    (s.updFurrow fid fun F => { F with ctx := { F.ctx with rep8 := some r } }).log 6 3 F.home fid off (resp.setWidth 32)

/-- Data or an error for an engine load in flight: the word runs again with it (R119, R288; log 6, DEDUCED). -/
def State.engineData (s : State) (g : Fin 96) (id : BitVec 10) (addr : DWord) (r : Reply) : State :=
  match s.engines[g].phase with
  | .waitFabric w i =>
    if i = id then
      (s.updEngine g fun E => { E with phase := .stalled w, data := E.data ++ [(addr, r)] }).resume g
    else s
  | _ => s

/-- An interrupt message has its response: none is in flight any more, and a failed one is recorded (R399). -/
def State.messageDone (s : State) (src : Fin 22) (resp : BitVec 3) : State :=
  let s := s.updHost fun H => { H with msgFlight := H.msgFlight.set src false }
  if resp = 0 then s else s.log 6 4 none src.val 0 (resp.setWidth 32)

/-- The end of a transaction: what its initiator does with the answer (R288). -/
def State.endTxn (s : State) (f : Fin 4) (t : Txn) (r : Reply) : State :=
  let code : BitVec 3 := match r with
    | .ok _ => 0
    | .bad c => c
  match t.owner with
  | .engineLoad g => s.engineData g t.id t.addr r
  | .engineStore fid off seg seq => if code = 0 then s else s.lateStore fid off seg seq code
  | .mover fid idx _ => if t.write then s.moverWrote f fid idx t.len code else s.moverData f fid idx t.len r
  | .message src => s.messageDone src code
  | .supervisor => s
  | .dump => s

/-- One turn of a kind of requester at a port: 0 engine k's stalled word, 1 the mover's next unit, 2 the supervisor's dump (R291). -/
def State.portTurn (s : State) (f : Fin 4) (kind k : Nat) : State :=
  let t := match kind with
    | 0 => s.resume (globalOf f ⟨k % 24, by omega⟩)
    | 1 => (s.moverTurn f).getD s
    | _ => if f = 0 then s.pumpDump 1 else s
  if s.fields[f].ports.txns.length < t.fields[f].ports.txns.length then t.updPorts f fun P => { P with rrPort := kind } else t

/-- What a freed transaction lets go on in its Field: the requesters take turns, from the kind after the one served last (R287, R291,
R297). -/
def State.fabricGoOn (s : State) (f : Fin 4) : State :=
  let first := s.fields[f].ports.rrPort + 1
  (List.range 72).foldl (fun (s : State) (i : Nat) => s.portTurn f ((first + i) % 3) (i / 3)) s

/-- A response reaches the port (R287, R289): it ends its transaction; a late one frees its ID; any other is recorded. -/
def State.response (s : State) (f : Fin 4) (id : BitVec 10) (write : Bool) (r : Reply) : State :=
  let P := s.fields[f].ports
  match P.txns.find? fun t => t.id == id && t.write == write with
  | some t =>
    let s := s.updPorts f fun P => { P with txns := P.txns.filter fun u => u.id ≠ id }
    (s.endTxn f t r).fabricGoOn f
  | none =>
    if P.quarantine.any fun q => q == id then
      (s.updPorts f fun P => { P with quarantine := P.quarantine.filter fun q => q ≠ id }).fabricGoOn f
    else s.log 6 2 (some f) id.toNat 0 0

/-- A transaction without a response completes with TIMEOUT, and its ID stays unused until its late response (R289). -/
def State.timeoutTxn (s : State) (f : Fin 4) (id : BitVec 10) : State :=
  match s.fields[f].ports.txns.find? fun t => t.id == id with
  | none => s
  | some t =>
    let s := s.updPorts f fun P =>
      { P with txns := P.txns.filter fun u => u.id ≠ id, quarantine := P.quarantine ++ [id] }
    let s := s.log 6 1 (some f) id.toNat (bits t.addr 0 32) 0
    (s.endTxn f t (.bad 6)).fabricGoOn f

/-- FABRIC_READ_RESPONSE (R288). -/
def execFabricReadResponse (f : Fin 4) (id : BitVec 10) (r : Reply) (s : State) : Out :=
  .next (s.response f id false (takenReply r))

/-- FABRIC_WRITE_RESPONSE (R287). -/
def execFabricWriteResponse (f : Fin 4) (id : BitVec 10) (resp : BitVec 3) (s : State) : Out :=
  .next (s.response f id true (if resp = 0 then .ok [] else .bad (respCode resp)))

/-- FABRIC_TIMEOUT (R289): a transaction issued 1 ms ago or longer. -/
def execFabricTimeout (f : Fin 4) (id : BitVec 10) (s : State) : Out :=
  .next (
    match s.fields[f].ports.txns.find? fun t => t.id == id with
    | some t => if 1000000 ≤ s.since t.issued then s.timeoutTxn f id else s
    | none => s)

end Sys2Proof.Machine
end

