-- ==== Sys2Proof/Machine/Resets.lean ====
section
/-! DEFINITION. Reset sources, reach, assertion and release; failures of clocks and supplies (R28, R72, R101, R291, R402-R413,
R418, R433, R474-R479). -/

namespace Sys2Proof.Machine

/-! Commands that end with what they act on (R72) -/

/-- Every command in execution that satisfies p completes with a status and results. -/
def State.finishAll (s : State) (p : ActiveCmd → Bool) (status : Nat) (r : List Word) : State :=
  (allFin 16).foldl (fun (s : State) (m : Fin 16) =>
    (s.mailboxes[m].active.filter fun c => c.started && p c).foldl (fun (s : State) (c : ActiveCmd) => s.finish m c.k status r) s) s

/-- Whether the object of a command in execution lies in a Field (R71, R72). -/
def State.objectIn (s : State) (f : Fin 4) (c : ActiveCmd) : Bool :=
  let n := c.args[0].toNat
  match c.opcode.toNat with
  | 0x0306 => ((s.furrow? n).bind Furrow.home) == some f
  | 0x0307 => ((s.furrow? n).bind Furrow.home) == some f || (s.sower.migs.any fun m => m.fid == n && fieldOf m.dst == f)
  | 0x0602 => n == f.val
  | 0x0603 => n / 24 == f.val
  | 0x0804 => n == f.val
  | 0x0805 => n == f.val
  | 0x0806 => n / 24 == f.val
  | 0x0807 => n == f.val
  | 0x0808 => c.args[0] == 2 && c.args[1].toNat == f.val
  | _ => false

/-- A FIELD_WALK that waits for its start over a furrow of a Field (R349). -/
def Walk.waitsOn (w : Walk) (f : Fin 4) : Bool := !w.begun && w.fields.getLsbD f.val

/-- Commands on a Field that is reset and that have not taken effect end with E_ABORTED (R72). -/
def State.abortIn (s : State) (f : Fin 4) : State :=
  let s := s.finishAll (fun c => !c.effect && s.objectIn f c) eAborted []
  let t := (s.sup.walks.filter fun w => w.waitsOn f).foldl (fun (s : State) (w : Walk) => s.finish w.mb w.k eAborted []) s
  t.updSup fun u => { u with walks := u.walks.filter fun w => !w.waitsOn f }

/-- A furrow and its migration change places: the granules that were copied last are the copy's source (R95). -/
def State.swapExtents (s : State) (m : Migration) (F : Furrow) (back : Bool) : State :=
  ((s.copyExtents (fieldOf m.dst) F.extents m.extents).updFurrow m.fid fun F => { F with extents := m.extents }).updSower fun W =>
    { W with migs := updWhere (fun n => n.fid == m.fid) (fun n => { n with extents := F.extents, swapped := !back }) W.migs }

/-- A migration that cannot go on: whole banks go back to the source by handover, granules are copied back, and the furrow runs on there
(R95). -/
def State.cancelMig (s : State) (m : Migration) : State :=
  let s := s.updFurrow m.fid fun F => if F.st = .moving then { F with st := m.was } else F
  let s := match s.furrow? m.fid with
    | some F => if m.handed then s.handOver F m.src else if m.swapped then s.swapExtents m F true else s
    | none => s
  (s.endMig m.fid).joinEngine m.fid m.src

/-! What a reset leaves (R406) -/

/-- An engine after a reset; what R99 and R488 count is kept until cold reset, and a retirement event of theirs still stands; that of an
ENGINE_RETIRE, which ends, does not (R72). -/
def Engine.restart (E : Engine) : Engine :=
  { Engine.reset with
    csCorr := E.csCorr, resid := E.resid, slackLow := E.slackLow, lastSlack := E.lastSlack, agedAt := E.agedAt
    retireDue := if E.retireDue = some 7 then none else E.retireDue }

/-- Every engine of a Field reset. -/
def State.resetEngines (s : State) (f : Fin 4) : State :=
  (fieldEngines f).foldl (fun (s : State) (g : Fin 96) => s.updEngine g Engine.restart) s

/-- BANK_OWN after a reset that reaches the Field (R250). -/
def Bank.restart (retired : Bool) (B : Bank) : Bank :=
  { B with
    st := if retired then .retired else .free, owner := 0, target := 0, shared := false, lease := false, stripe := 0, gleanQ := [] }

/-- Ports after a reset: what is in flight stays until it has drained, and then the reset frees the identifiers that timed out (R289, R291,
R407). -/
def Ports.restart (P : Ports) : Ports :=
  { Ports.reset with txns := P.txns, quarantine := if P.txns.isEmpty then [] else P.quarantine }

/-- A Field at the assertion of a warm or Field reset: pads held, drills IDLE, ownership cleared, Plot kept (R406). -/
def Field.restart (seed : Seed) (f : Fin 4) (F : Field) : Field :=
  { F with
    draining := !F.ports.txns.isEmpty, relStep := 0, padHold := true, pinsLive := false
    banks := vmap (fun b B => B.restart (decide (bankKey f b ∈ seed.retiredBanks))) F.banks
    known := [], drills := Vector.replicate 16 Drill.reset, prog := [], progErr := [], queueTab := [], pinTab := []
    cust := Customer.none, ports := F.ports.restart, msgs := [], msgSeen := [], posts := [], sels := [], selPos := 0, rackPosted := none
    units := Vector.replicate 8 BwUnit.reset, sowerErr := none, stallSower := false, freezeWin := false }

/-- Tally counters of a Field and of its engines become 0 (R469). -/
def State.clearTally (s : State) (f : Fin 4) : State :=
  { s with tally := s.tally.filter fun e =>
      tallyPerField (e.1 / 65536) = 0 || e.1 % 65536 / tallyPerField (e.1 / 65536) != f.val }

/-- A bank after a cold reset: contents lost, BANK_OWN and the remap table from the Seed store (R23, R250, R264, R406). -/
def Bank.cold (seed : Seed) (key : Nat) (B : Bank) : Bank :=
  { Bank.reset with
    epoch := lossAfter B.epoch, st := if key ∈ seed.retiredBanks then .retired else .free
    remap := (seed.remaps.filter fun e => e.1 == key).map Prod.snd
    badSpares := (seed.badSpares.filter fun e => e.1 == key).map Prod.snd }

/-! Block-wide resets (R404-R407) -/

/-- Causes that count as failed starts (R412). -/
def startCause (c : BitVec 4) : Bool := decide (6 ≤ c.toNat ∧ c.toNat ≤ 10)

/-- Cold reset asserted (R402, R405, R406): everything of cold reach; while one is in force a further source is only recorded. -/
def State.assertCold (s : State) (cause : BitVec 4) : State :=
  if s.reset?.any BlockReset.cold then s.log 0 1 none 0 (cause.setWidth 32) 0
  else
    let banksOf (f : Fin 4) (F : Field) : Field :=
      { Field.reset with pwrOk := F.pwrOk, banks := vmap (fun b B => B.cold s.seed (bankKey f b)) F.banks }
    { State.reset with
      pending := s.pending, seed := s.seed, island := s.island, pins := { s.pins with memKeepAck := false, dormantAck := false }
      freeCtr := s.freeCtr, fields := vmap banksOf s.fields, ledger := Ledger.reset cause
      reset? := some { cold := true, cause := cause, step := 0, failed := false } }

/-- Interrupts, indirect pairs and guard after a warm reset; the seal registers and BADKEYS are kept (R388, R391), ERR_STAT's SEALF and SEALB
are not (R8, R378, R380; log 72, DEDUCED). -/
def HostWin.warm (H : HostWin) : HostWin :=
  { HostWin.reset with
    badKeys := H.badKeys, sealRef := H.sealRef, sealAct := H.sealAct, sealLast := H.sealLast, sealPasses := H.sealPasses
    sealParts := H.sealParts, sealActParts := H.sealActParts, msgFlight := H.msgFlight }

/-- The supervisor after a warm reset: what the retained region holds (R419). `back` names the Fields to return. -/
def Sup.warm (u : Sup) (back : BitVec 4) : Sup :=
  { Sup.reset with
    firstCommit := u.firstCommit, conf := u.conf, committedFields := u.committedFields, reapply := back &&& u.committedFields
    confErr := u.confErr, custErr := u.custErr, sessionNum := u.sessionNum, judged := [], ledgerMark := u.ledgerMark }

/-- The Almanac after a warm reset: the time base, the PPS capture and the level status of TB_STAT run on (log 72, DEDUCED); TB_RATE, and INC
with it, timers and watchdogs take their reset values (R8, R356, R359, R371, R406). -/
def Almanac.warm (A : Almanac) : Almanac :=
  { A with
    inc := nominalInc, rate := 0, slew := 0, timers := Vector.replicate 32 Timer.reset, wds := Watchdog.wdsReset, wdf := Vector.replicate 4 Watchdog.wdfReset, tbSample := []
    incSample := Vector.replicate 4 0, deadline := none }

/-- Debug registers after a warm reset: the session and nonce end; TRC_LOST is kept, and no nonce is issued twice (R66, R465). -/
def Debug.warm (d : Debug) : Debug :=
  { Debug.reset with trcLostPwr := d.trcLostPwr, trcLostFull := d.trcLostFull, challenges := d.challenges, sessions := d.sessions }

/-- A furrow after a warm reset (R419): a resident RESTARTABLE one waits to restart; every other becomes FAILED. -/
def Furrow.warm (F : Furrow) : Furrow :=
  let G := { F with
    engine := none, waitMask := none, mbar := false, enSeen := [], runAtCommit := false, startOnCommit := false, fetched := []
    doorbells := [], rings := [], sels := [], ctlq := [], ctxErr := none }
  if F.desc.restartable ∧ !F.extents.isEmpty then { G with st := .unplaced } else { G with st := .failed }

/-- The Sower after a warm reset: plans, substitutions and rates are retained; resident furrows wait for their restart (R419). -/
def State.warmSower (s : State) : Sower :=
  let W := s.sower
  { Sower.reset with
    plans := W.plans, activePlan := W.activePlan, subs := W.subs, transitions := W.transitions, lastTransSeq := W.lastTransSeq
    rates := W.rates, ratesDeclared := W.ratesDeclared
    restarts := (s.furrows.filter fun F => F.desc.restartable && !F.extents.isEmpty).map fun F => (F.id, restartHome) }

/-- Warm reset asserted (R405-R407, R419): a further source while a block-wide reset is in force is only recorded. -/
def State.assertWarm (s : State) (cause : BitVec 4) : State :=
  let rec_ (s : State) : State := s.log 0 2 none 0 (cause.setWidth 32) 0
  if s.reset?.isSome then rec_ s
  else
    let failed := s.sup.released && !s.sup.started && startCause cause
    let back : BitVec 4 := (allFin 4).foldl (fun (m : BitVec 4) (f : Fin 4) =>
      if s.fields[f].st = .off then m else m ||| (1#4 <<< f.val)) 0
    let fieldsOf (f : Fin 4) (F : Field) : Field :=
      if F.st = .off then { F with chg := 0 }
      else { F.restart s.seed f with st := .resetting, chg := 0 }
    rec_
      { s with
        mailboxes := mailboxesReset, host := s.host.warm, almanac := s.almanac.warm
        fields := vmap fieldsOf s.fields, engines := vmap (fun _ E => E.restart) s.engines
        furrows := s.furrows.map Furrow.warm, sower := s.warmSower, sup := s.sup.warm back, dbg := s.dbg.warm, tally := []
        bridgeRr := 3, pins := { s.pins with memKeepAck := false, dormantAck := false }
        reset? := some { cold := false, cause := cause, step := 0, failed := failed } }

/-- MEM_KEEP_REQ: from the assertion of a warm reset until step 4 has completed (R407, R479). -/
def State.memKeepReq (s : State) : Bool := s.reset?.any fun r => !r.cold

/-! Field and engine reset (R101, R402, R406) -/

/-- A failure event of a Field in Sealed mode waits for the plan (R90, R94). -/
def State.failEvent (s : State) (kind : BitVec 8) (f : Fin 4) : State :=
  if s.sealed && s.sup.firstCommit then s.updSower fun W => { W with events := W.events ++ [(kind, f)] } else s

/-- Furrows resident in a Field. -/
def State.residentIn (s : State) (f : Fin 4) : List Furrow := s.furrows.filter fun F => F.home == some f && !F.extents.isEmpty

/-- Whether a furrow may run in another Field that is In service (R98, R101). -/
def State.hasRefuge (s : State) (F : Furrow) (f : Fin 4) : Bool :=
  (allFin 4).any fun h => h != f && F.desc.fieldMask.getLsbD h.val && s.fields[h].st == .inService

/-- Furrows of a Field that are lost with it: all residents but those already FAILED, STOPPED ones included. One that waits for its restart
waits on, in Rolling mode for its Field where no other is open to it (R101). -/
def State.loseField (s : State) (f : Fin 4) : State :=
  (s.residentIn f).foldl (fun (s : State) (F : Furrow) =>
    if F.st = .failed then s
    else if F.st = .unplaced ∧ F.engine = none then
      if s.sealed || s.hasRefuge F f then s
      else s.updSower fun W => { W with restarts := W.restarts.filter fun r => r.1 ≠ F.id }
    else s.loseFurrow F.id 2 (some f)) s

/-- Migrations from elsewhere into a Field that fails end. -/
def State.cancelInto (s : State) (f : Fin 4) : State :=
  (s.sower.migs.filter fun m => fieldOf m.dst == f && fieldOf m.src != f).foldl (fun (s : State) (m : Migration) => s.cancelMig m) s

/-- Field reset (R72, R101, R291, R402, R405, R406, R419). A Field that is Off or already in reset keeps its state. `failed` says that it
is a failure event of the plans (R90). -/
def State.fieldResetAs (s : State) (f : Fin 4) (cause : BitVec 4) (failed : Bool) : State :=
  let s := s.log 0 3 (some f) f.val (cause.setWidth 32) 0
  if s.reset?.isSome ∨ s.fields[f].st = .resetting ∨ s.fields[f].st = .off then s
  else
    let served := s.fields[f].st == .inService || s.fields[f].st == .draining
    let s := (s.abortIn f).cancelInto f
    let s := s.setFieldSt f .resetting
    let s := s.loseField f
    let s := if served && failed then s.failEvent 1 f else s
    let s := (s.bridgeAbort f).resetEngines f
    let s := s.updField f fun F => F.restart s.seed f
    let s := (s.clearTally f).openWindows f
    if !s.sealed && s.sup.committedFields.getLsbD f.val then
      s.updSup fun u => { u with reapply := u.reapply ||| (1#4 <<< f.val) }
    else s

/-- A Field reset that is a failure of the Field. -/
def State.fieldReset (s : State) (f : Fin 4) (cause : BitVec 4) : State := s.fieldResetAs f cause true

/-- Engine reset (R101, R402, R406): its furrows are lost, and data of its accesses in flight is discarded. -/
def State.engineReset (s : State) (g : Fin 96) (cause : BitVec 4) : State :=
  let s := s.log 0 4 (some (fieldOf g)) g.val (cause.setWidth 32) 0
  if s.reset?.isSome ∨ s.fields[fieldOf g].st = .resetting ∨ s.fields[fieldOf g].st = .off then s
  else (s.loseAll g 1).updEngine g Engine.restart

/-! Sources -/

/-- COLD_RESET (R402, R406). -/
def execColdReset (cause : BitVec 4) (s : State) : Out := .next (s.assertCold cause)

/-- WARM_RESET (R402, R407). -/
def execWarmReset (cause : BitVec 4) (s : State) : Out := .next (s.assertWarm cause)

/-- FIELD_RESET (R402, R406). -/
def execFieldReset (f : Fin 4) (cause : BitVec 4) (s : State) : Out := .next (s.fieldReset f cause)

/-- ENGINE_RESET (R402, R406). -/
def execEngineReset (g : Fin 96) (cause : BitVec 4) (s : State) : Out := .next (s.engineReset g cause)

/-- POWER_ON_DETECT (R402): cause 0x0. -/
def execPowerOnDetect (s : State) : Out := .next (s.assertCold 0)

/-- BLK_RST_N_ASSERT (R404): at least 100 ns always resets, less than 20 ns never; between them the outcome is a free value (log 9, DESIGN CHOICE). -/
def execBlkRstNAssert (ns : Nat) (s : State) : Out :=
  .next (
    if 100 ≤ ns then s.assertCold 1
    else if ns < 20 then s
    else
      let (b, s) := s.fresh 1
      if b = 1 then s.assertCold 1 else s)

/-- SOC_BRNOUT_ASSERT (R404): high asserts cold reset and holds it. -/
def execSocBrnoutAssert (high : Bool) (s : State) : Out :=
  .next (
    if high then (s.assertCold 2).updPins fun p => { p with brnout := true } else s.updPins fun p => { p with brnout := false })

/-- SUPERVISOR_CRITICAL_ERROR (R433): causes 0x7, 0x8 and 0x9 of a running supervisor. -/
def execSupervisorCriticalError (kind : Fin 3) (s : State) : Out :=
  .next (if s.sup.released then s.assertWarm (BitVec.ofNat 4 (7 + kind.val)) else s)

/-- WDS_EXPIRY (R371): a Ledger record, then a warm reset of cause 0x6. -/
def execWdsExpiry (s : State) : Out :=
  .next (
    let w := s.almanac.wds
    if w.running ∧ w.en ∧ !w.frozen ∧ w.remain = 0 then (s.log 8 4 none 0 0 0).assertWarm 6 else s)

/-- WDF_EXPIRY (R371): a Ledger record, then a Field reset of cause 0xB. -/
def execWdfExpiry (f : Fin 4) (s : State) : Out :=
  .next (
    let w := s.almanac.wdf[f]
    if w.running ∧ w.en ∧ !w.frozen ∧ w.remain = 0 then (s.log 8 4 (some f) (f.val + 1) 0 0).fieldReset f 0xB else s)

/-- Whether an engine of a Field lets its heartbeat pass: asleep, without a furrow, past a boundary, or waiting in EVWAIT (R371). -/
def State.beatOk (s : State) (g : Fin 96) : Bool :=
  let E := s.engines[g]
  E.st == .doze || E.st == .retired || (s.residents g).isEmpty || E.beat ||
    (E.st == .awake && (s.readyOn g).isEmpty && E.atBoundary)

/-- FIELD_HEARTBEAT (R371): the heartbeat of the running supervisor kicks WDFn of an In service Field. -/
def execFieldHeartbeat (f : Fin 4) (s : State) : Out :=
  .next (
    if !s.supAlive ∨ s.fields[f].st ≠ .inService then s
    else
      let ok := (fieldEngines f).all s.beatOk
      let s := if ok then s.updAlm fun A => { A with wdf := vupd A.wdf f Watchdog.kick } else s
      (fieldEngines f).foldl (fun (s : State) (g : Fin 96) => s.updEngine g fun E => { E with beat := false }) s)

/-- START_DEADLINE_EXPIRY (R417): START_OK has not been written when its counter has run down: warm reset of cause 0xA. -/
def execStartDeadlineExpiry (s : State) : Out :=
  .next (
    if s.almanac.deadline = some 0 ∧ !s.sup.started ∧ !s.inFallow then s.assertWarm 10 else s)

/-- VBAK_LOSS (R412): the island restarts with its counters at 0. -/
def execVbakLoss (s : State) : Out := .next { s with island := { coldResets := 0, cause := 0, failedStarts := 0 } }

/-- DEBUG_RESET_ENGINE (R403, R451). -/
def execDebugResetEngine (g : Fin 96) (s : State) : Out :=
  .next (s.viaDebug fun s => if s.debugWrite.getLsbD (fieldOf g).val then s.engineReset g 5 else s.debugRefused 0x80010)

/-- DEBUG_RESET_FIELD (R403, R451). -/
def execDebugResetField (f : Fin 4) (s : State) : Out :=
  .next (s.viaDebug fun s => if s.debugWrite.getLsbD f.val then s.fieldReset f 5 else s.debugRefused 0x80010)

/-- DEBUG_RESET_WARM (R403, R451). -/
def execDebugResetWarm (s : State) : Out :=
  .next (s.viaDebug fun s => if s.debugWrite = 0x1F then s.assertWarm 5 else s.debugRefused 0x80010)

/-- DEBUG_RESET_COLD (R403, R451). -/
def execDebugResetCold (s : State) : Out :=
  .next (s.viaDebug fun s => if s.debugWrite = 0x1F then s.assertCold 5 else s.debugRefused 0x80010)

/-! Clocks and supplies (R28, R476, R477, R480) -/

/-- Whether a clock may stand still now without a fault (R480, R483). DBG_CLK may at any time: a fault of it is a clock out of its rate (log 73,
DESIGN CHOICE). -/
def State.mayStop (s : State) (c : Fin 10) : Bool :=
  (match toFin? 4 c.val with
    | some f => s.fields[f].st == .off
    | none => false) || (s.pins.dormantAck && (c.val == 0 || c.val == 6 || c.val == 7))

/-- Outstanding fabric requests complete with the timeout response (R28, R289). -/
def State.timeoutAll (s : State) : State :=
  (allFin 4).foldl (fun (s : State) (f : Fin 4) =>
    s.fields[f].ports.txns.foldl (fun (s : State) (t : Txn) => s.timeoutTxn f t.id) s) s

/-- What the loss of a clock does (R28). While LF is faulty the Almanac cannot enter LF mode. -/
def State.clockLost (s : State) (c : Fin 10) : State :=
  let s := (s.log 9 1 none 0 (nw c.val) 0).updPins fun p => { p with clkFault := p.clkFault ||| (1#10 <<< c.val) }
  match toFin? 4 c.val with
  | some f => s.fieldReset f 0xD
  | none =>
    if c.val = 5 then s.timeoutAll
    else if c.val = 7 then if s.pins.clkFault.getLsbD 8 then s else s.updAlm fun A => { A with lf := true }
    else s

/-- CLOCK_FAULT (R28): the actions of the faulty clock. -/
def execClockFault (c : Fin 10) (s : State) : Out :=
  .next (if s.pins.clkFault.getLsbD c.val || s.mayStop c then s else s.clockLost c)

/-- CLOCK_RECOVERY (R28). -/
def execClockRecovery (c : Fin 10) (s : State) : Out :=
  .next (
    if s.pins.clkFault.getLsbD c.val then
      (s.updPins fun p => { p with clkFault := p.clkFault &&& ~~~(1#10 <<< c.val) }).log 9 2 none 0 (nw c.val) 0
    else s)

/-- FIELD_UNDERVOLTAGE (R477): an ENGn clock fault of a Field that is not Off. -/
def execFieldUndervoltage (f : Fin 4) (s : State) : Out :=
  .next (
    let c : Fin 10 := ⟨f.val, by omega⟩
    if s.fields[f].st = .off ∨ s.pins.clkFault.getLsbD f.val then s else s.clockLost c)

/-- Plot of a Field that loses its supply without retention (R23). -/
def State.losePlot (s : State) (f : Fin 4) : State :=
  let s := (allFin 32).foldl (fun (s : State) (b : Fin 32) => s.loseBank f b) s
  s.updField f fun F => { F with ecc := [], known := [] }

/-- PWR_ENG_OK_CHANGE (R476, R477). -/
def execPwrEngOkChange (f : Fin 4) (up : Bool) (s : State) : Out :=
  .next (
    let F := s.fields[f]
    let mine (c : ActiveCmd) : Bool := c.opcode == 0x0805 && c.args[0].toNat == f.val
    if up then
      let s := s.updField f fun F => { F with pwrOk := true }
      if F.st = .off ∧ F.pwrReq then
        let s := if F.retain then s else s.losePlot f
        let s := s.resetEngines f
        let s := (s.updField f fun F => F.restart s.seed f).openWindows f
        (s.setFieldSt f .resetting).finishAll mine eOk []
      else s
    else
      let s := s.updField f fun F => { F with pwrOk := false }
      if F.st = .out ∧ !F.pwrReq then ((s.setFieldSt f .off).portDown f).finishAll mine eOk []
      else if F.st = .off then s
      else
        let c : Fin 10 := ⟨f.val, by omega⟩
        if s.pins.clkFault.getLsbD f.val then s else s.clockLost c)

/-- MEM_KEEP_ACK_RISE (R479): ignored while MEM_KEEP_REQ is 0. -/
def execMemKeepAckRise (s : State) : Out :=
  .next (if s.memKeepReq then s.updPins fun p => { p with memKeepAck := true } else s)

/-- SEED_PROGRAM_PULSE_COMPLETION (R409). -/
def execSeedProgramPulseCompletion (s : State) : Out := .next { s with seed := { s.seed with pulse := false } }

/-- FABRIC_DRAIN_COMPLETION (R289, R291): the Field's port has nothing in flight any more, and is reset. -/
def execFabricDrainCompletion (f : Fin 4) (s : State) : Out :=
  .next (
    if s.fields[f].ports.txns.isEmpty ∧ s.fields[f].draining then
      s.updField f fun F => { F with draining := false, ports := { F.ports with quarantine := [] } }
    else s)

/-- DORMANT_ENTRY (R483): the conditions of the block; the command states that PWR_DORMANT_REQ is 1. -/
def execDormantEntry (s : State) : Out :=
  .next (
    let ok := !s.sealed && s.supAlive && s.reset?.isNone && !s.pins.clkFault.getLsbD 8 && s.fields[(0 : Fin 4)].st == .out &&
      (allFin 4).all (fun f => f.val == 0 || s.fields[f].st == .off) &&
      (fieldEngines 0).all (fun g => s.engines[g].st == .doze || s.engines[g].st == .retired) &&
      (allFin 16).all (fun m => s.mailboxes[m].active.isEmpty) && s.dbg.session.isNone
    if ok then
      ((s.updPins fun p => { p with dormantAck := true }).portDown 0).updAlm fun A =>
        { A with lf := true, wds := { A.wds with running := false } }
    else s)

/-- DORMANT_EXIT (R483): WDS reloads its period and the supervisor resumes. -/
def execDormantExit (s : State) : Out := .next s.leaveDormant

end Sys2Proof.Machine
end

