-- ==== Sys2Proof/Machine/Boot.lean ====
section
/-! DEFINITION. Release from reset, boot, START_OK, Fallow mode and its pass-through, and the return of retained configurations
(R408-R424, R434). -/

namespace Sys2Proof.Machine

/-! A Field enters Out (R20, R218, R241, R408) -/

/-- An engine leaves engine reset with its control store loaded, at entry 0x0000, and is awake until it dozes; one of the retirement map
keeps its clock off (R84, R100, R216, R218; log 75, DEDUCED). -/
def State.loadEngine (s : State) (g : Fin 96) : State :=
  let s := s.updEngine g fun E =>
    { E with
      resetHeld := false, csErr := [], dispErr := none, custOld := none
      st := if g ∈ s.seed.retiredEngines then .retired else .awake }
  match s.csFetch g 0 with
  | none => s.stick g 3
  | some s => s

/-- The customer image of a Field from its retained copy; one that fails its check is not applied and recorded (R241). -/
def State.loadCustomer (s : State) (f : Fin 4) : State :=
  match s.fields[f].keptCust with
  | none => s.updField f fun F => { F with cust := Customer.none }
  | some C =>
    if s.sup.custErr.getLsbD f.val then (s.updField f fun F => { F with cust := Customer.none }).log 10 2 (some f) f.val 0 0
    else s.updField f fun F => { F with cust := C }

/-- A Field that has left reset enters Out once firmware runs; in Fallow mode its engines stay in engine reset (R408, R421). A RESET of
the Field completes (R65). -/
def State.fieldOut (s : State) (f : Fin 4) : State :=
  if s.fields[f].st ≠ .resetting ∨ s.fields[f].relStep = 0 then s
  else
    let s := s.setFieldSt f .out
    let s := if s.inFallow then s
      else (fieldEngines f).foldl (fun (s : State) (g : Fin 96) => s.loadEngine g) (s.loadCustomer f)
    s.finishAll (fun c => c.opcode == 0x0808 && c.args[0] == 2 && c.args[1].toNat == f.val) eOk []

/-! Release (R408-R413) -/

/-- The island at release step 1 (R412). -/
def Island.release (i : Island) (r : BlockReset) : Island :=
  if r.cold then { i with coldResets := if i.coldResets = 0xFFFF then i.coldResets else i.coldResets + 1, cause := r.cause }
  else { i with cause := r.cause, failedStarts := if r.failed && i.failedStarts != 7 then i.failedStarts + 1 else i.failedStarts }

/-- The strap code of four conversions, and whether they agreed (R410). -/
def strapOf (conv : List (BitVec 6)) : BitVec 4 × Bool :=
  let codes := conv.map fun r => (bits r 2 4 : BitVec 4)
  match codes with
  | [] => (0xE, false)
  | c :: l => if l.all (· == c) then (c, true) else (0xE, false)

/-- The strap sample of a cold reset; from then on every drill pin has the level that b1 selects (R410, R413). -/
def State.sampleStrap (s : State) (conv : List (BitVec 6)) : State :=
  let c := strapOf conv
  let s := s.updPins fun p => { p with strapCode := c.1, strapAgreed := c.2, strapRaw := conv.getLastD 0 }
  let padsOf (F : Field) : Field := F.defaultPads s.padHiZ
  { s with fields := vmap (fun _ F => padsOf F) s.fields }

/-- ALM cycles of the start deadline: 2 s (R371, R417). -/
def startCycles : Nat := 2000 * almPerMs

/-- The supervisor leaves reset: MEAS0 takes the ROM digest, WDS runs, the deadline is set (R371, R416, R417). -/
def State.releaseSupervisor (s : State) : State :=
  let s := s.updSup fun u => { u with released := true }
  let s := s.extend 0 Config.romDigest
  s.updAlm fun A =>
    { A with wds := { A.wds with remain := A.wds.period.toNat * almPerMs, running := true }, deadline := some startCycles }

/-- Whether a Field may leave reset: drained, supplied and clocked (R28, R291, R476). -/
def State.mayRelease (s : State) (f : Fin 4) : Bool :=
  s.fields[f].st == .resetting && !s.fields[f].draining && s.fields[f].pwrOk && !s.pins.clkFault.getLsbD f.val

/-- A Field leaves reset; it enters Out when firmware runs (R408). The start test comes first where it has not run since cold reset (R264). -/
def State.releaseField (s : State) (f : Fin 4) (defects : List (Nat × List Nat)) : State :=
  let s := if s.fields[f].tested then s else (s.startTest f defects).updField f fun F => { F with tested := true }
  let s := s.updField f fun F => { F with relStep := 1 }
  if s.supAlive then s.fieldOut f else s

/-- One step of a block-wide release (R408). A Field that is Off, or has no supply or clock, is passed over. -/
def State.releaseStep (s : State) (r : BlockReset) (conv : List (BitVec 6)) (defects : List (Nat × List Nat)) : State :=
  let put (s : State) (n : Nat) : State := { s with reset? := some { r with step := n } }
  match r.step with
  | 0 => put { s with island := s.island.release r } (if r.cold then 1 else 2)
  | 1 => if conv.length = 4 then put (s.sampleStrap conv) 2 else s
  | 2 => if !r.cold && !s.pins.memKeepAck then s else put s.releaseSupervisor 3
  | n =>
    match toFin? 4 (n - 3) with
    | none => { s with reset? := none }
    | some f =>
      let s := if s.mayRelease f then s.releaseField f defects else s
      if f = 3 then { s with reset? := none } else put s (n + 1)

/-- RESET_RELEASE (R405, R408, R409). -/
def execResetRelease (t : ResetTarget) (conv : List (BitVec 6)) (defects : List (Nat × List Nat)) (s : State) : Out :=
  .next (
    match t, s.reset? with
    | .block, some r =>
      if s.pins.brnout ∨ s.seed.pulse ∨ (s.fields.toList.any fun F => F.draining) then s else s.releaseStep r conv defects
    | .block, none => s
    | .field f, none => if s.seed.pulse ∨ !s.mayRelease f then s else s.releaseField f defects
    | .field _, some _ => s
    | .engine g, none =>
      if s.engines[g].resetHeld && !s.seed.pulse && (s.fields[fieldOf g].st == .out || s.fields[fieldOf g].st == .inService ||
          s.fields[fieldOf g].st == .draining) && !s.inFallow then s.loadEngine g else s
    | .engine _, some _ => s)

/-! Boot (R415, R416, R420, R434) -/

/-- Bytes of the microcode section of a firmware image (R434). -/
def microcodeLen : Nat := 129600

/-- Whether the header of a supervisor firmware image is in order (R434). -/
def fwHeaderOk (l : List Byte) : Bool :=
  let n := (le32 l 12).toNat
  le32 l 0 == 0x0096AC01#32 && le16 l 4 == 1 && byteAt l 6 == 1 && byteAt l 7 == 0 && le16 l 8 != 0 && n % 64 == 0 &&
    decide (64 ≤ n ∧ n ≤ 394496) && (le32 l 16).toNat == microcodeLen && (le32 l 20).toNat == 32 + n + microcodeLen + 100 &&
    zeroBytes l 24 8

/-- Bytes of an image before its CRC. -/
def fwBodyLen (l : List Byte) : Nat := 32 + (le32 l 12).toNat + microcodeLen

/-- The image digest and whether the signature holds under the Caerilner firmware key (R434). -/
def fwDigest (l : List Byte) : BitVec 384 := Config.sha384 (bytesAt l 0 (fwBodyLen l + 4))
def fwSigned (l : List Byte) : Bool := Config.ecdsaVerify Config.caerilnerKey (fwDigest l) (bytesAt l (fwBodyLen l + 4) 96)

/-- The microcode section. -/
def fwMicrocode (l : List Byte) : List Byte := bytesAt l (32 + (le32 l 12).toNat) microcodeLen

/-- Fallow mode is entered: ROM firmware runs, the record is written, pins without a Fallow set take their default (R420, R421,
R424). -/
def State.enterFallow (s : State) (why : Nat) : State :=
  let s := s.updSup fun u => { u with fallow := why, running := true, build := 0 }
  let s := s.updAlm fun A => { A with deadline := none }
  let s := s.log 0 5 none 0 (s.island.cause.setWidth 32) (nw why)
  let padsOf (f : Fin 4) (F : Field) : Field :=
    if f = 0 ∧ s.seed.fallowSet.isSome then F else { F.defaultPads s.padHiZ with padHold := false }
  let s := { s with fields := vmap padsOf s.fields }
  (allFin 4).foldl (fun (s : State) (f : Fin 4) => s.fieldOut f) s

/-- Index of a boot slot. -/
def slotIx (b : Bool) : Fin 2 := if b then 1 else 0

/-- The boot ROM has read the image of its slot (R415, R416). -/
def State.bootImage (s : State) (slot : Bool) (l : List Byte) : State :=
  let seed := s.seed
  if !fwHeaderOk l || !fwSigned l then s.enterFallow 3
  else
    let d := fwDigest l
    let s := s.extend 1 d
    if !seed.blank && d != seed.slotDigest[slotIx slot] then s.enterFallow 4
    else if (le16 l 8).toNat < seed.floor.toNat then s.enterFallow 5
    else
      let code := fwMicrocode l
      let v := Config.sha384 code
      let s := s.extend 2 v
      let s := s.updSup fun u =>
        { u with running := true, build := le16 l 8, digest := d, vbuild := le16 l 10, vdigest := v, vcode := code }
      (allFin 4).foldl (fun (s : State) (f : Fin 4) => s.fieldOut f) s

/-- Whether the boot ROM runs: the supervisor is released, and Field 0's fabric port is out of reset (R408). -/
def State.bootReady (s : State) : Bool :=
  s.sup.released && !s.sup.running && !s.pins.clkFault.getLsbD 4 && s.fields[(0 : Fin 4)].relStep != 0

/-- The slot of a start; a trial that ended in a failed start is dropped, a pending image that may take effect goes on trial (R60,
R415). -/
def State.chooseSlot (s : State) : State × Bool :=
  let s := if s.seed.trial.isSome && startCause s.island.cause then s.updSeed fun d => { d with trial := none } else s
  match s.seed.trial, s.seed.pending with
  | some t, _ => (s, t)
  | none, some p =>
    if s.sealedCommitted then (s, s.seed.active) else (s.updSeed fun d => { d with trial := some p, pending := none }, p)
  | none, none => (s, s.seed.active)

/-- SUPERVISOR_BOOT (R415): the ROM's checks and its read of the slot; a read that fails is repeated. -/
def execSupervisorBoot (img : Reply) (s : State) : Out :=
  .next (
    if !s.bootReady ∨ s.sup.slotUsed.isSome then s
    else if !s.pins.strapAgreed then s.enterFallow 6
    else if !s.pins.strapCode.getLsbD 0 then s.enterFallow 1
    else if s.seed.unreadable ∧ !s.seed.blank then s.enterFallow 7
    else if 3 ≤ s.island.failedStarts.toNat then s.enterFallow 2
    else
      let r := s.chooseSlot
      let s := r.1.updSup fun u => { u with slotUsed := some r.2 }
      match img with
      | .ok l => s.bootImage r.2 l
      | .bad _ => s)

/-- BOOT_READ_RETRY (R415): the read of the chosen slot again. -/
def execBootReadRetry (img : Reply) (s : State) : Out :=
  .next (
    match s.sup.slotUsed, img with
    | some t, .ok l => if s.bootReady then s.bootImage t l else s
    | _, _ => s)

/-- Whether supervisor firmware may write START_OK (R417). -/
def State.mayStartOk (s : State) : Bool :=
  s.supAlive && !s.inFallow && !s.sup.started && s.sup.reapply == 0 &&
    (allFin 4).all fun f => s.fields[f].st != .resetting

/-- The boot record after START_OK (R415, R417). -/
def Seed.startOk (d : Seed) (u : Sup) : Seed :=
  let slot := u.slotUsed.getD d.active
  let d := if d.blank then
    { d with
      blank := false, active := slot, slotDigest := d.slotDigest.set (slotIx slot) u.digest
      slotBuild := d.slotBuild.set (slotIx slot) u.build, slotValid := d.slotValid.set (slotIx slot) true }
    else d
  match d.trial with
  | some t => { d with active := t, trial := none, floor := d.slotBuild[slotIx t] }
  | none => d

/-- START_OK (R412, R417). -/
def execStartOk (s : State) : Out :=
  .next (
    if s.mayStartOk then
      let s := s.updSup fun u => { u with started := true }
      let s := { s with island := { s.island with failedStarts := 0 } }
      (s.updAlm fun A => { A with deadline := none }).updSeed fun d => d.startOk s.sup
    else s)

/-! The return of a retained configuration (R419) -/

/-- Seal of the retained configuration, the Field's customer image as it is loaded (R241, R419). -/
def State.retainedSeal (s : State) (f : Fin 4) : Word :=
  (confSeal (s.sup.conf.map fun e => if e.1 == f.val && e.2.ty == 0x00F2 then (e.1, s.readItem f e.2) else e)).1

/-- Number of the measurement register of a Field's customer image (R416). -/
def measOf (f : Fin 4) : Fin 8 := ⟨3 + f.val, by omega⟩

/-- What comes with the first Field that returns after a warm reset: block records, MEAS3-MEAS7, COMMITTED (R416, R419). -/
def State.firstReturn (s : State) : State :=
  if s.sup.committed then s
  else
    let s := (s.sup.conf.filter fun e => e.1 == blockScope).foldl (fun (s : State) (e : Nat × Item) => s.applyBlockItem e.2) s
    let s := (allFin 4).foldl (fun (s : State) (f : Fin 4) =>
      match s.fields[f].keptCust with
      | some C => if s.sup.custErr.getLsbD f.val then s else s.extend (measOf f) C.digest
      | none => s) s
    (s.extend 7 (sealDigest s.host.sealAct)).updSup fun u => { u with committed := true }

/-- Ownership of the extents that furrows have kept in a Field (R419). -/
def State.reclaim (s : State) (f : Fin 4) : State :=
  (s.residentIn f).foldl (fun (s : State) (F : Furrow) =>
    F.banks.foldl (fun (s : State) (b : Fin 32) =>
      s.updBank f b fun B => { B with st := .owned, owner := 0, target := 0, shared := !F.desc.wholeBanks }) s) s

/-- Furrows that wait for their Field are to restart in it (R101, R419). -/
def State.wakeWaiting (s : State) (f : Fin 4) : State :=
  let l := (s.residentIn f).filter fun F =>
    F.st == .unplaced && F.desc.restartable && !(s.sower.restarts.any fun r => r.1 == F.id)
  s.updSower fun W => { W with restarts := W.restarts ++ l.map fun F => (F.id, restartHome) }

/-- A Field whose retained configuration is applied again: In service on a match of the seal; otherwise it stays Out, with a record
(R22, R241, R419). -/
def State.returnField (s : State) (f : Fin 4) : State :=
  let bad := s.sup.confErr.getLsbD f.val || s.retainedSeal f != s.host.sealAct
  let s := s.updSup fun u => { u with reapply := u.reapply &&& ~~~(1#4 <<< f.val) }
  if bad then s.log 12 1 (some f) f.val (nw (2 ^ f.val)) 0
  else if s.sup.custErr.getLsbD f.val then s
  else ((((s.firstReturn).applyField f).toService f).reclaim f).wakeWaiting f

/-- RETAINED_CONFIG_APPLY (R419). -/
def execRetainedConfigApply (f : Fin 4) (s : State) : Out :=
  .next (
    if s.supAlive ∧ !s.inFallow ∧ s.fields[f].st = .out ∧ s.sup.reapply.getLsbD f.val then s.returnField f else s)

/-! The pass-through of Fallow mode (R423, R424) -/

/-- FALLOW_PASS_THROUGH_START (R423): the set is loaded into Field 0, F0.E00 leaves reset, the drills start by one CLEAN. -/
def execFallowPassThroughStart (s : State) : Out :=
  .next (
    match s.seed.fallowSet with
    | some (x :: l) =>
      if !s.inFallow ∨ !s.supAlive ∨ s.sup.passThrough ∨ s.fields[(0 : Fin 4)].st ≠ .out then s
      else
        let ds : BitVec 16 := le16 x.body 6
        let of (ty : Nat) : List Item := l.filter fun y => y.ty == ty
        let idle (F : Field) : Field :=
          ((allFin 16).filter fun d => ds.getLsbD d.val).foldl (fun F d => F.idlePads d) (F.defaultPads s.padHiZ)
        let s := s.updField 0 fun F =>
          idle
            { F with
              queueTab := (of 0x0010).map Item.body, pinTab := (of 0x0020).map Item.body, prog := progOf (of 0x0021), progErr := []
              drills := vmap (fun d D => if ds.getLsbD d.val then drillOf s.almanac.rate (of 0x0022) d else D) F.drills
              pinsLive := true, padHold := false }
        let s := s.updEngine 0 fun E => { E with resetHeld := false, st := .awake }
        let s := s.updSup fun u => { u with passThrough := true }
        match (allFin 16).find? fun d => ds.getLsbD d.val with
        | some d => s.dctl 0 d 3 ds ds
        | none => s
    | _ => s)

/-- Samples of a packet's payload with CTRL, as drill words: L16 or L24, big-endian (R183, R422, R423). -/
def passWords (b data : List Byte) : List Word :=
  let n := if byteAt b 1 = 0 then 2 else 3
  let l := data.drop (le16 b 4).toNat
  (List.range (l.length / n)).map fun i =>
    let x := byteAt l (n * i)
    let y := byteAt l (n * i + 1)
    let z := if n = 2 then 0 else byteAt l (n * i + 2)
    (x ++ y ++ z ++ byteAt b 3 : BitVec 32)

/-- Sample periods that the pass-through buffers: 2 ms at 48 kHz (R423; log 37, DEDUCED). -/
def passPeriods : Nat := 96

/-- FALLOW_PASS_THROUGH_PACKET (R423): whole sample periods join the buffer of each drill, as far as it has room. -/
def execFallowPassThroughPacket (data : List Byte) (s : State) : Out :=
  .next (
    match s.seed.fallowSet with
    | some (x :: _) =>
      if !s.sup.passThrough then s
      else
        let c := (byteAt x.body 2).toNat
        let w := passWords x.body data
        let w := w.take (w.length / c * c)
        let ds : BitVec 16 := le16 x.body 6
        s.updField 0 fun F =>
          { F with drills := vmap (fun d D =>
              if ds.getLsbD d.val then { D with feed := (D.feed ++ w).take (passPeriods * c) } else D) F.drills }
    | _ => s)

end Sys2Proof.Machine
end

