-- ==== Sys2Proof/Machine/HostRegs.lean ====
section
/-! DEFINITION. The host register window: what each register reads as, the guard, the indirect pairs, interrupt conditions and messages
(R28, R29, R359, R372, R373, R375-R381, R386-R401, R447-R465). -/

namespace Sys2Proof.Machine

/-! Global registers (R379, R380) -/

/-- RST_INFO (R379, R412). -/
def State.rstInfo (s : State) : Word := s.island.coldResets ++ 0#9 ++ s.island.failedStarts ++ s.island.cause

/-- MODE (R379). -/
def State.modeReg (s : State) : Word :=
  ((bit 1 s.dbg.session.isSome ++ bit 1 s.sup.started ++ bit 1 s.sup.committed ++ bit 1 s.inFallow ++ bit 1 s.dbgAuth ++
    bit 1 s.sealed : BitVec 6)).setWidth 32

/-- FLD_STATE (R379). -/
def State.fldState (s : State) : Word :=
  (s.fields[(3 : Fin 4)].st.code ++ s.fields[(2 : Fin 4)].st.code ++ s.fields[(1 : Fin 4)].st.code ++
    s.fields[(0 : Fin 4)].st.code : BitVec 12).setWidth 32

/-- ERR_STAT (R380, R381): each bit is 1 exactly while its cause holds. -/
def State.errStat (s : State) : Word :=
  let ring := (allFin 16).any fun m => s.mailboxes[m].ringErr || s.mailboxes[m].ringFault
  let stuck := (allFin 96).any fun g => s.engines[g].st == .stuck
  (bit 1 ring ++ bit 1 (decide (768 ≤ s.ledger.fill)) ++ bit 1 s.almanac.ahead ++ bit 1 stuck ++ bit 1 (s.pins.clkFault != 0) ++
    s.host.sealFail : BitVec 10).setWidth 32

/-- The error output IRQ_O[21] and the ERR condition (R398, R399). -/
def State.errCond (s : State) : Bool := s.errStat &&& s.host.errEn != 0

/-- A register of the global page (R379). -/
def State.globalRead (s : State) (off : Nat) : Word :=
  match off with
  | 0x000 => 0x01010096#32
  | 0x004 => bits Config.devId 0 32
  | 0x008 => bits Config.devId 32 32
  | 0x00C => s.sup.build.setWidth 32
  | 0x010 => (s.pins.strapRaw ++ s.pins.strapCode : BitVec 10).setWidth 32
  | 0x014 => s.modeReg
  | 0x018 => s.fldState
  | 0x01C => s.pins.clkFault.setWidth 32
  | 0x020 => s.errStat
  | 0x024 => s.ledger.seqReg
  | 0x028 => nw s.ledger.fill
  | 0x02C => s.rstInfo
  | _ => 0

/-! The guard (R386-R388) -/

/-- Nanoseconds that an unlock lasts (R386). -/
def unlockNs : Nat := 1000000

/-- Whether a requester holds an unlock (R386). -/
def State.unlocked (s : State) (rid : Rid) : Bool := s.host.unlocks.any fun e => e.1 == rid && decide (s.since e.2 < unlockNs)

/-- The unlocks without those of a requester. -/
def dropUnlock (l : List (Rid × DWord)) (rid : Rid) : List (Rid × DWord) := l.filter fun e => e.1 != rid

/-- A write of an RG register (R7, R386): it takes effect for a requester that holds an unlock, and it ends the unlock. -/
def State.guardedWrite (s : State) (rid : Rid) (off : Nat) (h : State → State) : State :=
  if s.unlocked rid then h (s.updHost fun H => { H with unlocks := dropUnlock H.unlocks rid })
  else s.log 11 2 none 0 (nw off) (rid.setWidth 32)

/-- A write of GUARD_KEY (R386): the right key unlocks, and displaces the oldest of 16 others; any other is a bad key. -/
def State.writeKey (s : State) (rid : Rid) (v : Word) : State :=
  let live := (dropUnlock s.host.unlocks rid).filter fun e => decide (s.since e.2 < unlockNs)
  if v = 0x0000C5A9 then
    if live.length < 16 then s.updHost fun H => { H with unlocks := live ++ [(rid, s.now)] }
    else (s.updHost fun H => { H with unlocks := live.drop 1 ++ [(rid, s.now)] }).log 11 3 none 0 0x1000 (rid.setWidth 32)
  else
    (s.updHost fun H => { H with unlocks := live, badKeys := if H.badKeys = 255 then 255 else H.badKeys + 1 }).log 11 1 none 0 0x1000
      (rid.setWidth 32)

/-- GUARD_KEY_WRITE (R386). -/
def execGuardKeyWrite (rid : Rid) (v : Word) (s : State) : Out := .next (s.writeKey rid v)

/-- GUARD_UNLOCK_EXPIRY (R386): 1 ms after the key write. -/
def execGuardUnlockExpiry (rid : Rid) (s : State) : Out :=
  .next (if s.unlocked rid then s else s.updHost fun H => { H with unlocks := dropUnlock H.unlocks rid })

/-- A write of SW_RESET (R388). -/
def State.writeReset (s : State) (rid : Rid) (v : Word) : State :=
  s.guardedWrite rid 0x1010 fun s =>
    match fieldN v 0 2 with
    | 1 => s.assertWarm 3
    | 2 => s.assertCold 3
    | _ => s

/-- SW_RESET_WARM (R388). -/
def execSwResetWarm (rid : Rid) (s : State) : Out := .next (s.writeReset rid 1)

/-- SW_RESET_COLD (R388). -/
def execSwResetCold (rid : Rid) (s : State) : Out := .next (s.writeReset rid 2)

/-- A register of the guard page as read (R388). -/
def State.guardRead (s : State) (rid : Rid) (off : Nat) : Word :=
  if off = 0x004 then (s.host.badKeys ++ 0#7 ++ bit 1 (s.unlocked rid) : BitVec 16).setWidth 32 else 0

/-! The seal page (R391) -/

/-- A write of SEAL_REF (R391). -/
def State.writeSealRef (s : State) (rid : Rid) (v : Word) : State :=
  s.guardedWrite rid 0x2000 fun s =>
    if s.sealedCommitted then s.log 11 4 none 0 0x2000 (rid.setWidth 32) else s.updHost fun H => { H with sealRef := v }

/-- SEAL_REF_WRITE (R391). -/
def execSealRefWrite (rid : Rid) (v : Word) (s : State) : Out := .next (s.writeSealRef rid v)

/-- SEAL_PASS.MATCH (R391); 0 before the first commit, as its Reset value says. -/
def State.sealMatch (s : State) : Bool := s.sup.firstCommit && s.host.sealLast == s.host.sealAct

/-- A register of the seal page as read (R391). -/
def State.sealRead (s : State) (off : Nat) : Word :=
  let H := s.host
  match off with
  | 0x000 => H.sealRef
  | 0x004 => H.sealAct
  | 0x008 => H.sealLast
  | 0x00C => (bit 1 s.sealMatch ++ H.sealPasses : BitVec 17).setWidth 32
  | _ =>
    if 0x010 ≤ off ∧ off < 0x024 then H.sealParts.toList.getD ((off - 0x010) / 4) 0
    else if 0x030 ≤ off ∧ off < 0x044 then H.sealActParts.toList.getD ((off - 0x030) / 4) 0
    else 0

/-! Watchdog registers (R372, R373) and the Almanac host view (R359) -/

/-- WDx_CTL. -/
def Watchdog.ctl (w : Watchdog) : Word := (bit 1 w.freeze ++ bit 1 w.en ++ w.period : BitVec 18).setWidth 32
/-- WDS_STAT and WDFn_STAT: REMAIN is the whole milliseconds left. -/
def Watchdog.stat (w : Watchdog) : Word :=
  (bit 1 w.en ++ bit 1 w.frozen ++ BitVec.ofNat 16 (w.remain / almPerMs) : BitVec 18).setWidth 32

/-- TB_STAT (R359). -/
def State.tbStat (s : State) : Word :=
  let A := s.almanac
  (bit 1 A.loss ++ bit 1 A.ahead ++ bit 1 A.hold ++ bit 1 (s.pins.clkFault.getLsbD 8) ++ bit 1 A.pps ++ bit 1 A.lf ++
    bit 1 A.locked : BitVec 7).setWidth 32

/-- A register of the Almanac host view; TB_LO samples for the requester (R359, R401). -/
def State.almRead (s : State) (rid : Rid) (off : Nat) : Word × State :=
  match off with
  | 0x000 =>
    (bits s.now 0 32, if s.isPeek rid then s
      else s.updAlm fun A => { A with tbSample := (rid, A.tb) :: A.tbSample.filter fun e => e.1 ≠ rid })
  | 0x004 => (bits (tbSampleOf s.almanac.tbSample rid) 32 32, s)
  | 0x008 => (s.tbStat, s)
  | 0x00C => (s.almanac.rate, s)
  | 0x010 => (s.almanac.wds.stat, s)
  | 0x014 => (s.almanac.wdf[(0 : Fin 4)].stat, s)
  | 0x018 => (s.almanac.wdf[(1 : Fin 4)].stat, s)
  | 0x01C => (s.almanac.wdf[(2 : Fin 4)].stat, s)
  | 0x020 => (s.almanac.wdf[(3 : Fin 4)].stat, s)
  | _ => (0, s)

/-! Field windows (R29, R400) -/

/-- BANK_OWN (R250). -/
def Bank.ownWord (B : Bank) : Word :=
  let st : BitVec 3 := match B.st with
    | .free => 0
    | .owned => 1
    | .handover => 2
    | .harrow => 3
    | .retired => 4
  (BitVec.ofNat 4 B.remap.length ++ BitVec.ofNat 7 B.stripe.val ++ bit 1 B.lease ++ bit 1 B.shared ++ BitVec.ofNat 5 B.target.val ++
    BitVec.ofNat 5 B.owner.val ++ st : BitVec 26).setWidth 32

/-- Codes of ENG_STAT.STATE (R400). -/
def EngSt.code : EngSt → BitVec 3
  | .awake => 0
  | .doze => 1
  | .halted => 2
  | .stuck => 3
  | .retired => 4

/-- ENG_STAT (R400). -/
def State.engStat (s : State) (g : Fin 96) : Word :=
  (BitVec.ofNat 10 s.engines[g].load ++ BitVec.ofNat 6 (s.residents g).length ++ s.engines[g].st.code : BitVec 19).setWidth 32

/-- A register of a Field window. -/
def State.fieldWindow (s : State) (f : Fin 4) (off : Nat) : Word :=
  if 0x010 ≤ off ∧ off < 0x020 then s.csVer f ((off - 0x010) / 4)
  else if 0x100 ≤ off ∧ off < 0x180 then s.fields[f].banks[(⟨(off - 0x100) / 4 % 32, by omega⟩ : Fin 32)].ownWord
  else if 0x200 ≤ off ∧ off < 0x260 then s.engStat (globalOf f ⟨(off - 0x200) / 4 % 24, by omega⟩)
  else 0

/-- Whether a Field's window and its indirect registers follow R29: the Field is Off or Resetting. -/
def State.fieldGone (s : State) (f : Fin 4) : Bool := s.fields[f].st == .off || s.fields[f].st == .resetting

/-! Interrupts (R397-R399) -/

/-- FLD_CHG of a Field. -/
def State.fldChg (s : State) : Word :=
  s.fields[(3 : Fin 4)].chg ++ s.fields[(2 : Fin 4)].chg ++ s.fields[(1 : Fin 4)].chg ++ s.fields[(0 : Fin 4)].chg

/-- The Field condition. -/
def State.fieldCond (s : State) (f : Fin 4) : Bool := s.fields[f].chg != bits s.host.fldAck (8 * f.val) 8

/-- The ALM condition: a host-owned timer among AT00-AT27 whose EVCNT differs from its byte of ALM_ACKi. -/
def State.almCond (s : State) : Bool :=
  (allFin 28).any fun n =>
    let t := s.almanac.timers[n.val]
    t.owner == some none && t.evcnt != bits (s.host.almAck.toList.getD (n.val / 4) 0) (8 * (n.val % 4)) 8

/-- Condition of source i of IRQ_STAT. -/
def State.irqCond (s : State) (i : Fin 22) : Bool :=
  match toFin? 16 i.val with
  | some m => s.mailboxes[m].irq
  | none =>
    match toFin? 4 (i.val - 16) with
    | some f => s.fieldCond f
    | none => if i.val = 20 then s.almCond else s.errCond

/-- Level of IRQ_O[i]: its condition with EN 1 and MSG 0; IRQ_O[21] follows the ERR condition whatever IRQ_ROUTE21 holds (R399). -/
def State.irqOut (s : State) (i : Fin 22) : Bool :=
  if i.val = 21 then s.errCond else fieldN s.host.route[i] 0 2 == 1 && s.irqCond i

/-- IRQ_STAT (R397). -/
def State.irqStat (s : State) : Word :=
  (allFin 22).foldl (fun (w : Word) (i : Fin 22) => if s.irqCond i then w ||| (1#32 <<< i.val) else w) 0

/-- A register of the interrupt page as read (R397). -/
def State.irqRead (s : State) (off : Nat) : Word :=
  let H := s.host
  match off with
  | 0x000 => s.irqStat
  | 0x004 => H.errEn
  | 0x010 => s.fldChg
  | 0x014 => H.fldAck
  | _ =>
    if 0x020 ≤ off ∧ off < 0x03C then H.almAck.toList.getD ((off - 0x020) / 4) 0
    else
      match toFin? 22 ((off - 0x100) / 16) with
      | some i =>
        if off < 0x100 then 0
        else
          match off % 16 with
          | 0 => H.route[i]
          | 4 => bits H.msgAddr[i] 0 32
          | 8 => bits H.msgAddr[i] 32 32
          | _ => H.msgData[i]
      | none => 0

/-- FLD_ACK_WRITE (R397, R399). -/
def State.writeFldAck (s : State) (v : Word) : State :=
  let s := s.updHost fun H => { H with fldAck := v }
  (allFin 4).foldl (fun (s : State) (f : Fin 4) => s.acked ⟨16 + f.val, by omega⟩ (s.fieldCond f)) s

/-- FLD_ACK_WRITE (R397, R399). -/
def execFldAckWrite (_rid : Rid) (v : Word) (s : State) : Out := .next (s.writeFldAck v)

/-- A write of ALM_ACKi (R397, R399). -/
def State.writeAlmAck (s : State) (i : Fin 7) (v : Word) : State :=
  let s := s.updHost fun H => { H with almAck := H.almAck.set i v }
  s.acked 20 s.almCond

/-- ALM_ACK_WRITE (R397, R399). -/
def execAlmAckWrite (_rid : Rid) (i : Fin 7) (v : Word) (s : State) : Out := .next (s.writeAlmAck i v)

/-- RG registers of the interrupt page (R397). -/
def State.irqPut (s : State) (off : Nat) (v : Word) : State :=
  s.updHost fun H =>
    if off = 0x004 then { H with errEn := v &&& 0x3FF#32 }
    else
      match toFin? 22 ((off - 0x100) / 16) with
      | some i =>
        match off % 16 with
        | 0 => { H with route := H.route.set i (v &&& 3#32) }
        | 4 => { H with msgAddr := H.msgAddr.set i (bits H.msgAddr[i] 32 32 ++ (v &&& 0xFFFFFFFC#32)) }
        | 8 => { H with msgAddr := H.msgAddr.set i (v ++ bits H.msgAddr[i] 0 32) }
        | _ => { H with msgData := H.msgData.set i v }
      | none => H

/-- A write of the interrupt page (R397). -/
def State.irqWrite (s : State) (rid : Rid) (off : Nat) (v : Word) : State :=
  if off = 0x014 then s.writeFldAck v
  else if 0x020 ≤ off ∧ off < 0x03C then s.writeAlmAck ⟨(off - 0x020) / 4 % 7, by omega⟩ v
  else if off = 0x004 ∨ (0x100 ≤ off ∧ off < 0x260) then s.guardedWrite rid (0x20000 + off) fun s => s.irqPut off v
  else s

/-- Whether a message of a source is due (R399): its condition has become true, an acknowledgement left it true, or, for ERR, a further
enabled bit is 1. -/
def State.messageIsDue (s : State) (i : Fin 22) : Bool :=
  let H := s.host
  let more := i.val == 21 && (s.errStat &&& H.errEn &&& ~~~H.errSeen) != 0
  fieldN H.route[i] 0 2 == 3 && s.irqCond i && !H.msgFlight[i] && (!H.msgHeld[i] || H.msgDue[i] || more)

/-- What the message logic keeps of a source whose condition does not hold, and of ERR bits that have cleared (log 41, DEDUCED). -/
def State.lookAt (s : State) (i : Fin 22) : State :=
  s.updHost fun H =>
    let H := if s.irqCond i then H else { H with msgHeld := H.msgHeld.set i false, msgDue := H.msgDue.set i false }
    if i.val = 21 then { H with errSeen := H.errSeen &&& s.errStat &&& H.errEn } else H

/-- INTERRUPT_MESSAGE_WRITE (R399): a 4-byte write through Field 0's fabric port; it waits while the port cannot take it. -/
def execInterruptMessageWrite (src : Fin 22) (s : State) : Out :=
  .next (
    let s := s.lookAt src
    if !s.messageIsDue src ∨ s.fieldGone 0 ∨ !s.fabRuns then s
    else
      match s.issueTxn 0 supIds true s.host.msgAddr[src] 4 (bytes32 s.host.msgData[src]) (.message src) with
      | none => s
      | some (_, t) =>
        t.updHost fun H =>
          { H with
            msgFlight := H.msgFlight.set src true, msgHeld := H.msgHeld.set src true, msgDue := H.msgDue.set src false
            errSeen := if src.val = 21 then s.errStat &&& H.errEn else H.errSeen })

/-! Indirect pairs (R394-R396) -/

/-- Ranges of the indirect address space: first and last word (R396). -/
def idxRanges : List (Nat × Nat) :=
  [(0x000000, 0x000000), (0x010000, 0x017FFC), (0x018000, 0x01FFFC), (0x020000, 0x0203FC), (0x020400, 0x020404),
    (0x020500, 0x020510), (0x020600, 0x02060C)] ++
    (List.range 4).flatMap fun n => [(0x030000 + 0x4000 * n, 0x0301FC + 0x4000 * n), (0x031000 + 0x4000 * n, 0x031FFC + 0x4000 * n)]

/-- The address after an access with AINC; past the end of its range it wraps to the start (R395). -/
def idxNext (a : Nat) : Nat :=
  match idxRanges.find? fun r => decide (r.1 ≤ a ∧ a ≤ r.2) with
  | some r => if r.2 < a + 4 then r.1 else a + 4
  | none => (a + 4) % 0x1000000

/-- Facts of the Seed store's public half, for its layout (log 11, DESIGN CHOICE). -/
def Seed.facts (d : Seed) : List Nat :=
  d.retiredEngines.map Fin.val ++ d.retiredBanks ++ d.remaps.flatMap (fun e => [e.1, e.2.1, e.2.2]) ++
    (d.custKey.getD []).map BitVec.toNat ++ (d.dbgKey.getD []).map BitVec.toNat

/-- Drill registers and program memory of a Field at an indirect address (R396). -/
def State.idxDrill (s : State) (f : Fin 4) (o : Nat) : Option Word :=
  if s.fieldGone f then none
  else if o < 0x200 then some (s.drillWord f ⟨o / 32 % 16, by omega⟩ (o % 32))
  else if 0x1000 ≤ o ∧ o < 0x2000 then some (mapGet 0 ((o - 0x1000) / 4) s.fields[f].prog)
  else none

/-- A read of an indirect word (R396); none is a refusal. `peek` reads without side effects (R401). -/
def State.riRead (s : State) (p : Fin 4) (a : Nat) (peek : Bool) : Option (Word × State) :=
  let A := s.almanac
  let plain (v : Word) : Option (Word × State) := some (v, s)
  if a = 0 then plain s.rstInfo
  else if 0x010000 ≤ a ∧ a < 0x018000 then plain (Config.seedWord s.seed.facts (a - 0x010000))
  else if 0x020000 ≤ a ∧ a < 0x020400 then
    let n : Fin 32 := ⟨(a - 0x020000) / 32 % 32, by omega⟩
    let o := a % 32
    let acts := !peek && (o != 0x10 || A.timers[n].owner == some none)
    some (timerWord A.timers n o, if acts then s.updAlm fun A => { A with timers := timerRead A.timers n o } else s)
  else if 0x020400 ≤ a ∧ a ≤ 0x020404 then plain 0
  else if a = 0x020500 then plain A.wds.ctl
  else if 0x020504 ≤ a ∧ a ≤ 0x020510 then plain A.wdf[(⟨(a - 0x020504) / 4 % 4, by omega⟩ : Fin 4)].ctl
  else if a = 0x020600 then
    some (bits A.inc 0 32, if peek then s else s.updAlm fun A => { A with incSample := A.incSample.set p A.inc })
  else if a = 0x020604 then plain (bits A.ppsCap 0 32)
  else if a = 0x020608 then plain (bits A.ppsCap 32 32)
  else if a = 0x02060C then plain ((bits A.incSample[p] 32 8 : BitVec 8).setWidth 32)
  else if 0x030000 ≤ a ∧ a < 0x040000 then
    (s.idxDrill ⟨(a - 0x030000) / 0x4000 % 4, by omega⟩ ((a - 0x030000) % 0x4000)).map fun v => (v, s)
  else none

/-- Why an indirect write is refused: 0 it is not, 1 a timer that the host does not own, 2 any other reason (R360, R395). -/
def State.riRefuses (s : State) (a : Nat) : Nat :=
  if 0x020000 ≤ a ∧ a < 0x020400 then
    let n : Fin 32 := ⟨(a - 0x020000) / 32 % 32, by omega⟩
    if s.almanac.timers[n].owner ≠ some none then 1 else if a % 32 < 0x10 then 0 else 2
  else if a = 0x020400 ∨ a = 0x020404 then 0
  else 2

/-- An indirect write completes in its domain (R360, R363, R396). -/
def State.riWrite (s : State) (rid : Rid) (a : Nat) (v : Word) : State :=
  if a = 0x020400 then s.almMask (.host rid) v Timer.start
  else if a = 0x020404 then s.almMask (.host rid) v Timer.stop
  else if 0x020000 ≤ a ∧ a < 0x020400 then
    let n : Fin 32 := ⟨(a - 0x020000) / 32 % 32, by omega⟩
    if s.almanac.timers[n].owner = some none then s.writeTimer n (a % 32) v else s
  else s

/-- Word address of a pair, and AINC. -/
def idxAddrOf (w : Word) : Nat := fieldN w 2 22 * 4

/-- The pair's address after an access (R395). -/
def State.idxStep (s : State) (p : Fin 4) : State :=
  let w := s.host.idxAddr[p]
  if w.getLsbD 24 then
    s.updHost fun H => { H with idxAddr := H.idxAddr.set p (insertBits w 0 (BitVec.ofNat 24 (idxNext (idxAddrOf w)))) }
  else s

/-- Window offset of IDX_DATA of a pair. -/
def idxOff (p : Fin 4) : Nat := 0x3004 + 0x10 * p.val

/-- A write in progress completes: BUSY clears (R395). -/
def State.idxFinish (s : State) (p : Fin 4) : State :=
  match s.host.idxWrite[p] with
  | none => s
  | some (a, v, rid) =>
    (s.riWrite rid a.toNat v).updHost fun H => { H with idxWrite := H.idxWrite.set p none, idxBusy := H.idxBusy.set p false }

/-- ERR of a pair set or cleared. -/
def State.idxErr (s : State) (p : Fin 4) (e : Bool) : State := s.updHost fun H => { H with idxErr := H.idxErr.set p e }

/-- A write of IDX_ADDR takes the pair (R395); it waits for a write in progress. -/
def State.writeIdxAddr (s : State) (rid : Rid) (p : Fin 4) (v : Word) : State :=
  (s.idxFinish p).updHost fun H => { H with idxAddr := H.idxAddr.set p (v &&& 0x01FFFFFC#32), idxHolder := H.idxHolder.set p (some rid) }

/-- A read of IDX_DATA (R395); a peek changes neither the address nor ERR (R401). -/
def State.readIdxData (s : State) (rid : Rid) (p : Fin 4) : Word × State :=
  let s := s.idxFinish p
  let refused (s : State) : State := s.log 11 5 none 0 (nw (idxOff p)) (rid.setWidth 32)
  let a := idxAddrOf s.host.idxAddr[p]
  let peek := s.isPeek rid
  let step (s : State) : State := if peek then s else s.idxStep p
  let err (e : Bool) (s : State) : State := if peek then s else s.idxErr p e
  if s.host.idxHolder[p] ≠ some rid then (0, refused (step s))
  else
    match s.riRead p a peek with
    | none => (0, refused (err true (step s)))
    | some (v, t) => (v, err false (step t))

/-- A write of IDX_DATA (R360, R395). -/
def State.writeIdxData (s : State) (rid : Rid) (p : Fin 4) (v : Word) : State :=
  let s := s.idxFinish p
  let a := idxAddrOf s.host.idxAddr[p]
  let t := s.idxStep p
  if s.host.idxHolder[p] ≠ some rid then t.log 11 5 none 0 (nw (idxOff p)) (rid.setWidth 32)
  else
    match s.riRefuses a with
    | 0 =>
      (t.idxErr p false).updHost fun H =>
        { H with idxWrite := H.idxWrite.set p (some (BitVec.ofNat 24 a, v, rid)), idxBusy := H.idxBusy.set p true }
    | 1 => (t.idxErr p true).log 8 1 none ((a - 0x020000) / 32) v (rid.setWidth 32)
    | _ => (t.idxErr p true).log 11 5 none 0 (nw (idxOff p)) (rid.setWidth 32)

/-- IDX_STAT (R394). -/
def State.idxStat (s : State) (rid : Rid) (p : Fin 4) : Word :=
  (bit 1 s.host.idxErr[p] ++ bit 1 (s.host.idxHolder[p] == some rid) ++ bit 1 s.host.idxBusy[p] : BitVec 3).setWidth 32

/-- The host read response (R375): a value, or none for an error response. -/
def State.respond (s : State) (v : Option Word) : State := s.updHost fun H => { H with resp := v }

/-- IDX_ADDR_WRITE (R395). -/
def execIdxAddrWrite (rid : Rid) (p : Fin 4) (v : Word) (s : State) : Out := .next (s.writeIdxAddr rid p v)

/-- IDX_DATA_READ (R395). -/
def execIdxDataRead (rid : Rid) (p : Fin 4) (s : State) : Out :=
  .next ((s.readIdxData rid p).2.respond (some (s.readIdxData rid p).1))

/-- IDX_DATA_WRITE (R395). -/
def execIdxDataWrite (rid : Rid) (p : Fin 4) (v : Word) (s : State) : Out := .next (s.writeIdxData rid p v)

/-- IDX_WRITE_COMPLETION (R395). -/
def execIdxWriteCompletion (p : Fin 4) (s : State) : Out := .next (s.idxFinish p)

/-! The debug-only space (R447-R465) -/

/-- DBG_ACCESS (R451). -/
def State.dbgAccess (s : State) : Word :=
  (bit 1 s.debugTrace ++ bit 1 (s.debugWrite.getLsbD 4) ++ bit 1 (s.debugRead.getLsbD 4) ++ bits s.debugWrite 0 4 ++
    bits s.debugRead 0 4 : BitVec 11).setWidth 32

/-- ERC_STAT of an engine and of the supervisor (R453). -/
def State.ercStat (s : State) (t : RunTarget) : Word :=
  let c := s.ctlOf t
  let (st, fid) : BitVec 3 × BitVec 12 :=
    match t with
    | .engine g => (s.engines[g].st.code, if s.engines[g].st = .halted then BitVec.ofNat 12 (s.onEngine g) else 0xFFF)
    | .sup => (if s.sup.halted then 2 else 0, 0xFFF)
  (bit 1 c.err ++ fid ++ c.cause ++ bit 1 c.pend ++ st : BitVec 22).setWidth 32

/-- ERC_OPT (R453). -/
def RunCtl.optWord (c : RunCtl) : Word := (bit 1 c.stepInt ++ bit 1 c.brkHalt : BitVec 2).setWidth 32

/-- A register of a run-control page (R453). -/
def State.ctlRead (s : State) (t : RunTarget) (off : Nat) : Word × State :=
  match off with
  | 0x004 => (s.ercStat t, s)
  | 0x008 => ((s.ctlOf t).optWord, s)
  | 0x010 => ((s.ctlOf t).rsel.setWidth 32, s)
  | 0x014 =>
    match t with
    | .engine g => s.ercRead g
    | .sup => (0, s)
  | _ => (0, s)

/-- A break or watch unit's register (R458). -/
def BwUnit.word (b : BwUnit) (off : Nat) : Word :=
  match off with
  | 0x00 => b.ctl
  | 0x04 => b.eng
  | 0x08 => b.lo
  | 0x0C => b.hi
  | 0x10 => (bit 1 b.armed ++ b.hits : BitVec 9).setWidth 32
  | _ => 0

/-- Registers of the control, provisioning, master and trace pages (R451, R452, R461, R465). -/
def State.debugPage (s : State) (off : Nat) : Word :=
  let d := s.dbg
  match off with
  | 0x80000 => 0x00010096
  | 0x80004 => s.dbgAccess
  | 0x80008 => (bit 1 d.xhalt ++ bit 1 d.peek : BitVec 2).setWidth 32
  | 0x8000C => d.freeze
  | 0x81000 => d.provSel
  | 0x81008 =>
    (bit 1 d.provErr ++ bit 1 s.seed.pulse ++ bit 1 s.seed.dbgKey.isSome ++ bit 1 s.seed.custKey.isSome : BitVec 4).setWidth 32
  | 0x83000 => d.dmmCtl
  | 0x83004 => d.dmmAddr
  | 0x8300C => (bit 1 d.dmmRefused ++ bit 1 d.dmmUncorr ++ bit 1 d.dmmCorr ++ 0#1 : BitVec 4).setWidth 32
  | 0x84000 => d.trcCtl
  | 0x84004 => d.trcFid
  | 0x84008 => d.trcLostFull ++ d.trcLostPwr
  | _ =>
    if 0x81040 ≤ off ∧ off < 0x810A0 then d.provData.toList.getD ((off - 0x81040) / 4) 0
    else if 0x83010 ≤ off ∧ off < 0x83024 then d.dmmData.toList.getD ((off - 0x83010) / 4) 0
    else 0

/-- A read of the debug-only space by the debug port; outside the port's read scope it returns 0 (R448). -/
def State.debugSpaceRead (s : State) (off : Nat) : Word × State :=
  if 0x90000 ≤ off ∧ off < 0xF0000 then
    let g : Fin 96 := ⟨(off - 0x90000) / 0x1000 % 96, by omega⟩
    if s.debugRead.getLsbD (fieldOf g).val then s.ctlRead (.engine g) (off % 0x1000) else (0, s)
  else if 0x88000 ≤ off ∧ off < 0x8C000 then
    let f : Fin 4 := ⟨(off - 0x88000) / 0x1000 % 4, by omega⟩
    if s.debugRead.getLsbD f.val && off % 0x1000 < 0x100 then
      (s.fields[f].units[(⟨off % 0x1000 / 32 % 8, by omega⟩ : Fin 8)].word (off % 32), s)
    else (0, s)
  else if 0x82000 ≤ off ∧ off < 0x83000 then
    if s.debugRead.getLsbD 4 then s.ctlRead .sup (off % 0x1000) else (0, s)
  else (s.debugPage off, s)

/-! Any register (R7, R29, R375-R377) -/

/-- Whether an access has the size and alignment that the port takes (R375). -/
def accessOk (addr : BitVec 20) (size : Nat) : Bool := size == 4 && bits addr 0 2 == (0 : BitVec 2)

/-- Mailbox of an offset in the mailbox pages. -/
def pageOf (off : Nat) : Fin 16 := ⟨(off - 0x10000) / 0x1000 % 16, by omega⟩

/-- A read of the window by a requester (R376, R377). -/
def State.windowRead (s : State) (rid : Rid) (off : Nat) : Word × State :=
  if off < 0x1000 then (s.globalRead off, s)
  else if off < 0x2000 then (s.guardRead rid (off - 0x1000), s)
  else if off < 0x3000 then (s.sealRead (off - 0x2000), s)
  else if off < 0x3040 then
    let p : Fin 4 := ⟨(off - 0x3000) / 16 % 4, by omega⟩
    match off % 16 with
    | 0 => (s.host.idxAddr[p], s)
    | 4 => s.readIdxData rid p
    | 8 => (s.idxStat rid p, s)
    | _ => (0, s)
  else if 0x4000 ≤ off ∧ off < 0x8000 then s.almRead rid (off - 0x4000)
  else if 0x10000 ≤ off ∧ off < 0x20000 then (s.mbRead (pageOf off) (off % 0x1000), s)
  else if 0x20000 ≤ off ∧ off < 0x21000 then (s.irqRead (off - 0x20000), s)
  else if 0x40000 ≤ off ∧ off < 0x80000 then
    let f : Fin 4 := ⟨(off - 0x40000) / 0x10000 % 4, by omega⟩
    if s.fieldGone f then (0, s.log 11 6 (some f) 0 (nw off) (rid.setWidth 32))
    else if rid == debugRid && !s.debugRead.getLsbD f.val then (0, s)
    else (s.fieldWindow f (off % 0x10000), s)
  else if 0x80000 ≤ off then
    if rid = debugRid then s.debugSpaceRead off else (0, s.log 11 7 none 0 (nw off) (rid.setWidth 32))
  else (0, s)

/-- Whether a requester reaches the window: the debug port does not while DBG_CLK is at fault (R28; log 73, DESIGN CHOICE). -/
def State.reaches (s : State) (rid : Rid) : Bool := !(rid == debugRid && s.pins.clkFault.getLsbD 9)

/-- REGISTER_READ (R28, R29, R375-R377). -/
def execRegisterRead (rid : Rid) (addr : BitVec 20) (size : Nat) (s : State) : Out :=
  .next (
    if accessOk addr size ∧ s.reaches rid then
      (s.windowRead rid addr.toNat).2.respond (some (s.windowRead rid addr.toNat).1)
    else s.respond none)

end Sys2Proof.Machine
end

