-- ==== Sys2Proof/Machine/RegWrites.lean ====
section
/-! DEFINITION. Writes of the host register window that have no row of their own (R7, R376, R377, R447-R465). -/

namespace Sys2Proof.Machine

/-- The state that a meaning answers. -/
def Out.state (o : Out) (s : State) : State :=
  match o with
  | .next t => t
  | _ => s

/-- A write of a run-control page (R453). -/
def State.ctlWrite (s : State) (t : RunTarget) (off : Nat) (v : Word) : State :=
  match off with
  | 0x000 =>
    match fieldN v 0 2 with
    | 1 => Out.state (execHalt t s) s
    | 2 => Out.state (execRun t s) s
    | 3 => Out.state (execStep t s) s
    | _ => s
  | 0x008 => s.updCtl t fun c => { c with brkHalt := v.getLsbD 0, stepInt := v.getLsbD 1 }
  | 0x010 => s.updCtl t fun c => { c with rsel := bits v 0 8 }
  | 0x014 => Out.state (execErcRdataWrite t v s) s
  | _ => s

/-- A write of DBG_RESET (R451). -/
def State.debugReset (s : State) (v : Word) : State :=
  let n := fieldN v 3 7
  match fieldN v 0 3 with
  | 1 => match toFin? 96 n with
    | some g => Out.state (execDebugResetEngine g s) s
    | none => s
  | 2 => match toFin? 4 n with
    | some f => Out.state (execDebugResetField f s) s
    | none => s
  | 3 => Out.state (execDebugResetWarm s) s
  | 4 => Out.state (execDebugResetCold s) s
  | _ => s

/-- A unit's register written (R458). -/
def State.unitWrite (s : State) (f : Fin 4) (u : Fin 8) (off : Nat) (v : Word) : State :=
  let put (h : BwUnit → BwUnit) : State := s.updField f fun F => { F with units := vupd F.units u h }
  match off with
  | 0x00 => Out.state (execBwCtlWrite f u v s) s
  | 0x04 => put fun b => { b with eng := v &&& 0x00FFFFFF#32 }
  | 0x08 => put fun b => { b with lo := v }
  | 0x0C => put fun b => { b with hi := v }
  | _ => s

/-- TRC_CTL takes a value; where EN sets, every traced source emits a SYNC (R465, R467). -/
def State.setTrace (s : State) (v : Word) : State :=
  let old := s.dbg.trcCtl
  let s := s.updDbg fun d => { d with trcCtl := v }
  if old.getLsbD 0 || !v.getLsbD 0 then s
  else
    let s := (allFin 96).foldl (fun (s : State) (g : Fin 96) =>
      match s.engines[g].cur with
      | some fid => s.emitSync g fid (s.ctxOn g)
      | none => s) s
    if v.getLsbD 1 then s.emitSupSync else s

/-- A write of the debug-only space by the debug port (R448, R450-R465). -/
def State.debugSpaceWrite (s : State) (off : Nat) (v : Word) : State :=
  match off with
  | 0x80008 => s.updDbg fun d => { d with peek := v.getLsbD 0, xhalt := v.getLsbD 1 }
  | 0x8000C => Out.state (execDbgFreezeWrite v s) s
  | 0x80010 => s.debugReset v
  | 0x81000 => s.updDbg fun d => { d with provSel := v &&& 1#32 }
  | 0x81004 => Out.state (execProvCmd v s) s
  | 0x83000 => s.updDbg fun d => { d with dmmCtl := v &&& 0x001FFFFF#32 }
  | 0x83004 => s.updDbg fun d => { d with dmmAddr := v &&& 0x007FFFFF#32 }
  | 0x83008 =>
    match fieldN v 0 2 with
    | 1 => Out.state (execDmmRead s) s
    | 2 => Out.state (execDmmWrite s) s
    | _ => s
  | 0x84000 => if s.debugTrace then s.setTrace (v &&& 0x7FF#32) else s.debugRefused off
  | 0x84004 => if s.debugTrace then s.updDbg fun d => { d with trcFid := v &&& 0x1FFF#32 } else s.debugRefused off
  | _ =>
    if 0x81040 ≤ off ∧ off < 0x810A0 then
      s.updDbg fun d => { d with provData := d.provData.setIfInBounds ((off - 0x81040) / 4) v }
    else if 0x83010 ≤ off ∧ off < 0x83024 then
      s.updDbg fun d => { d with dmmData := d.dmmData.setIfInBounds ((off - 0x83010) / 4) v }
    else if 0x82000 ≤ off ∧ off < 0x83000 then s.ctlWrite .sup (off % 0x1000) v
    else if 0x88000 ≤ off ∧ off < 0x8C000 ∧ off % 0x1000 < 0x100 then
      s.unitWrite ⟨(off - 0x88000) / 0x1000 % 4, by omega⟩ ⟨off % 0x1000 / 32 % 8, by omega⟩ (off % 32) v
    else if 0x90000 ≤ off ∧ off < 0xF0000 then s.ctlWrite (.engine ⟨(off - 0x90000) / 0x1000 % 96, by omega⟩) (off % 0x1000) v
    else s

/-- A write of the window by a requester (R7, R29, R376, R377): RO and reserved words ignore it. -/
def State.windowWrite (s : State) (rid : Rid) (off : Nat) (v : Word) : State :=
  if off = 0x1000 then s.writeKey rid v
  else if off = 0x1010 then s.writeReset rid v
  else if off = 0x2000 then s.writeSealRef rid v
  else if 0x3000 ≤ off ∧ off < 0x3040 then
    let p : Fin 4 := ⟨(off - 0x3000) / 16 % 4, by omega⟩
    match off % 16 with
    | 0 => s.writeIdxAddr rid p v
    | 4 => s.writeIdxData rid p v
    | _ => s
  else if 0x10000 ≤ off ∧ off < 0x20000 then s.mbWrite rid (pageOf off) (off % 0x1000) v
  else if 0x20000 ≤ off ∧ off < 0x21000 then s.irqWrite rid (off - 0x20000) v
  else if 0x40000 ≤ off ∧ off < 0x80000 then
    let f : Fin 4 := ⟨(off - 0x40000) / 0x10000 % 4, by omega⟩
    if s.fieldGone f then s.log 11 6 (some f) 0 (nw off) (rid.setWidth 32) else s
  else if 0x80000 ≤ off then
    if rid = debugRid then s.debugSpaceWrite off v else s.log 11 7 none 0 (nw off) (rid.setWidth 32)
  else s

/-- REGISTER_WRITE (R7, R28, R375). A write of a wrong size or alignment gets an error response and writes nothing, as does one of the debug
port while DBG_CLK is at fault. -/
def execRegisterWrite (rid : Rid) (addr : BitVec 20) (size : Nat) (v : Word) (s : State) : Out :=
  .next (if accessOk addr size ∧ s.reaches rid then s.windowWrite rid addr.toNat v else s.respond none)

end Sys2Proof.Machine
end

