-- ==== Sys2Proof/Machine/Identity.lean ====
section
/-! DEFINITION. Jipeas commands of identity, images, telemetry, events, mailboxes, resets and the completion of commands (R40, R45, R50,
R53, R59-R63, R65, R239-R241, R382, R434, R435, R441, R470, R485). -/

namespace Sys2Proof.Machine

/-! Identity (R53, R420, R441) -/

/-- IDENTIFY (R53, R420). -/
def execIdentify (mb : Fin 16) (k : BitVec 16) (s : State) : Out :=
  .next (
    match s.cmd? mb k 0x0101 with
    | none => s
    | some _ =>
      let w : Word :=
        (bit 1 s.sup.passThrough ++ BitVec.ofNat 4 s.sup.fallow ++ 0#1 ++ bit 1 s.sup.firstCommit ++ bit 1 s.inFallow ++
          bit 1 s.sealed ++ s.pins.strapCode : BitVec 13).setWidth 32
      s.finish mb k eOk [bits Config.devId 0 32, bits Config.devId 32 32, w, s.sup.build.setWidth 32])

/-- CS_VER words of every Field; zeros for one that is Off or Resetting (R29, R242, R441). -/
def State.verWords (s : State) : List Word :=
  (allFin 4).flatMap fun f => (List.range 4).map fun w => if s.fieldGone f then 0 else s.csVer f w

/-- VERSIONS (R53; log 20, DESIGN CHOICE). -/
def execVersions (mb : Fin 16) (k : BitVec 16) (resp : BitVec 3) (s : State) : Out :=
  .next (
    match s.cmd? mb k 0x0102 with
    | none => s
    | some c =>
      let facts := [s.sup.build.toNat, s.sup.digest.toNat] ++ s.verWords.map BitVec.toNat
      s.answer mb c resp (bytesAt (Config.versionsImage facts) 0 64) [])

/-- CERT_READ (R53, R436): a chain of at most 4 KiB. -/
def execCertRead (mb : Fin 16) (k : BitVec 16) (resp : BitVec 3) (s : State) : Out :=
  .next (
    match s.cmd? mb k 0x0103 with
    | none => s
    | some c =>
      let l := Config.certChain.take 4096
      s.answer mb c resp l [nw l.length])

/-- Bytes 0-527 of the measurement report (R441). -/
def State.reportBody (s : State) (c : ActiveCmd) : List Byte :=
  let mode : BitVec 6 := bits s.modeReg 0 6
  let st : Word :=
    (bit 1 s.sup.passThrough ++ s.pins.strapCode ++ BitVec.ofNat 4 s.sup.fallow ++ 0#2 ++ mode : BitVec 17).setWidth 32
  let build : BitVec 16 := if s.inFallow then Config.romVersion else s.sup.build
  let seq : Word := bit 1 s.sealMatch ++ bits s.ledger.seqReg 0 31
  bytes32 0x0096AE01 ++ bytes16 1 ++ bytes16 624 ++ bytes64 Config.devId ++ bytesOf (c.args.toList.take 8) ++ bytes64 s.now ++
    bytes32 s.rstInfo ++ bytes32 st ++ bytes16 build ++ bytes16 s.seed.floor ++ bytes32 s.host.sealAct ++ bytes32 s.host.sealLast ++
    bytes32 seq ++ s.sup.meas.toList.flatMap digestBytes ++ bytesOf s.verWords

/-- ATTEST (R441): the report with the DeviceID key's signature. -/
def execAttest (mb : Fin 16) (k : BitVec 16) (resp : BitVec 3) (s : State) : Out :=
  .next (
    match s.cmd? mb k 0x0104 with
    | none => s
    | some c =>
      let l := s.reportBody c
      s.answer mb c resp (l ++ bytesAt (Config.reportSign l) 0 96) [624])

/-! Customer microcode (R55, R239-R241) -/

/-- Expected fixed bytes of an image header, with their offsets: MAGIC, FORMAT, KIND and byte 7 (R239, R434). -/
def headerBytes (kind : Byte) : List (Nat × Byte) :=
  [(0, 0x01), (1, 0xAC), (2, 0x96), (3, 0x00), (4, 0x01), (5, 0x00), (6, kind), (7, 0x00)]

/-- Counts of a customer image. -/
def custWords (l : List Byte) : Nat := (le16 l 14).toNat
def custOps (l : List Byte) : Nat := (byteAt l 16).toNat
/-- Offsets of its word and opcode records. -/
def wordRec (i : Nat) : Nat := 32 + 20 * i
def opRec (l : List Byte) (i : Nat) : Nat := 32 + 20 * custWords l + 4 * i

/-- Values of a customer image with the offset each failure reports, in rising order (R239, R240). -/
def custRanges (l : List Byte) : List (Nat × Bool) :=
  (headerBytes 0).map (fun e => (e.1, byteAt l e.1 == e.2)) ++
    [(8, le16 l 8 != 0), (14, decide (1 ≤ custWords l ∧ custWords l ≤ 1024)), (16, decide (1 ≤ custOps l ∧ custOps l ≤ 32))] ++
    [17, 18, 19].map (fun o => (o, byteAt l o == 0)) ++
    [(20, (le32 l 20).toNat == 32 + 20 * custWords l + 4 * custOps l + 100)] ++
    (List.range 8).map (fun i => (24 + i, byteAt l (24 + i) == 0)) ++
    (List.range (custOps l)).map fun i => (opRec l i + 1, byteAt l (opRec l i + 1) == 0)

/-- A microword of a word record: bits [7:0] first (R239). -/
def recWord (l : List Byte) (o : Nat) : BitVec 144 := (le16 l (o + 18) ++ le64 l (o + 10) ++ le64 l (o + 2) : BitVec 144)

/-- Address and word of every word record; offsets of records that break a rule of R240, order 6. -/
def custStore (l : List Byte) : List (Nat × BitVec 144) :=
  (List.range (custWords l)).map fun i => ((le16 l (wordRec i)).toNat, recWord l (wordRec i))
def badWords (l : List Byte) : List Nat :=
  let a (i : Nat) : Nat := (le16 l (wordRec i)).toNat
  ((List.range (custWords l)).filter fun i =>
    !(decide (0x1C00 ≤ a i ∧ a i < 0x2000) && MWord.customerOk (recWord l (wordRec i))) ||
      (List.range i).any fun j => a j == a i).map wordRec

/-- Opcode and dispatch entry of every opcode record; offsets of records that break a rule of R240, order 7. -/
def custDisp (l : List Byte) : List (Nat × BitVec 16) :=
  (List.range (custOps l)).map fun i => ((byteAt l (opRec l i)).toNat, le16 l (opRec l i + 2))
def badOps (l : List Byte) : List Nat :=
  let o (i : Nat) : Nat := (byteAt l (opRec l i)).toNat
  let e (i : Nat) : BitVec 16 := le16 l (opRec l i + 2)
  ((List.range (custOps l)).filter fun i =>
    !(decide (0xE0 ≤ o i) && (e i).getLsbD 15 && (e i).getLsbD 14 && (custStore l).any fun w => w.1 == fieldN (e i) 0 13) ||
      (List.range i).any fun j => o j == o i).map (opRec l)

/-- Digest of an image of n bytes: bytes 0 up to and including CRC (R239, R434). -/
def imageDigest (l : List Byte) (n : Nat) : BitVec 384 := Config.sha384 (bytesAt l 0 (n - 96))

/-- Whether an image of n bytes carries its CRC. -/
def imageCrcOk (l : List Byte) (n : Nat) : Bool := crc32cOf (bytesAt l 0 (n - 100)) == le32 l (n - 100)

/-- The first failing check of a customer image after its availability (R240), with RESULT0. An image whose LENGTH the buffer does not
hold has no CRC to check: its first bad byte up to LENGTH is reported (log 42, DEDUCED). -/
def State.custError (s : State) (l : List Byte) (bufLen : Nat) : Option (Nat × Word) :=
  let n := (le32 l 20).toNat
  if n < 132 ∨ bufLen < n then
    match (custRanges l).find? fun r => !r.2 && decide (r.1 < 20) with
    | some r => some (eArg, nw r.1)
    | none => some (eArg, 20)
  else if !imageCrcOk l n then some (eBufCrc, 0)
  else
    match (custRanges l).find? fun r => !r.2 with
    | some r => some (eArg, nw r.1)
    | none =>
      let signed := match s.seed.custKey with
        | some q => Config.ecdsaVerify q (imageDigest l n) (bytesAt l (n - 96) 96)
        | none => false
      if !signed then some (eSignature, 0)
      else if s.sup.vbuild.toNat < (le16 l 10).toNat ∨ (le16 l 12).toNat < s.sup.vbuild.toNat then some (eState, 0)
      else
        match badWords l, badOps l with
        | o :: _, _ => some (eArg, nw o)
        | [], o :: _ => some (eArg, nw o)
        | [], [] => none

/-- The customer image that a buffer holds. -/
def custOf (l : List Byte) : Customer :=
  let n := (le32 l 20).toNat
  { words := (custStore l).foldl (fun m e => mapPut e.1 (some e.2) m) [], disp := (custDisp l).foldl (fun m e => mapPut e.1 (some e.2) m) []
    build := le16 l 8, present := true, digest := imageDigest l n, crc := le32 l (n - 100) }

/-- The engines of a Field when a customer image is applied (R218, R241): a retired or dozing one is skipped and holds what it held until it
leaves engine reset; in every other, the words of the customer region are new. -/
def State.applyImage (s : State) (f : Fin 4) : State :=
  (fieldEngines f).foldl (fun (s : State) (g : Fin 96) =>
    let old := s.custOf g
    s.updEngine g fun E =>
      if E.st = .retired ∨ E.st = .doze then { E with custOld := some old }
      else { E with custOld := none, csErr := E.csErr.filter fun e => decide (e.1 < 7168) }) s

/-- A customer image loaded into the Fields of a mask (R241, R416): measured, written, read back, kept. After a failed readback no image
counts as loaded (log 43, DEDUCED). -/
def State.loadImage (s : State) (mask : BitVec 4) (C : Customer) (readback : Bool) : State :=
  let s := s.updSup fun u => { u with custErr := u.custErr &&& ~~~mask }
  (allFin 4).foldl (fun (s : State) (f : Fin 4) =>
    if mask.getLsbD f.val then
      let s := (s.extend (measOf f) C.digest).applyImage f
      if readback then s.updField f fun F => { F with cust := C, keptCust := some C }
      else (s.updField f fun F => { F with cust := Customer.none, keptCust := none }).log 10 1 (some f) f.val 0 0
    else s) s

/-- IMAGE_LOAD_CUSTOMER_MICROCODE (R55, R240, R241). -/
def execImageLoadCustomerMicrocode (mb : Fin 16) (k : BitVec 16) (buf : Reply) (readback : Bool) (s : State) : Out :=
  .next (
    match s.cmd? mb k 0x0501 with
    | none => s
    | some c =>
      let mask : BitVec 4 := bits c.args[1] 0 4
      if c.args[0] = 1 then s
      else if c.args[0] ≠ 0 ∨ mask = 0 then s.finish mb k eArg []
      else if s.sessionError mb mask ≠ eOk then s.finish mb k (s.sessionError mb mask) []
      else if (allFin 4).any fun f => mask.getLsbD f.val && s.fieldHeld (some (mb, k)) f.val then s.finish mb k eObjectBusy []
      else if (allFin 4).any fun f => mask.getLsbD f.val && s.fields[f].st != .out then s.finish mb k eState []
      else
        let s := s.readBuf mb c
        match buf with
        | .bad _ => s.finish mb k eBuf []
        | .ok l =>
          let l := bytesAt l 0 c.bufLen
          match s.custError l c.bufLen with
          | some e => s.finish mb k e.1 [e.2]
          | none =>
            let C := custOf l
            let t := s.loadImage mask C readback
            if readback then t.finish mb k eOk [le32 (digestBytes C.digest) 0] else t.finish mb k eHw [])

/-! Supervisor firmware (R60, R434, R435) -/

/-- The first failing check of a supervisor firmware image (R435), with RESULT0; an image whose LENGTH the buffer does not hold is too long
for it (log 42, DEDUCED). -/
def State.fwError (s : State) (l : List Byte) (bufLen : Nat) : Option (Nat × Word) :=
  let n := (le32 l 20).toNat
  if n < 132 ∨ bufLen < n then some (eArg, nw n)
  else if !imageCrcOk l n then some (eBufCrc, 0)
  else if !fwHeaderOk l then some (eArg, 0)
  else if !fwSigned l then some (eSignature, 0)
  else if (le16 l 8).toNat < s.seed.floor.toNat then some (eState, 0)
  else none

/-- The image in the slot that is not ACTIVE: pending with its digest and build (R415); the failed starts are forgotten (R412). -/
def State.putImage (s : State) (l : List Byte) : State :=
  let slot := !s.seed.active
  let s := s.updSeed fun d =>
    { d with
      pending := some slot, slotDigest := d.slotDigest.set (slotIx slot) (fwDigest l), slotBuild := d.slotBuild.set (slotIx slot) (le16 l 8)
      slotValid := d.slotValid.set (slotIx slot) true }
  { s with island := { s.island with failedStarts := 0 } }

/-- IMAGE_LOAD_SUPERVISOR_FIRMWARE (R60, R435). -/
def execImageLoadSupervisorFirmware (mb : Fin 16) (k : BitVec 16) (buf : Reply) (readback : Bool) (s : State) : Out :=
  .next (
    match s.cmd? mb k 0x0501 with
    | none => s
    | some c =>
      if c.args[0] = 0 then s
      else if c.args[0] ≠ 1 then s.finish mb k eArg []
      else
        let s := s.readBuf mb c
        match buf with
        | .bad _ => s.finish mb k eBuf []
        | .ok l =>
          let l := bytesAt l 0 c.bufLen
          match s.fwError l c.bufLen with
          | some e => s.finish mb k e.1 [e.2]
          | none =>
            if readback then (s.putImage l).finish mb k eOk [le32 (digestBytes (fwDigest l)) 0] else s.finish mb k eHw [])

/-- What stands for a target of IMAGE_QUERY: CS_VER words, or the running image and the boot record (R59, R415). -/
def State.imageFacts (s : State) (target : Nat) : List Nat :=
  if target = 0 then s.verWords.map BitVec.toNat
  else
    let flag (b : Option Bool) : Nat := match b with
      | none => 0
      | some false => 1
      | some true => 2
    [s.sup.build.toNat, s.sup.digest.toNat, flag s.seed.trial, flag s.seed.pending, flag (some s.seed.active), s.seed.floor.toNat] ++
      s.seed.slotBuild.toList.map BitVec.toNat ++ s.seed.slotDigest.toList.map BitVec.toNat

/-- IMAGE_QUERY (R59; log 21, DESIGN CHOICE). -/
def execImageQuery (mb : Fin 16) (k : BitVec 16) (s : State) : Out :=
  .next (
    match s.cmd? mb k 0x0502 with
    | none => s
    | some c =>
      let n := c.args[0].toNat
      if 2 ≤ n then s.finish mb k eArg []
      else s.finish mb k eOk ((List.range 4).map fun r => Config.imageAnswer r n (s.imageFacts n)))

/-! Telemetry (R61, R382, R470, R485) -/

/-- A record's 32 bytes (R383). -/
def LedgerRec.image (r : LedgerRec) : List Byte :=
  let l := bytes32 r.seq ++ bytes64 r.time ++ [BitVec.ofNat 8 r.source, r.item.field, r.item.lost, 0] ++ bytes16 r.item.event ++
    bytes16 r.item.obj ++ bytes32 r.item.arg1 ++ bytes32 r.item.arg2
  l ++ bytes32 (crc32cOf l)

/-- Records from a sequence number on that a buffer holds. -/
def Ledger.from (L : Ledger) (first : Word) (n : Nat) : List LedgerRec :=
  (L.ring.filter fun r => decide (0 ≤ (r.seq - first).toInt)).take n

/-- Sequence number after the records written, and the oldest one held (R61). -/
def Ledger.nextOf (L : Ledger) (l : List LedgerRec) : Word := match l.getLast? with
  | some r => r.seq + 1
  | none => L.nextSeq
def Ledger.oldest (L : Ledger) : Word := match L.ring.head? with
  | some r => r.seq
  | none => L.nextSeq

/-- LEDGER_READ (R61, R382). -/
def execLedgerRead (mb : Fin 16) (k : BitVec 16) (resp : BitVec 3) (s : State) : Out :=
  .next (
    match s.cmd? mb k 0x0601 with
    | none => s
    | some c =>
      let n := c.bufLen / 32
      let l := s.ledger.from c.args[0] n
      let t := s.answer mb c resp (l.flatMap LedgerRec.image) [nw l.length, s.ledger.nextOf l, s.ledger.oldest]
      if n = 0 then s.finish mb k eArg [32]
      else if resp ≠ 0 then t
      else { t with ledger := { t.ledger with fill := 0 } }.updSup fun u => { u with ledgerMark := false })

/-- STATUS_READ (R61; log 20, DESIGN CHOICE). -/
def execStatusRead (mb : Fin 16) (k : BitVec 16) (resp : BitVec 3) (s : State) : Out :=
  .next (
    match s.cmd? mb k 0x0701 with
    | none => s
    | some c =>
      let facts := ((allFin 4).map fun f => s.fields[f].st.code.toNat) ++ ((allFin 96).map fun g => s.engines[g].st.code.toNat) ++
        [s.sower.activePlan]
      s.answer mb c resp (bytesAt (Config.statusImage facts) 0 256) [])

/-- TALLY_READ (R470). -/
def execTallyRead (mb : Fin 16) (k : BitVec 16) (resp : BitVec 3) (s : State) : Out :=
  .next (
    match s.cmd? mb k 0x0702 with
    | none => s
    | some c =>
      let g := c.args[0].toNat
      if (groupSize g).isNone then s.finish mb k eArg []
      else
        let l := s.snapshot g 0
        let t := s.answer mb c resp l [nw l.length]
        if g = 8 ∧ l.length ≤ c.bufLen ∧ resp = 0 then t.restPeaks else t)

/-- Engines of a Field that are awake. -/
def State.awakeIn (s : State) (f : Fin 4) : Nat := ((fieldEngines f).filter fun g => s.engines[g].st == .awake).length

/-- POWER_READ (R61, R485; log 23, DESIGN CHOICE). -/
def execPowerRead (mb : Fin 16) (k : BitVec 16) (s : State) : Out :=
  .next (
    match s.cmd? mb k 0x0703 with
    | none => s
    | some _ => s.finish mb k eOk ((allFin 4).map fun f => Config.powerEstimate (s.awakeIn f) (s.rateOf f)))

/-! EVENT_WAIT (R62) -/

/-- EVENT_WAIT (R62): it waits for the first event of its mask from now on. -/
def execEventWait (mb : Fin 16) (k : BitVec 16) (s : State) : Out :=
  .next (
    match s.cmd? mb k 0x0605 with
    | none => s
    | some _ => s.start mb k)

/-- EVENT_WAIT_COMPLETION (R62). -/
def execEventWaitCompletion (mb : Fin 16) (k : BitVec 16) (s : State) : Out :=
  .next (
    match s.cmd? mb k 0x0605 with
    | none => s
    | some c =>
      match c.hit with
      | some (ev, f, seq) => s.finish mb k eOk [nw ev, nw f, seq]
      | none => s)

/-- EVENT_WAIT_TIMEOUT (R62): ARG1 milliseconds have passed without an event; 0 never ends. -/
def execEventWaitTimeout (mb : Fin 16) (k : BitVec 16) (s : State) : Out :=
  .next (
    match s.cmd? mb k 0x0605 with
    | none => s
    | some c =>
      if c.started ∧ c.hit = none ∧ c.args[1] ≠ 0 ∧ c.args[1].toNat * 1000000 ≤ s.since c.since then s.finish mb k eExpired [] else s)

/-! Mailboxes (R43-R45, R63) -/

/-- MAILBOX_GRANT (R43, R63): ARG1 [8:1] and ARG2 take the place of the rights; IDENT stays. -/
def execMailboxGrant (mb : Fin 16) (k : BitVec 16) (s : State) : Out :=
  .next (
    match s.cmd? mb k 0x0801 with
    | none => s
    | some c =>
      match toFin? 16 c.args[0].toNat with
      | none => s.finish mb k eArg []
      | some t =>
        if t = 0 then s.finish mb k eArg []
        else
          let r : BitVec 20 := (bits c.args[2] 0 4 : BitVec 4) ++ 0#7 ++ (bits c.args[1] 1 8 : BitVec 8) ++ 1#1
          (s.updMailbox t fun M => { M with rights := r }).finish mb k eOk [])

/-- Whether a mailbox has commands in execution that were fetched before its CMD_HEAD stood at n. -/
def Mailbox.busyBefore (M : Mailbox) (n : Nat) : Bool :=
  M.active.any fun c => decide (0 < (BitVec.ofNat 16 n - c.k).toNat ∧ (BitVec.ofNat 16 n - c.k).toNat < 32768)

/-- What a revoke leaves of a mailbox once its commands have completed (R45). -/
def State.revoke (s : State) (t : Fin 16) : State :=
  let s := (s.updMailbox t fun M => { M with rights := 0x3 }).dropSession t
  let s : State := { s with furrows := updWhere (fun F => F.owner == t) (fun F => { F with owner := 0 }) s.furrows }
  s.log 1 3 none t.val 0 0

/-- MAILBOX_REVOKE (R45): the target's EVENT_WAITs end; the command completes once the others in execution have. -/
def execMailboxRevoke (mb : Fin 16) (k : BitVec 16) (s : State) : Out :=
  .next (
    match s.cmd? mb k 0x0802 with
    | none => s
    | some c =>
      match toFin? 16 c.args[0].toNat with
      | none => s.finish mb k eArg []
      | some t =>
        if t = 0 then s.finish mb k eArg []
        else
          let head := if c.started then c.num else s.mailboxes[t].cmdHead.toNat
          let s := if c.started then s else ((s.endWaits t).start mb k).updCmd mb k fun c => { c with num := head }
          if s.mailboxes[t].busyBefore head then s else (s.revoke t).finish mb k eOk [])

/-! RESET (R65) -/

/-- RESET_COLD_COMMAND (R65): the reset starts when the record's write has its response. -/
def execResetColdCommand (mb : Fin 16) (k : BitVec 16) (s : State) : Out :=
  .next (
    match s.cmd? mb k 0x0808 with
    | none => s
    | some c =>
      if 3 ≤ c.args[0].toNat then s.finish mb k eArg []
      else if c.args[0] = 0 then s.finish mb k eOk [] (some true)
      else s)

/-- RESET_WARM_COMMAND (R65). -/
def execResetWarmCommand (mb : Fin 16) (k : BitVec 16) (s : State) : Out :=
  .next (
    match s.cmd? mb k 0x0808 with
    | none => s
    | some c =>
      if 3 ≤ c.args[0].toNat then s.finish mb k eArg []
      else if c.args[0] = 1 then s.finish mb k eOk [] (some false)
      else s)

/-- RESET_FIELD_COMMAND (R65, R402): cause 0x4; it completes when the Field reaches Out. -/
def execResetFieldCommand (mb : Fin 16) (k : BitVec 16) (s : State) : Out :=
  .next (
    match s.cmd? mb k 0x0808 with
    | none => s
    | some c =>
      if 3 ≤ c.args[0].toNat then s.finish mb k eArg []
      else if c.args[0] ≠ 2 ∨ c.started then s
      else
        match toFin? 4 c.args[1].toNat with
        | none => s.finish mb k eArg []
        | some f =>
          if s.fieldHeld (some (mb, k)) f.val then s.finish mb k eObjectBusy []
          else if s.fieldGone f then s.finish mb k eState []
          else ((s.start mb k).updCmd mb k fun c => { c with effect := true }).fieldReset f 4)

/-! Completion and ring retries (R40, R50, R65) -/

/-- The record at the front has been written: CPL_TAIL advances; a cold or warm RESET starts (R36, R50, R65). -/
def State.recordWritten (s : State) (mb : Fin 16) (r : CplRecord) : State :=
  let s := s.updMailbox mb fun M =>
    Mailbox.settle
      { M with
        records := M.records.drop 1, recOut := recordImage M r, cplTail := M.cplTail + 1, pendAt := M.pendAt ++ [s.now]
        ringFault := false, retryWrite := false }
  match r.reset with
  | some true => s.assertCold 4
  | some false => s.assertWarm 4
  | none => s

/-- Whether the write of the mailbox's next record must wait for the port (R287). -/
def State.recordWaits (s : State) (mb : Fin 16) : Bool :=
  s.supBlocked true (s.mailboxes[mb].cplSlot s.mailboxes[mb].cplTail) 32

/-- The record at the front goes to its slot of the completion ring, with the fabric's answer; a fault is repeated later (R32, R39, R40,
R50). -/
def State.putRecordOut (s : State) (mb : Fin 16) (r : CplRecord) (resp : BitVec 3) : State :=
  let M := s.mailboxes[mb]
  let q := s.mbRequest mb true (M.cplSlot M.cplTail) (recordImage M r) 32
  let s := s.asks mb [q]
  if resp = 0 then s.recordWritten mb r else s.updMailbox mb fun M => { M with ringFault := true, retryWrite := true }

/-- COMPLETION_RECORD_WRITE (R40, R50): a faulted write is tried again under R40. -/
def execCompletionRecordWrite (mb : Fin 16) (resp : BitVec 3) (s : State) : Out :=
  .next (
    match s.mailboxes[mb].records with
    | [] => s
    | r :: _ =>
      if !s.supServes ∨ s.mailboxes[mb].retryWrite ∨ s.recordWaits mb then s else s.putRecordOut mb r resp)

/-- RING_ACCESS_RETRY (R40): the failed write or fetch again. -/
def execRingAccessRetry (mb : Fin 16) (r : Reply) (s : State) : Out :=
  .next (
    let M := s.mailboxes[mb]
    if !s.supServes then s
    else if M.retryWrite then
      match M.records with
      | q :: _ => if s.recordWaits mb then s else s.putRecordOut mb q (replyCode r)
      | [] => s
    else if M.retryFetch && M.fetchable && M.room && !s.fetchWaits mb then s.fetchDesc mb r
    else s)

end Sys2Proof.Machine
end

