-- ==== Sys2Proof/Machine/Judge.lean ====
section
/-! DEFINITION. The supervision firmware of a Field: estimates, judgement, changeover, pilot scale and posts (R335-R346). -/

namespace Sys2Proof.Machine

/-! Zone parameters (R338) -/

/-- Zone body of a zone, from whichever Field holds it. -/
def State.zoneBody (s : State) (zone : Nat) : Option (List Byte) := (allFin 4).findSome? fun f => s.zoneRec f zone

/-- The value, or a default for 0. -/
def orDefault (n d : Nat) : Nat := if n = 0 then d else n

/-- Parameters of a line from its zone's record. -/
structure LineCfg where
  aend : Nat
  tol : Nat
  confirm : Nat
  fp : Nat
  vline : Nat
  vfs : Nat
  ifs : Nat
  zref : Nat
  vbref : Nat
  deriving DecidableEq, Repr

def lineCfg (b : List Byte) (line : Nat) : LineCfg :=
  let o := 16 + 12 * line
  { aend := (le16 b o).toNat, tol := orDefault (byteAt b 5).toNat 20, confirm := orDefault (byteAt b 6).toNat 4
    fp := orDefault (byteAt b 7).toNat 215, vline := (le16 b 8).toNat, vfs := (le16 b 10).toNat, ifs := (le32 b 12).toNat
    zref := (le32 b (o + 4)).toNat, vbref := orDefault (le16 b (o + 8)).toNat 58982 }

/-! Sense words (R333) -/

def senseAlarm (w : Word) : Bool := w.getLsbD 0
def senseOver (w : Word) : Bool := w.getLsbD 1
def senseEarth (w : Word) : Bool := w.getLsbD 2
def senseDriving (w : Word) : Bool := w.getLsbD 3
def senseValid (w : Word) : Bool := w.getLsbD 7

/-- Sense words of a dwell (R335). -/
def dwellFrames : Nat := 480

/-- Whether the words of a dwell are all there, each with VALID and DRIVING as the end's DRIVE (R340). -/
def dwellOk (drive : Bool) (ws : List Word) : Bool :=
  decide (ws.length = dwellFrames) && ws.all fun w => senseValid w && senseDriving w == drive

/-- The observation of an end in a cycle. -/
def obsOf (obs : List EndObs) (n : Nat) : EndObs :=
  (obs.find? fun o => o.endNo == n).getD { endNo := n, v := [], i := [], b := [], programme := [] }

/-! Judgement (R341) -/

/-- One estimate, dwell or observation of a bit: it sets after `after` consecutive ones that meet its condition and clears after
`confirm` that fail it. -/
def EndSt.observe (e : EndSt) (bit : Fin 8) (met : Bool) (after confirm : Nat) : EndSt :=
  if met then
    { e with
      setCnt := e.setCnt.set bit (e.setCnt[bit] + 1), clrCnt := e.clrCnt.set bit 0
      faults := if after ≤ e.setCnt[bit] + 1 then insertBits e.faults bit.val 1#1 else e.faults }
  else
    { e with
      setCnt := e.setCnt.set bit 0, clrCnt := e.clrCnt.set bit (e.clrCnt[bit] + 1)
      faults := if confirm ≤ e.clrCnt[bit] + 1 then insertBits e.faults bit.val 0#1 else e.faults }

/-- BREAK: two dwells set it, and only RESTORE clears it. -/
def EndSt.observeBreak (e : EndSt) (met : Bool) : EndSt :=
  if met then
    { e with
      setCnt := e.setCnt.set 4 (e.setCnt[4] + 1)
      faults := if 2 ≤ e.setCnt[4] + 1 then insertBits e.faults 4 1#1 else e.faults }
  else { e with setCnt := e.setCnt.set 4 0 }

/-- Whether a dwell of an end shows the amplifier at fault. -/
def EndSt.ampFails (e : EndSt) (drive : Bool) (ws : List Word) : Bool :=
  ws.any senseAlarm || (decide (3 ≤ e.cycles) && ws.any fun w => senseValid w && senseDriving w != drive) || !ws.any senseValid ||
    decide (3 ≤ e.atLimit)

/-- The flags of one dwell of an end: EARTH and AMP. -/
def EndSt.flags (e : EndSt) (P : LineCfg) (drive : Bool) (ws : List Word) : EndSt :=
  (e.observe 5 (ws.any senseEarth) 2 P.confirm).observe 6 (e.ampFails drive ws) 2 P.confirm

/-- A whole number of percent nearest to 100 (z - ref) / ref, between -1,000 and 1,000 (R340). -/
def devOf (z ref : Nat) : Int :=
  let d := (200 * ((z : Int) - (ref : Int)) + (ref : Int)) / (2 * (ref : Int))
  max (-1000) (min 1000 d)

/-- The impedance bits of one estimate (R341). -/
def EndSt.impedance (e : EndSt) (P : LineCfg) (z : Nat) (low high : Bool) : EndSt :=
  let short := high || (P.zref != 0 && decide (10 * z < P.zref))
  let e := e.observe 1 short 1 P.confirm
  if P.zref = 0 then e
  else
    let isOpen := low || decide (10 * P.zref < z)
    let d := devOf z P.zref
    ((e.observe 0 isOpen P.confirm P.confirm).observe 2 (decide ((P.tol : Int) < d) && !isOpen) P.confirm P.confirm).observe 3
      (decide (d < -(P.tol : Int)) && !short) P.confirm P.confirm

/-- The pilot scale after a pilot estimate: at most 0.1 dB nearer to what the latest four ask for, within 6 dB (R345). -/
def EndSt.rescale (e : EndSt) (k : Nat) (vline : Nat) : EndSt :=
  let l := (k :: e.pilots).take 4
  let want := Config.pilotScale l vline
  let step : Int := if e.scale < want then e.scale + 1 else if want < e.scale then e.scale - 1 else e.scale
  let scale := max (-60) (min 60 step)
  let held := if scale = 60 ∨ scale = -60 then e.atLimit + 1 else 0
  { e with
    pilots := l, scale := scale, atLimit := held
    faults := if 3 ≤ held then insertBits e.faults 6 1#1 else e.faults }

/-- The gain of one estimate: the end, and the gain in 0.1 dB (R341, R345). -/
def EndSt.gainOf (e : EndSt) (P : LineCfg) (level : Nat) (o : EndObs) : EndSt × Int :=
  if Config.programmeLoud o.programme then
    let k := Config.gainProgramme o.v o.programme P.vfs
    (e.observe 7 (Config.gainBeyond k P.vline) P.confirm P.confirm, Config.gainDev k P.vline)
  else
    let k := Config.gainPilot o.v P.fp P.vfs level
    (e.rescale k P.vline, Config.gainDev k P.vline)

/-- FAULTS of a line (R341). -/
def LineSt.faults (l : LineSt) : BitVec 8 := l.a.faults ||| l.b.faults

/-- An end of a line: the B end or the A end. -/
def LineSt.endOf (l : LineSt) (isB : Bool) : EndSt := if isB then l.b else l.a
def LineSt.driveOf (l : LineSt) (isB : Bool) : Bool := if isB then l.bdrv else l.adrv
def LineSt.setEnd (l : LineSt) (isB : Bool) (e : EndSt) : LineSt := if isB then { l with b := e } else { l with a := e }

/-- DRIVE of both ends; a post is owed at a change, and a changed end counts its cycles anew (R341, R346). -/
def LineSt.drive (l : LineSt) (a b : Bool) : LineSt :=
  let changed (old new : Bool) (e : EndSt) : EndSt := if old = new then e else { e with cycles := 0 }
  { l with adrv := a, bdrv := b, a := changed l.adrv a l.a, b := changed l.bdrv b l.b, owed := l.owed || l.adrv != a || l.bdrv != b }

/-- Dwell 6 of an end (R340, R341, R345); `level` is the pilot's. -/
def LineSt.dwell6 (l : LineSt) (P : LineCfg) (level : Nat) (isB : Bool) (o : EndObs) : LineSt :=
  let ws := o.v ++ o.i
  let drive := l.driveOf isB
  let high := ws.any senseOver
  let e := (l.endOf isB).flags P drive ws
  if !drive then l.setEnd isB (e.observe 1 high 1 P.confirm)
  else if !dwellOk drive o.v || !dwellOk drive o.i then l.setEnd isB (if high then e.observe 1 true 1 P.confirm else e)
  else
    let z := Config.zmag o.v o.i P.fp P.vfs P.ifs
    let (e, gain) := (e.impedance P z (Config.lowCurrent o.i P.fp) high).gainOf P level o
    { l.setEnd isB e with
      zmag := nw z, dev := if P.zref = 0 then none else some (devOf z P.zref), gain := gain, seq := l.seq + 1, owed := true }

/-- The continuity dwell of a class-A line (R340, R341). -/
def LineSt.continuity (l : LineSt) (P : LineCfg) (level : Nat) (ws : List Word) : LineSt :=
  if !l.classA then l
  else
    let e := (l.b.flags P l.bdrv ws).observe 1 (ws.any senseOver) 1 P.confirm
    if !dwellOk l.bdrv ws then { l with b := if ws.any senseOver then e else l.b.flags P l.bdrv ws }
    else
      let v := Config.vbFrac ws P.fp P.vfs P.vline level
      { l with b := e.observeBreak (decide (4 * v < P.vbref)), vb := v / 16 }

/-- Changeover (R343): BREAK newly set, or AMP newly set on the A end, drives the B end as well. -/
def LineSt.changeover (old l : LineSt) : LineSt :=
  let newly (w v : BitVec 8) (bit : Nat) : Bool := v.getLsbD bit && !w.getLsbD bit
  if l.classA && (newly old.faults l.faults 4 || newly old.a.faults l.a.faults 6) then
    { l.drive true true with crossed := true, release := false }
  else l

/-- Whether a walk of the line's zone ends: BREAK, or AMP on the A end, has newly set (R352). -/
def LineSt.endsWalk (old l : LineSt) : Bool :=
  (l.faults.getLsbD 4 && !old.faults.getLsbD 4) || (l.a.faults.getLsbD 6 && !old.a.faults.getLsbD 6)

/-- A line that left W2: its B end listens again once the A end shows DRIVING (R351). -/
def LineSt.released (l : LineSt) (ws : List Word) : LineSt :=
  if l.release && ws.any fun w => senseValid w && senseDriving w then { l.drive true false with release := false } else l

/-- One supervision cycle of a line (R335, R340-R345): `sel` tells which ends its dwell 6 senses, and every B end has its continuity dwell. -/
def LineSt.cycle (l : LineSt) (P : LineCfg) (level : Nat) (sel : Nat → Bool) (obs : List EndObs) : LineSt :=
  let tick (e : EndSt) : EndSt := { e with cycles := min 3 (e.cycles + 1) }
  let a := obsOf obs P.aend
  let b := obsOf obs (P.aend + 1)
  let t := { l with a := tick l.a, b := tick l.b }
  let t := if sel P.aend then t.dwell6 P level false a else t
  let t := t.continuity P level b.b
  let t := if l.classA && sel (P.aend + 1) then t.dwell6 P level true b else t
  let t := (t.changeover l).released (a.v ++ a.i)
  if t.faults = l.faults then t else { t with owed := true }

/-! Posts (R346) -/

/-- The supervision furrow that runs in a Field. -/
def State.supervisor? (s : State) (f : Fin 4) : Option Furrow :=
  s.furrows.find? fun F => F.supervises && F.engine.map fieldOf == some f && (F.st == .running || F.st == .moving)

/-- The four words of a line's post, with the posting furrow. -/
def LineSt.post (l : LineSt) (walk : Bool) (fid : Nat) : List Word :=
  [bit 5 walk ++ bit 1 l.bdrv ++ bit 1 l.adrv ++ l.faults ++ 0#1 ++ BitVec.ofNat 3 l.line ++ BitVec.ofNat 12 l.zone |>.setWidth 32,
    l.zmag,
    BitVec.ofInt 16 l.gain ++ (match l.dev with
      | some d => BitVec.ofInt 16 d
      | none => 0x8000#16),
    l.seq ++ BitVec.ofNat 16 l.vb, nw fid]

/-- Whether a zone is in a walk step. -/
def State.inWalkStep (s : State) (zone : Nat) : Bool := s.sup.zones.any fun z => z.zone == zone && z.walking && !z.yielded

/-- A line's owed post, while the Field's status queue has room; otherwise the store stalls and the post stays owed. -/
def State.postOwed (s : State) (f : Fin 4) (fid : Nat) (l : LineSt) : State :=
  if s.fields[f].posts.length < 64 then
    (s.updField f fun F => { F with posts := F.posts ++ [l.post (s.inWalkStep l.zone) fid] }).updLines
      (fun m => m.zone == l.zone && m.line == l.line && m.field == f) fun m => { m with owed := false, posted := s.now }
  else s

/-- The Field status post of the rack alarm level (R346). -/
def rackWords (rack : Bool) (fid : Nat) : List Word := [0xFFF, (bit 1 rack).setWidth 32, 0, 0, nw fid]

/-- The rack alarm level is posted when it differs from the one posted last, as the status queue has room (R331, R346). -/
def State.postRack (s : State) (f : Fin 4) (fid : Nat) (rack : Bool) : State :=
  if s.fields[f].rackPosted = some rack ∨ 64 ≤ s.fields[f].posts.length then s
  else s.updField f fun F => { F with rackPosted := some rack, posts := F.posts ++ [rackWords rack fid] }

/-- Every owed post of a Field. -/
def State.flushPosts (s : State) (f : Fin 4) : State :=
  match s.supervisor? f with
  | none => s
  | some F => (s.sup.judged.filter fun l => l.field == f && l.owed).foldl (fun (s : State) (l : LineSt) => s.postOwed f F.id l) s

end Sys2Proof.Machine
end

