-- ==== Sys2Proof/Machine/Moves.lean ====
section
/-! DEFINITION. The Sower at work: live migration, retirement, rebalance, plan transitions, cold restarts (R57, R81-R84, R90-R101, R211,
R252, R266). -/

namespace Sys2Proof.Machine

/-- Whether the Sower acts on its own account in a Field: supervisor firmware runs, and its tables hold no error there (R428, R457). -/
def State.sowerActs (s : State) (f : Fin 4) : Bool := s.supAlive && !s.inFallow && !s.fields[f].stallSower

/-- The migration of a furrow. -/
def State.mig? (s : State) (fid : Nat) : Option Migration := s.sower.migs.find? fun m => m.fid == fid

/-- The migration of a furrow rewritten. -/
def State.updMig (s : State) (fid : Nat) (h : Migration → Migration) : State :=
  s.updSower fun W => { W with migs := updWhere (fun m => m.fid == fid) h W.migs }

/-- A migration of a furrow to an engine enters the sequencer (R84, R95). -/
def State.beginMove (s : State) (F : Furrow) (dst : Fin 96) (why : Nat) (cmd : Option (Fin 16 × BitVec 16)) : State :=
  match F.engine with
  | none => s
  | some src =>
    let m : Migration :=
      { fid := F.id, src := src, dst := dst, st := .prepare, was := F.st, aborts := 0, extents := [], handed := false, swapped := false
        rechosen := false, cmd := cmd, why := why, arrived := [] }
    s.updSower fun W => { W with migs := W.migs ++ [m] }

/-! What waits on furrows that leave (R20, R57, R92, R100) -/

/-- Commands in execution that satisfy p complete with OK and what r makes of them. -/
def State.finishOk (s : State) (p : ActiveCmd → Bool) (r : ActiveCmd → List Word) : State :=
  (allFin 16).foldl (fun (s : State) (m : Fin 16) =>
    (s.mailboxes[m].active.filter fun c => c.started && p c).foldl (fun (s : State) (c : ActiveCmd) => s.finish m c.k eOk (r c)) s) s

/-- A Draining Field without a furrow on its engines is Out: its queues are unbound, its bridge transfers end, and FIELD_DRAIN completes
(R14, R20, R57). -/
def State.drainDone (s : State) (f : Fin 4) : State :=
  if s.fields[f].st = .draining ∧ !(s.furrows.any fun F => (F.engine.map fieldOf) == some f) then
    (((s.setFieldSt f .out).bridgeAbort f).updField f fun F => { F with queueTab := [] }).finishOk (fun c => c.opcode == 0x0804 && c.args[0].toNat == f.val) fun c => [nw c.num]
  else s

/-- An engine that is to retire and holds no furrow any more: its clock goes off, the retirement map takes it, the record and the event
follow, ENGINE_RETIRE completes (R100, R385). -/
def State.retireDone (s : State) (g : Fin 96) : State :=
  match s.engines[g].retireDue with
  | none => s
  | some code =>
    if (s.residents g).isEmpty ∧ s.engines[g].st ≠ .retired then
      let s := s.updEngine g fun E => { E with st := .retired, retireDue := none, retiring := false, cur := none, order := [] }
      let s := s.updSeed fun d => if g ∈ d.retiredEngines then d else { d with retiredEngines := d.retiredEngines ++ [g] }
      let s := (s.releaseEmpty (fieldOf g)).log 2 3 (some (fieldOf g)) g.val (nw code.val) 0
      (s.raise 3 (fieldOf g).val).finishOk (fun c => c.opcode == 0x0806 && c.args[0].toNat == g.val) fun c => [nw c.num]
    else s

/-- A Field that a transition has emptied is reset with cause 0xE (R22, R402; log 38, DEDUCED). -/
def State.emptiedDone (s : State) (f : Fin 4) : State :=
  if f ∈ s.sower.resetAfter ∧ !(s.furrows.any fun F => (F.engine.map fieldOf) == some f) then
    (s.updSower fun W => { W with resetAfter := W.resetAfter.filter (· ≠ f) }).fieldResetAs f 0xE false
  else s

/-- What follows when a furrow has left an engine. -/
def State.left (s : State) (g : Fin 96) : State := ((s.retireDone g).drainDone (fieldOf g)).emptiedDone (fieldOf g)

/-- Furrows moved count for the drain or the retirement that moves them (R57). -/
def State.countMoved (s : State) (m : Migration) : State :=
  let mine (c : ActiveCmd) : Bool :=
    c.started && ((m.why == forDrain && c.opcode == 0x0804 && c.args[0].toNat == (fieldOf m.src).val) ||
      (m.why == forRetire && c.opcode == 0x0806 && c.args[0].toNat == m.src.val))
  (allFin 16).foldl (fun (s : State) (b : Fin 16) =>
    s.updMailbox b fun M => { M with active := updWhere mine (fun c => { c with num := c.num + 1 }) M.active }) s

/-! Migration (R95-R98) -/

/-- BANKS of the active plan's entry in Sealed mode (R89). -/
def State.banksMask (s : State) (fid : Nat) : Option Word :=
  if s.sealed then (s.planned s.sower.activePlan fid).map Prod.snd else none

/-- What a furrow needs on the target of its migration (R89, R95). -/
def State.migAlloc (s : State) (F : Furrow) (dst : Fin 96) : Option Alloc := s.moveAlloc F dst (s.banksMask F.id)

/-- Whether an engine can be the target of a migration. -/
def State.targetOk (s : State) (dst : Fin 96) : Bool := s.usable dst && s.fields[fieldOf dst].st == .inService

/-- Migrations of a retirement or a transition run at most 2 at a time per source Field (R93, R100). -/
def State.moveWaits (s : State) (m : Migration) : Bool :=
  let counted (n : Migration) : Bool := n.why == forPlan || n.why == forRetire
  counted m && decide (2 ≤ (s.sower.migs.filter fun n => counted n && n.st != .prepare && fieldOf n.src == fieldOf m.src).length)

/-- Whether a furrow's target has its context slots in use, but one that another migration is to free (R79, R93; log 70, DESIGN CHOICE). -/
def State.slotComes (s : State) (F : Furrow) (dst : Fin 96) : Bool :=
  s.sower.migs.any fun n => n.fid != F.id && n.src == dst && (n.st != .prepare || (s.furrow? n.fid).any fun H => s.slotFor H n.dst)

/-- Whether the rebalance may move a furrow to an engine: within its Field, or a small BULK furrow anywhere (R83). -/
def mayRebalance (F : Furrow) (g : Fin 96) : Bool :=
  some g != F.engine && (F.home == some (fieldOf g) || (F.desc.cls == 3 && decide (F.desc.workset ≤ 64)))

/-- Engines that a migration may take in place of its target, by what it is for (R57, R64, R83, R95, R266). -/
def State.mayReplace (s : State) (m : Migration) (F : Furrow) (g : Fin 96) : Bool :=
  g != m.src && g != m.dst &&
    (match m.why with
      | 0 => fieldOf g == fieldOf m.dst
      | 3 => fieldOf g != fieldOf m.src
      | 4 => mayRebalance F g
      | 5 => fieldOf m.dst == fieldOf m.src || fieldOf g != fieldOf m.src
      | 6 => mayRebalance F g && s.engines[g].st == .awake
      | _ => true)

/-- Whether a migration ends rather than breach the headroom: those of a drain and of the rebalance (R64, R83). -/
def keepsHeadroom (why : Nat) : Bool := why == forDrain || why == forBalance || why == forEmpty

/-- A migration that finds no target: the command fails; a furrow of a retiring engine is lost; otherwise it runs on (R95, R100). -/
def State.dropMove (s : State) (m : Migration) : State :=
  let s := match m.cmd with
    | some (mb, k) => s.finish mb k eNoResource []
    | none => s
  let s := s.endMig m.fid
  if m.why = forRetire then (s.loseFurrow m.fid 3 none).left m.src else s

/-- MIGRATION_PREPARE (R95): wake the target and reserve a slot and Plot on it; a target that cannot is replaced once in Rolling
mode. None starts from a halted engine (R455). -/
def execMigrationPrepare (fid : Nat) (s : State) : Out :=
  .next (
    match s.mig? fid, s.furrow? fid with
    | some m, some F =>
      if m.st ≠ .prepare ∨ s.fields[fieldOf m.src].stallSower ∨ s.fields[fieldOf m.dst].stallSower ∨ s.moveWaits m ∨
          s.engines[m.src].st = .halted then s
      else if !m.extents.isEmpty ∧ s.targetOk m.dst then s.updMig fid fun m => { m with st := .quiesce }
      else
        let slot := s.slotFor F m.dst
        match if s.targetOk m.dst && slot && s.sameMicrocode F (fieldOf m.dst) then s.migAlloc F m.dst else none with
        | some a =>
          let s := (s.wake m.dst).takeAlloc m.dst a
          s.updMig fid fun m => { m with st := .quiesce, extents := if F.handsOver m.dst then [] else a.extents }
        | none =>
          if s.sealed && s.targetOk m.dst && !slot && s.slotComes F m.dst then s
          else if s.sealed ∨ m.rechosen then s.dropMove m
          else
            match s.choose F (s.mayReplace m F) with
            | none => s.dropMove m
            | some (g, breach) =>
              if breach && keepsHeadroom m.why then s.dropMove m
              else (s.updMig fid fun m => { m with dst := g, rechosen := true }).noteBreach fid g breach
    | _, _ => s)

/-- MIGRATION_QUIESCE (R95, R130, R199, R216): at a boundary that takes no event of an earlier order the furrow leaves the source's run
list; an engine halted by debug aborts the attempt. -/
def execMigrationQuiesce (fid : Nat) (s : State) : Out :=
  .next (
    match s.mig? fid, s.furrow? fid with
    | some m, some F =>
      if m.st ≠ .quiesce then s
      else if s.engines[m.src].st = .halted then s.quiesceAbort fid
      else if s.engines[m.src].cur = some fid ∧ !s.quiesceable m.src then s
      else
        match s.csFetch m.src 0xC0 with
        | none => s.stick m.src 3
        | some s =>
          let s := if s.engines[m.src].cur = some fid then (s.breakHold m.src).saveSheaf m.src F else s
          let s := s.leaveEngine fid m.src
          let s := s.updFurrow fid fun F => { F with st := .moving }
          s.updMig fid fun m => { m with st := .capture }
    | _, _ => s)

/-- MIGRATION_QUIESCE_ABORT (R95): no boundary within 4 µs. A dropped move of a retirement loses the furrow (R100). -/
def execMigrationQuiesceAbort (fid : Nat) (s : State) : Out :=
  .next (
    match s.mig? fid with
    | some m =>
      let s := s.quiesceAbort fid
      if m.why = forRetire ∧ (s.mig? fid).isNone then s.left m.src else s
    | none => s)

/-- MIGRATION_CAPTURE (R95, R216, R428): once its stores are acknowledged, the furrow's context is read. -/
def execMigrationCapture (fid : Nat) (s : State) : Out :=
  .next (
    match s.mig? fid, s.furrow? fid with
    | some m, some F =>
      if m.st ≠ .capture ∨ s.storesOut fid then s
      else if F.ctxLost then (s.loseFurrow fid 4 none).left m.src
      else
        match s.csFetch m.src 0xC0 with
        | none => s.stick m.src 3
        | some s =>
          let s := s.updFurrow fid fun F => { F with ctxErr := none }
          s.updMig fid fun m => { m with st := .repoint }
    | _, _ => s)

/-- MIGRATION_REPOINT (R95, R97): for a move to another Field the source's rings stop at a packet boundary, and the frames that they hold
stay for the source egress; within a Field the rings switch with the copy of TRANSFER (log 64, DEDUCED). -/
def execMigrationRepoint (fid : Nat) (s : State) : Out :=
  .next (
    match s.mig? fid with
    | some m =>
      if m.st ≠ .repoint then s
      else
        let s := if fieldOf m.dst = fieldOf m.src then s
          else [4, 5, 6, 7].foldl (fun (s : State) (h : Nat) => s.leaveFrames (fieldOf m.src) fid h 1024) s
        s.updMig fid fun m => { m with st := .transfer }
    | none => s)

/-- Where a furrow of a retiring engine goes, and whether that breaches the headroom (R82, R92). -/
def State.refuge (s : State) (F : Furrow) (g : Fin 96) : Option (Fin 96 × Bool) :=
  if s.sealed then
    match s.planned s.sower.activePlan F.id with
    | some (h, _) =>
      if h ≠ g ∧ s.planHealthy h ∧ (s.migAlloc F h).isSome ∧ s.slotFor F h ∧ s.sameMicrocode F (fieldOf h) then some (h, false) else none
    | none => none
  else s.choose F fun h => h != g

/-- A furrow leaves a retiring engine, or is lost where it finds no place (R100). -/
def State.vacateFurrow (s : State) (g : Fin 96) (F : Furrow) : State :=
  match s.refuge F g with
  | some (h, breach) => (s.beginMove F h forRetire none).noteBreach F.id h breach
  | none => s.loseFurrow F.id 3 none

/-- A migration fails at TRANSFER or later: the furrow runs on at the source (R95), and one that is to leave a retiring engine moves anew
(R100). -/
def State.failMove (s : State) (m : Migration) : State :=
  let s := s.cancelMig m
  match s.furrow? m.fid with
  | some F => if m.why = forRetire then (s.vacateFurrow m.src F).left m.src else s
  | none => s

/-- The copy of a migration to another Field joins the mover's own descriptors, or what it has come to: none while it goes on, else
whether it has been cut (R14, R95, R293). -/
def State.copyOf (s : State) (m : Migration) : Option OwnJob :=
  s.fields[fieldOf m.src].ports.own.find? fun o => !o.copy && o.fid == m.fid

/-- The working set of a furrow is given to mover and bridge for its new Field (R95). -/
def State.startCopy (s : State) (m : Migration) (F : Furrow) : State :=
  s.updPorts (fieldOf m.src) fun P =>
    { P with
      own := P.own ++ [{ copy := false, fid := m.fid, hdr := 0, dst := fieldOf m.dst, dfid := m.fid, ord := P.bridgeSeq
                         len := (F.extents.map Extent.len).sum, moved := 0, cut := false, data := [] }]
      bridgeSeq := P.bridgeSeq + 1 }

/-- MIGRATION_TRANSFER (R95, R252): handover of whole banks, or a copy; a failure hands everything back. A copy to another Field goes to
mover and bridge, and the state ends once its last unit has crossed. -/
def execMigrationTransfer (fid : Nat) (failed : Bool) (s : State) : Out :=
  .next (
    match s.mig? fid, s.furrow? fid with
    | some m, some F =>
      if m.st ≠ .transfer then s
      else if failed ∨ !s.targetOk m.dst then s.failMove m
      else
        let next (s : State) : State := s.updMig fid fun m => { m with st := .resume }
        if F.handsOver m.dst then next ((s.handOver F m.dst).updMig fid fun m => { m with handed := true })
        else if F.home = some (fieldOf m.dst) then next (s.swapExtents m F false)
        else
          match s.copyOf m with
          | none => s.startCopy m F
          | some o => if o.cut then s.failMove m else if o.len ≤ o.moved then next s else s
    | _, _ => s)

/-- Whether a bank of a furrow is in HANDOVER. -/
def State.handingOver (s : State) (F : Furrow) : Bool :=
  match F.home with
  | some f => F.banks.any fun b => s.fields[f].banks[b].st == .handover
  | none => false

/-- The records that the destination Field has received since PREPARE enter the new rings (R95, R97). -/
def State.deliverArrived (s : State) (fid : Nat) (l : List (Nat × Nat × List Byte × List Byte)) : State :=
  l.foldl (fun (s : State) (e : Nat × Nat × List Byte × List Byte) =>
    match s.furrow? fid with
    | some F =>
      match s.putRecord F e.1 e.2.1 e.2.2.1 e.2.2.2 with
      | some (some t) => t
      | _ => s
    | none => s) s

/-- BANK_HANDOVER_COMPLETION (R252): the bank is OWNED by the target, and what has waited for it goes on. -/
def execBankHandoverCompletion (f : Fin 4) (b : Fin 32) (s : State) : Out :=
  .next (
    if s.fields[f].banks[b].st = .handover then
      (s.updBank f b fun B => { B with st := .owned, owner := B.target, target := 0 }).resumeField f
    else s)

/-- Whether the arguments of a FURROW_MOVE are valid, so far as they can be without its furrow (R48, R57). -/
def moveArgsOk (c : ActiveCmd) : Bool := decide (c.args[1].toNat < 4 ∧ (c.args[2].toNat = 0xFF ∨ c.args[2].toNat < 24))

/-- FURROW_MOVE (R48, R57, R243, R492): the furrow enters the sequencer; the command completes with its migration. Its arguments are checked
before the furrow's owner and state. -/
def execFurrowMove (mb : Fin 16) (k : BitVec 16) (s : State) : Out :=
  .next (if (s.cmd? mb k 0x0307).any ActiveCmd.started then s
    else if (s.cmd? mb k 0x0307).any (fun c => !moveArgsOk c) then s.finish mb k eArg []
    else s.onFurrow mb k 0x0307 false fun c F =>
    let e := c.args[2].toNat
    let placed (h : Fin 96 → Bool → State) : State :=
      match toFin? 4 c.args[1].toNat with
      | none => s.finish mb k eArg []
      | some f =>
        if !F.desc.fieldMask.getLsbD f.val then s.finish mb k eArg []
        else if s.fields[f].st ≠ .inService ∨ (some f ≠ F.home ∧ (s.csVer f 1, s.csVer f 2) ≠ F.verAtStart) then s.finish mb k eState []
        else
          match toFin? 24 e with
          | some x =>
            let g := globalOf f x
            if some g = F.engine ∨ !s.usable g then s.finish mb k eState []
            else if !s.fieldOk F f ∨ !s.slotFor F g ∨ (s.migAlloc F g).isNone then s.finish mb k eNoResource []
            else h g false
          | none =>
            match s.choose F fun g => fieldOf g == f && some g != F.engine with
            | some (g, breach) => h g breach
            | none => s.finish mb k eNoResource []
    let go : State := placed fun g breach =>
      ((s.beginMove F g forMove (some (mb, k))).noteBreach F.id g breach).start mb k
    match F.st with
    | .running => go
    | .stopped => go
    | .moving => s.finish mb k eObjectBusy []
    | .created => s.finish mb k eState []
    | .unplaced => s.finish mb k eState []
    | .failed => s.finish mb k eState [])

/-! Loads, rebalance, Doze (R81-R84, R266) -/

/-- LOAD_MONITOR_WINDOW (R81): cycles that each resident furrow used; the last 16 windows are kept. -/
def execLoadMonitorWindow (g : Fin 96) (used : List (Nat × Nat)) (s : State) : Out :=
  .next (
    let cycles (fid : Nat) : Nat := ((used.filter fun u => u.1 == fid).map Prod.snd).sum
    let l := s.residents g
    let total := (l.map fun F => cycles F.id).sum
    let s := l.foldl (fun (s : State) (F : Furrow) => s.updFurrow F.id fun F => { F with loads := (cycles F.id :: F.loads).take 16 }) s
    let above := decide (s.target * s.rateOf (fieldOf g) < s.loadOn g)
    s.updEngine g fun E =>
      { E with load := min 1000 (total * 1000 / s.rateOf (fieldOf g)), overWins := if above then E.overWins + 1 else 0 })

/-- Furrows of an engine in order of rising load, ties by lower ID; `free` leaves PIN and moving ones out. -/
def State.lightFirst (s : State) (g : Fin 96) : List Furrow :=
  sortBy (fun a b => if a.loadScaled = b.loadScaled then decide (a.id ≤ b.id) else decide (a.loadScaled < b.loadScaled))
    ((s.residents g).filter fun F => !F.desc.pin && (s.mig? F.id).isNone && (F.st == .running || F.st == .stopped))

/-- Load that stays on an engine when its migrations have ended. -/
def State.loadLeft (s : State) (g : Fin 96) : Nat :=
  (((s.residents g).filter fun F => (s.mig? F.id).isNone).map Furrow.loadScaled).sum

/-- First part of a rebalance: an overloaded engine gives its smallest furrows to engines that fit them; n migrations are left. -/
def State.relieve (s : State) (g : Fin 96) (n : Nat) : State × Nat :=
  (s.lightFirst g).foldl (fun (r : State × Nat) (F : Furrow) =>
    let t := r.1
    if r.2 = 0 ∨ t.loadLeft g ≤ t.target * t.rateOf (fieldOf g) then r
    else
      match t.choose F (mayRebalance F) with
      | some (h, false) => (t.beginMove F h forBalance none, r.2 - 1)
      | _ => r) (s, n)

/-- Second part: an engine that is lightly loaded is vacated when its furrows all fit elsewhere without waking an engine. -/
def State.vacate (s : State) (g : Fin 96) (n : Nat) : State × Nat :=
  let l := sortBy placeLe (s.residents g)
  if l.isEmpty ∨ n < l.length ∨ l.any (fun F => F.desc.pin || (s.mig? F.id).isSome || !(F.st == .running || F.st == .stopped)) then (s, n)
  else
    let moved := l.foldl (fun (r : Option State) (F : Furrow) =>
      r.bind fun t =>
        match t.choose F fun h => mayRebalance F h && t.engines[h].st == .awake with
        | some (h, false) => some (t.beginMove F h forEmpty none)
        | _ => none) (some s)
    match moved with
    | some t => (t, n - l.length)
    | none => (s, n)

/-- Whether the headland stack of a furrow's engine lies in a bank. -/
def State.headlandIn (s : State) (F : Furrow) (b : Fin 32) : Bool :=
  match F.engine with
  | some g => s.engines[g].hdlSp != 0 && bankOf (s.engines[g].hdlSp.toNat - granuleBytes) == b
  | none => false

/-- The furrows that hold a bank leave it (R263, R266), and with them those of an engine whose headland stack lies there: those with the
bank among their whole banks must leave the Field, the others their engine; none when one of them finds no room. -/
def State.vacateBank (s : State) (f : Fin 4) (b : Fin 32) : Option State :=
  let l := s.furrows.filter fun F =>
    F.home == some f && (decide (b ∈ F.banks) || s.headlandIn F b) && (s.mig? F.id).isNone
  l.foldl (fun (r : Option State) (F : Furrow) =>
    r.bind fun t =>
      if F.engine.isNone then none
      else
        match t.choose F fun g => some g != F.engine && (!F.desc.wholeBanks || decide (b ∉ F.banks) || fieldOf g != f) with
        | some (g, breach) => some ((t.beginMove F g forVacate none).noteBreach F.id g breach)
        | none => none) (some s)

/-- The Sower's own repair of a FREE bank (R263, R266): flagged rows first, then test 0x10; which rows fail it, and whether the run after
their repair does, are free values (log 39, DESIGN CHOICE). -/
def State.repairAlone (s : State) (f : Fin 4) (b : Fin 32) : State :=
  let r := s.remapFlagged f b
  if r.2 then
    let (v, s) := r.1.fresh 1033
    (s.destructiveTest f b ((List.range 1032).filter fun i => v.getLsbD i) (v.getLsbD 1032)).1
  else r.1

/-- Repair of the flagged banks of a Field in Rolling mode (R266): a FREE one at once, an OWNED one after a vacate. -/
def State.repairFlagged (s : State) (f : Fin 4) : State :=
  (allFin 32).foldl (fun (s : State) (b : Fin 32) =>
    if (s.flaggedRows f b).isEmpty ∨ s.bankHeld none f.val b.val then s
    else
      match s.fields[f].banks[b].st with
      | .free => s.repairAlone f b
      | .owned =>
        match s.vacateBank f b with
        | some t => t
        | none => s.log 2 8 (some f) b.val 0 0
      | _ => s) s

/-- Rebalances in a row that found an engine's load below 25 % (R83). -/
def State.noteLight (s : State) (f : Fin 4) : State :=
  (fieldEngines f).foldl (fun (s : State) (g : Fin 96) =>
    let light := decide (s.loadOn g < 250 * s.rateOf f)
    s.updEngine g fun E => { E with lowReb := if light then E.lowReb + 1 else 0 }) s

/-- Engines of a Field that a rebalance relieves, and those it vacates (R83). -/
def State.overloaded (s : State) (f : Fin 4) : List (Fin 96) :=
  (fieldEngines f).filter fun g => decide (3 ≤ s.engines[g].overWins) && s.engines[g].st == .awake
def State.underloaded (s : State) (f : Fin 4) : List (Fin 96) :=
  (fieldEngines f).filter fun g => s.sower.packing && decide (10 ≤ s.engines[g].lowReb) && s.engines[g].st == .awake

/-- The migrations of a rebalance: at most 8 (R83). -/
def State.balance (s : State) (f : Fin 4) : State :=
  let r := (s.overloaded f).foldl (fun (r : State × Nat) (g : Fin 96) => r.1.relieve g r.2) (s, 8)
  let q := (r.1.underloaded f).foldl (fun (r : State × Nat) (g : Fin 96) => r.1.vacate g r.2) r
  q.1

/-- REBALANCE (R83, R266): in Rolling mode, in an In service Field. -/
def execRebalance (f : Fin 4) (s : State) : Out :=
  .next (
    if s.sealed ∨ !s.sowerActs f ∨ s.fields[f].st ≠ .inService then s else ((s.noteLight f).balance f).repairFlagged f)

/-- DOZE_ENTRY (R84, R468): an empty engine that is no migration target; with packing off an In service Field's engines stay awake (R82).
DOZE is traced (R466). -/
def execDozeEntry (g : Fin 96) (s : State) : Out :=
  .next (
    let E := s.engines[g]
    let kept := !s.sealed && !s.sower.packing && s.fields[fieldOf g].st == .inService
    if E.st = .awake ∧ (s.residents g).isEmpty ∧ !s.isTarget g ∧ !kept ∧ !s.sup.passThrough then
      let s := s.emitEngine g 0xFFF Ctx.zero (packet 2 g.val 0xFFF 0 [s.now])
      s.updEngine g fun E => { E with st := .doze, lastLoaded := none }
    else s)

/-! Retirement (R92, R99, R100) -/

/-- Whether the active plan has an entry on an engine, after substitution. -/
def State.planUses (s : State) (g : Fin 96) : Bool := (planEngines (s.planTable s.sower.activePlan)).any fun e => s.substituted e == g

/-- A retiring engine is vacated: by live migration where there is a place, otherwise its furrows are lost; those of a Stuck engine are all
lost (R100, R101). The first time, a spare takes its place in the plan (R92). -/
def State.vacateEngine (s : State) (g : Fin 96) : State :=
  let first := !s.engines[g].retiring
  let s := s.updEngine g fun E => { E with retiring := true }
  let s := if s.sealed && first && s.planUses g then s.substitute g else s
  let l := sortBy placeLe (s.residents g)
  l.foldl (fun (s : State) (F : Furrow) =>
    match s.mig? F.id with
    | some m =>
      if s.engines[g].st = .stuck ∧ (m.st = .prepare ∨ m.st = .quiesce ∨ m.st = .capture) then s.loseFurrow F.id 1 none
      else s.updMig F.id fun m => { m with why := forRetire }
    | none =>
      if s.engines[g].st = .stuck then s.loseFurrow F.id 1 none
      else
        s.vacateFurrow g F) s

/-- ENGINE_RETIREMENT (R100): on a retirement event of R99 the Sower vacates the engine and retires it. -/
def execEngineRetirement (g : Fin 96) (code : Fin 8) (s : State) : Out :=
  .next (
    if s.engines[g].retireDue = some code ∧ s.engines[g].st ≠ .retired ∧ s.sowerActs (fieldOf g) then
      ((s.vacateEngine g).retireDone g).drainDone (fieldOf g)
    else s)

/-- ENGINE_RETIRE (R63, R99, R100). -/
def execEngineRetire (mb : Fin 16) (k : BitVec 16) (s : State) : Out :=
  .next (
    match s.cmd? mb k 0x0806 with
    | none => s
    | some c =>
      match toFin? 96 c.args[0].toNat with
      | none => s.finish mb k eArg []
      | some g =>
        if c.started then s
        else if s.engineHeld (some (mb, k)) g.val ∨ s.fieldHeld (some (mb, k)) (fieldOf g).val then s.finish mb k eObjectBusy []
        else if s.engines[g].st = .retired ∨ s.fields[fieldOf g].st = .off ∨ s.fields[fieldOf g].st = .resetting then s.finish mb k eState []
        else
          let s := (s.start mb k).updEngine g fun E => { E with retireDue := if E.retireDue.isSome then E.retireDue else some 7 }
          ((s.vacateEngine g).retireDone g).drainDone (fieldOf g))

/-- ENGINE_TEST (R100, R402): the engine, empty, is reset with cause 0xE; one that passes leaves the retirement map. The code is the test's
(log 22, DESIGN CHOICE). -/
def execEngineTest (mb : Fin 16) (k : BitVec 16) (code : Word) (pass : Bool) (s : State) : Out :=
  .next (
    match s.cmd? mb k 0x0603 with
    | none => s
    | some c =>
      match toFin? 96 c.args[0].toNat with
      | none => s.finish mb k eArg []
      | some g =>
        let f := fieldOf g
        if s.engineHeld (some (mb, k)) g.val ∨ s.fieldHeld (some (mb, k)) f.val then s.finish mb k eObjectBusy []
        else if !(s.residents g).isEmpty ∨ s.isTarget g ∨ s.fields[f].st = .off ∨ s.fields[f].st = .resetting then
          s.finish mb k eState []
        else
          let s := s.engineReset g 0xE
          let s := if pass then s.updSeed fun d => { d with retiredEngines := d.retiredEngines.filter (· ≠ g) } else s
          let s := s.updEngine g fun E => { E with st := if g ∈ s.seed.retiredEngines then .retired else E.st }
          s.finish mb k eOk [code])

/-! Plan transitions (R90-R94) -/

/-- Substitutions as they stand under a plan: those whose spare is one of the plan's stay, every other retired engine of the plan gets
the first spare left (R92). -/
def State.resubstitute (s : State) (q : Nat) : State :=
  let t := s.planTable q
  let s := s.updSower fun W => { W with subs := W.subs.filter fun p => decide (p.2 ∈ planSpares t (fieldOf p.1)) }
  (planEngines t).foldl (fun (s : State) (g : Fin 96) =>
    let lost := s.engines[g].st == .retired || s.engines[g].retireDue.isSome
    if lost && !(s.sower.subs.any fun p => p.1 == g) then
      match s.spareFor q g with
      | some h => s.updSower fun W => { W with subs := W.subs ++ [(g, h)] }
      | none => s
    else s) s

/-- A furrow under a transition (R93, R94). One whose planned Field has another customer microcode runs on where it is (R243; log 71, DESIGN
CHOICE). -/
def State.transitFurrow (s : State) (p : Nat) (old : Option (Fin 96 × Word)) (fid : Nat) : State :=
  match s.furrow? fid with
  | none => s
  | some F =>
    if F.st = .created ∨ F.st = .failed then s
    else
      match s.planned p fid with
      | none =>
        let s := s.updSower fun W => { W with restarts := W.restarts.filter fun r => r.1 ≠ fid }
        let g := F.engine
        let s := s.takeOff fid .unplaced
        match g with
        | some g => s.left g
        | none => s
      | some (h, m) =>
        if F.engine.isNone then
          if s.sower.restarts.any fun r => r.1 == fid then s
          else if F.desc.restartable then
            s.updSower fun W => { W with restarts := W.restarts ++ [(fid, restartAnywhere)] }
          else s.updFurrow fid fun F => { F with st := .failed }
        else if old = some (h, m) ∧ F.engine = some h then s
        else
          let s := match s.mig? fid with
            | some n => if n.st = .resume then s else s.cancelMig n
            | none => s
          if (s.mig? fid).isSome ∨ F.engine = some h then s
          else if !s.planHealthy h then s.loseFurrow fid 3 none
          else if s.sameMicrocode F (fieldOf h) then s.beginMove ((s.furrow? fid).getD F) h forPlan none
          else s

/-- After a migration in Sealed mode, a furrow that the active plan now puts elsewhere moves on (R93). -/
def State.moveOn (s : State) (fid : Nat) (dst : Fin 96) : State :=
  if s.sealed && ((s.planned s.sower.activePlan fid).map Prod.fst != some dst) then s.transitFurrow s.sower.activePlan none fid else s

/-- MIGRATION_RESUME (R95, R96): the furrow runs on the target, and the source slot and Plot are released. -/
def execMigrationResume (fid : Nat) (blackoutNs : Word) (s : State) : Out :=
  .next (
    match s.mig? fid, s.furrow? fid with
    | some m, some F =>
      if m.st ≠ .resume ∨ s.handingOver F then s
      else if !s.targetOk m.dst then s.failMove m
      else
        let s := s.updSower fun W => { W with migs := W.migs.filter fun n => n.fid ≠ fid }
        let s := s.updPorts (fieldOf m.src) fun P => { P with own := P.own.filter fun o => o.copy || o.fid != fid }
        let s := s.updFurrow fid fun F =>
          { F with
            st := m.was, engine := some m.dst, home := some (fieldOf m.dst), migrations := F.migrations + 1
            extents := if m.swapped ∨ m.extents.isEmpty then F.extents else m.extents }
        let s := ((s.joinEngine fid m.dst).count 2 (m.dst.val * 9 + 8) 1).emitSync m.dst fid F.ctx
        let s := (s.releaseEmpty (fieldOf m.src)).deliverArrived fid m.arrived
        let s := match m.cmd with
          | some (mb, k) => s.finish mb k eOk [nw m.dst.val, blackoutNs]
          | none => s
        ((s.countMoved m).moveOn fid m.dst).left m.src
    | _, _ => s)

/-- The transition of the active plan that an event takes (R90). -/
def State.transitionFor (s : State) (kind subject : Nat) : Option Nat :=
  ((planTransitions (s.planTable s.sower.activePlan)).find? fun t => t.1 == kind && t.2.1 == subject).map fun t => t.2.2

/-- A transition to plan q on an event (R22, R93). -/
def State.transit (s : State) (kind : BitVec 8) (subject : Fin 4) (q : Nat) : State :=
  let p := s.sower.activePlan
  let old := s.furrows.map fun F => (F.id, s.planned p F.id)
  let s := s.updSower fun W => { W with activePlan := q, transitions := W.transitions + 1 }
  let s := s.resubstitute q
  let used (f : Fin 4) : Bool := (planEngines (s.planTable q)).any fun g => fieldOf g == f
  let s := (allFin 4).foldl (fun (s : State) (f : Fin 4) =>
    if used f && s.fields[f].st == .out && s.supAlive then s.returnField f else s) s
  let s := if kind = 2 ∧ !used subject then
    s.updSower fun W => { W with resetAfter := W.resetAfter.filter (· ≠ subject) ++ [subject] } else s
  let s := old.foldl (fun (s : State) (e : Nat × Option (Fin 96 × Word)) => s.transitFurrow q e.2 e.1) s
  let s := s.updSower fun W => { W with inTransit := old.map Prod.fst }
  let s := s.log 2 1 (some subject) q (kind.setWidth 32) 0
  (s.raise 0 subject.val).emptiedDone subject

/-- Whether the latest transition still has a furrow to move or to restart (R94). -/
def State.transiting (s : State) : Bool :=
  s.sower.inTransit.any fun fid => (s.mig? fid).isSome || s.sower.restarts.any fun r => r.1 == fid

/-- PLAN_TRANSITION (R90, R93, R94): the oldest event, once no transition is in progress; without a match the plan stays. -/
def execPlanTransition (kind : BitVec 8) (subject : Fin 4) (s : State) : Out :=
  .next (
    match s.sower.events with
    | [] => s
    | e :: rest =>
      if e ≠ (kind, subject) ∨ !s.sealed ∨ s.transiting ∨ (s.fields.toList.any fun F => F.stallSower) then s
      else
        let s := s.updSower fun W => { W with events := rest }
        match s.transitionFor kind.toNat subject.val with
        | some q => s.transit kind subject q
        | none => s)

/-! Cold restart (R101, R211, R419) -/

/-- Where a furrow that waits is to restart (R93, R101, R211, R419); `none` outside means that it waits on. -/
def State.restartChoice (s : State) (F : Furrow) (how : Nat) : Option (Option (Fin 96 × Option Word × Bool)) :=
  match toFin? 96 how with
  | some g =>
    if s.targetOk g && (s.allocFor g F none).isSome && s.slotFor F g && s.sameMicrocode F (fieldOf g) then some (some (g, none, false))
    else some (s.restartPlace F fun _ => true)
  | none =>
    if how = restartHome then
      match F.home with
      | some f => if s.fields[f].st = .inService then some (s.restartPlace F fun g => fieldOf g == f) else none
      | none => some none
    else
      match s.restartPlace F fun _ => true with
      | some r => some (some r)
      | none => if s.sower.events.isEmpty then some none else none

/-- COLD_RESTART (R101, R128, R211): a furrow that waits starts again, or is FAILED when it finds no place; `code` is the firmware that a
move to another Field fetches once the port takes its requests (R33, R287). -/
def execColdRestart (fid : Nat) (code : Reply) (s : State) : Out :=
  .next (
    match s.sower.restarts.find? fun r => r.1 == fid, s.furrow? fid with
    | some r, some F =>
      if F.st ≠ .unplaced ∨ !s.supAlive then s
      else
        let gone (s : State) : State := s.updSower fun W => { W with restarts := W.restarts.filter fun r => r.1 ≠ fid }
        let fail (s : State) : State := (gone s).updFurrow fid fun F => { F with st := .failed }
        match s.restartChoice F r.2 with
        | none => s
        | some none => fail s
        | some (some (g, m, breach)) =>
          let run (s : State) (l : List Byte) : State :=
            let t := (gone (s.restartOn fid g m l none)).noteBreach fid g breach
            t.updFurrow fid fun F => { F with run := F.run.map fun q => (q.1, some (q.2.getD s.now)) }
          if F.keepsPlot g then run s []
          else if s.codeWaits F then s
          else
            match F.firmware code with
            | .ok l => run (s.readCode F) l
            | .error _ => fail (s.readCode F)
    | _, _ => s)

/-- ESCALATION_RUN_END (R211): 1 s after the cold restart that the run's first escalation caused. -/
def execEscalationRunEnd (fid : Nat) (s : State) : Out :=
  .next (
    match (s.furrow? fid).bind Furrow.run with
    | some (_, some t) => if 1000000000 ≤ s.since t then s.endRun fid else s
    | _ => s)

/-- SOWER_TABLE_REWRITE (R428): the entry is rewritten from the retained copy, and the Sower acts in the Field again. -/
def execSowerTableRewrite (f : Fin 4) (s : State) : Out :=
  .next (
    if s.supAlive ∧ s.fields[f].stallSower then s.updField f fun F => { F with sowerErr := none, stallSower := false } else s)

end Sys2Proof.Machine
end

