-- ==== Sys2Proof/Machine/Lines.lean ====
section
/-! DEFINITION. The line table, field walks and LINE_READ (R335, R346-R352). -/

namespace Sys2Proof.Machine

/-! Sides and shown posts (R347) -/

/-- Fields that hold a zone's record, ascending. -/
def State.sides (s : State) (zone : Nat) : List (Fin 4) := (allFin 4).filter fun f => (s.zoneRec f zone).isSome

/-- Lines of a zone. -/
def State.zoneLines (s : State) (zone : Nat) : Nat :=
  match s.zoneBody zone with
  | some b => (byteAt b 2).toNat
  | none => 0

/-- Latest post of a line from a side. -/
def State.post? (s : State) (zone line : Nat) (f : Fin 4) : Option LinePost :=
  s.sup.lines.find? fun p => p.zone == zone && p.line == line && p.field == f

/-- Nanoseconds after which a line that nobody has posted is stale (R347). -/
def staleNs : Nat := 20000000000

/-- Whether a side has posted a line within the last 20 s. -/
def State.fresh? (s : State) (zone line : Nat) (f : Fin 4) : Bool :=
  match s.post? zone line f with
  | some p => decide (s.since p.time ≤ staleNs)
  | none => false

/-- The side shown for a zone: the lower Field while it has posted every line, else its twin. -/
def State.shownSide (s : State) (zone : Nat) : Option (Fin 4) :=
  match s.sides zone with
  | [] => none
  | [f] => some f
  | f :: t :: _ => if (List.range (s.zoneLines zone)).all fun i => s.fresh? zone i f then some f else some t

/-- FAULTS of a post (R346). -/
def LinePost.faults (p : LinePost) : BitVec 8 := bits (p.words.getD 0 0) 16 8

/-- Posts shown for a zone. -/
def State.shownPosts (s : State) (zone : Nat) : List LinePost :=
  match s.shownSide zone with
  | some f => (List.range (s.zoneLines zone)).filterMap fun i => s.post? zone i f
  | none => []

/-- Whether some line of a zone is posted by neither side. -/
def State.isStale (s : State) (zone : Nat) : Bool :=
  (List.range (s.zoneLines zone)).any fun i => (s.sides zone).all fun f => !s.fresh? zone i f

/-- Whether the two sides' FAULTS of a line differ. -/
def State.differs (s : State) (zone line : Nat) : Bool :=
  match (s.sides zone).map fun f => s.post? zone line f with
  | [some p, some q] => p.faults != q.faults
  | _ => false

/-- Nanoseconds after which a difference becomes DISAGREE. -/
def disagreeNs : Nat := 30000000000

/-! ZFAULTS (R347, R348) -/

/-- A zone's report state rewritten. -/
def State.updZone (s : State) (zone : Nat) (h : ZoneSt → ZoneSt) : State :=
  s.updSup fun u => { u with zones := updWhere (fun z => z.zone == zone) h u.zones }

def State.zone? (s : State) (zone : Nat) : Option ZoneSt := s.sup.zones.find? fun z => z.zone == zone

/-- ZFAULTS as the posts, the timeouts and the walk leave it; `stale` and `differ` are the bits as they stand once their timeouts have come. -/
def State.zfaultsNow (s : State) (z : ZoneSt) (stale differ : Bool) : BitVec 13 :=
  let rack := match s.shownSide z.zone with
    | some f => s.sup.rack.getLsbD f.val
    | none => false
  bit 1 rack ++ bit 1 z.deferred ++ bit 1 z.failed ++ bit 1 differ ++ bit 1 stale ++
    (s.shownPosts z.zone).foldl (fun (m : BitVec 8) (p : LinePost) => m ||| p.faults) 0

/-- One bit of ZFAULTS gained or lost: a Ledger record of its own. -/
def State.zoneBit (s : State) (zone : Nat) (old new : BitVec 13) (f : Option (Fin 4)) (i : Nat) : State :=
  if old.getLsbD i = new.getLsbD i then s else s.log 14 (if new.getLsbD i then 1 else 2) f zone (nw i) 0

/-- A zone takes a value of ZFAULTS: records, the event at a gain, and a line fault that sets during a walk. -/
def State.setZfaults (s : State) (z : ZoneSt) (new : BitVec 13) : State :=
  let f := s.shownSide z.zone
  let t := (List.range 13).foldl (fun (t : State) (i : Nat) => t.zoneBit z.zone z.zfaults new f i) s
  let gained := new &&& ~~~z.zfaults
  let t := t.updZone z.zone fun z => { z with zfaults := new, faulted := z.faulted || (z.walking && (bits gained 0 8 : BitVec 8) != 0) }
  if gained = 0 then t else t.raise 4 (match f with
    | some f => f.val
    | none => 0xFF)

/-- ZFAULTS follows what has changed: STALE and DISAGREE end with their causes (R347, R381). -/
def State.refreshZone (s : State) (zone : Nat) : State :=
  match s.zone? zone with
  | none => s
  | some z =>
    s.setZfaults z (s.zfaultsNow z (z.zfaults.getLsbD 8 && s.isStale zone)
      (z.zfaults.getLsbD 9 && z.differ.any fun d => decide (disagreeNs ≤ s.since d.2)))

/-- The lines whose sides differ, each since when. -/
def State.noteDiffer (s : State) (zone line : Nat) : State :=
  s.updZone zone fun z =>
    { z with
      differ :=
        if !s.differs zone line then z.differ.filter fun d => d.1 != line
        else if z.differ.any fun d => d.1 == line then z.differ
        else z.differ ++ [(line, s.now)] }

/-! Receiving posts (R346, R347) -/

/-- The zones that a Field is shown for follow its rack alarm level. -/
def State.setRack (s : State) (f : Fin 4) (v : Bool) : State :=
  let s := s.updSup fun u => { u with rack := insertBits u.rack f.val (bit 1 v) }
  (s.sup.zones.filter fun z => (s.sides z.zone).contains f).foldl (fun (s : State) (z : ZoneSt) => s.refreshZone z.zone) s

/-- A post of the status queue reaches the supervisor. -/
def State.takePost (s : State) (f : Fin 4) (p : List Word) : State :=
  let w := p.getD 0 0
  let zone := fieldN w 0 12
  let line := fieldN w 12 3
  if zone = 0xFFF then s.setRack f ((p.getD 1 0).getLsbD 0)
  else if (s.zoneRec f zone).isNone then s.log 1 4 (some f) zone w (p.getD 4 0)
  else
    let new : LinePost := { zone := zone, line := line, field := f, words := p.take 4, time := s.now }
    let s := s.updSup fun u =>
      { u with lines := u.lines.filter (fun q => !(q.zone == zone && q.line == line && q.field == f)) ++ [new] }
    (s.noteDiffer zone line).refreshZone zone

/-- LINE_POST_RECEIVE (R144, R346, R347): the oldest post of a Field's status queue; a store that has waited for room goes on. -/
def execLinePostReceive (f : Fin 4) (s : State) : Out :=
  .next (
    match s.fields[f].posts with
    | [] => s
    | p :: l =>
      if !s.supAlive then s
      else ((((s.updField f fun F => { F with posts := l }).takePost f p).flushPosts f).resumeField f))

/-- LINE_STALE_TIMEOUT (R347): STALE sets where a line of the zone has been posted by neither side for 20 s. -/
def execLineStaleTimeout (zone : Nat) (s : State) : Out :=
  .next (
    match s.zone? zone with
    | none => s
    | some z =>
      if !s.supAlive ∨ !s.isStale zone ∨ s.since z.since < staleNs then s
      else s.setZfaults z (s.zfaultsNow z true (z.zfaults.getLsbD 9)))

/-- LINE_DISAGREE_TIMEOUT (R347): the sides' FAULTS of a line have differed for 30 s without a break. -/
def execLineDisagreeTimeout (zone : Nat) (line : Nat) (s : State) : Out :=
  .next (
    match s.zone? zone with
    | none => s
    | some z =>
      if !s.supAlive ∨ !(z.differ.any fun d => d.1 == line && decide (disagreeNs ≤ s.since d.2)) then s
      else s.setZfaults z (s.zfaultsNow z (z.zfaults.getLsbD 8) true))

/-! Drive of a zone's lines in a walk (R350, R351) -/

/-- A class-A line takes the drives of a step of the walk; a changed-over line keeps both ends driving (R344). -/
def LineSt.walkDrive (l : LineSt) (step : Nat) : LineSt :=
  if !l.classA || l.crossed then l
  else
    match step with
    | 2 => { l.drive false true with release := false }
    | 3 => { l.drive true true with release := false }
    | _ => { l.drive true false with release := false }

/-- A line returns to A drive and B listen; one whose A end listens gets A drive first (R351). -/
def LineSt.normalDrive (l : LineSt) : LineSt :=
  if !l.classA || l.crossed then l
  else if l.adrv then { l.drive true false with release := false }
  else { l.drive true true with release := true }

/-- Both sides of a zone run a step. -/
def State.stepZone (s : State) (zone step : Nat) : State :=
  (s.updZone zone fun z => { z with step := step }).updLines (fun l => l.zone == zone) fun l => l.walkDrive step

def State.normalZone (s : State) (zone : Nat) : State := s.updLines (fun l => l.zone == zone) LineSt.normalDrive

/-! The walk of a range (R349) -/

/-- The twin pair of a zone, by its lower Field. -/
def State.pairOf (s : State) (zone : Nat) : Nat := match s.sides zone with
  | f :: _ => f.val
  | [] => 4

/-- A zone's walk starts at W1. -/
def State.enterZone (s : State) (zone : Nat) : State :=
  (s.updZone zone fun z => { z with walking := true, yielded := false, yields := 0, missed := false, faulted := false }).stepZone zone 1

/-- A walk rewritten. -/
def State.updWalk (s : State) (mb : Fin 16) (k : BitVec 16) (h : Walk → Walk) : State :=
  s.updSup fun u => { u with walks := updWhere (fun w => w.mb == mb && w.k == k) h u.walks }

def State.walk? (s : State) (mb : Fin 16) (k : BitVec 16) : Option Walk := s.sup.walks.find? fun w => w.mb == mb && w.k == k

/-- Zones taken into free places, in ascending order: up to 4 at a time for each twin pair. -/
def State.takeZones (s : State) (w : Walk) : List Nat → State
  | [] => s
  | z :: l =>
    match s.walk? w.mb w.k with
    | none => s
    | some v =>
      if (v.now.filter fun x => s.pairOf x == s.pairOf z).length < 4 then
        ((s.updWalk w.mb w.k fun v => { v with todo := v.todo.filter fun x => x != z, now := v.now ++ [z] }).enterZone z).takeZones w l
      else s.takeZones w l

/-- The command ends: its results, and the event of a finished field walk (R349). -/
def State.endWalk (s : State) (w : Walk) : State :=
  ((s.updSup fun u => { u with walks := u.walks.filter fun v => !(v.mb == w.mb && v.k == w.k) }).finish w.mb w.k eOk
    [nw w.done, nw w.faults]).raise 5 (((allFin 4).find? fun f => w.fields.getLsbD f.val).elim 0xFF Fin.val)

/-- A walk takes its next zones, and ends when none is left. -/
def State.driveWalk (s : State) (mb : Fin 16) (k : BitVec 16) : State :=
  match s.walk? mb k with
  | none => s
  | some w =>
    let t := s.takeZones w w.todo
    match t.walk? mb k with
    | some v => if v.todo.isEmpty && v.now.isEmpty then t.endWalk v else t
    | none => t

/-- The walk of a zone ends, counted in neither result, in the first or in both. -/
def State.leaveZone (s : State) (zone : Nat) (tested fault : Bool) : State :=
  let s := (s.updZone zone fun z => { z with walking := false, yielded := false, step := 0 }).normalZone zone
  let s := s.refreshZone zone
  match s.sup.walks.find? fun w => w.now.contains zone with
  | none => s
  | some w =>
    (s.updWalk w.mb w.k fun w =>
      { w with
        now := w.now.filter fun x => x != zone, done := if tested then w.done + 1 else w.done
        faults := if fault then w.faults + 1 else w.faults }).driveWalk w.mb w.k

/-- Zones that a FIELD_WALK of a range walks: WALK set, and a supervision furrow that runs on either side. -/
def State.zonesToWalk (s : State) (first count : Nat) : List Nat :=
  let l := (s.sup.conf.filter fun e => walkRecord first count e.2).map fun e => (le16 e.2.body 0).toNat
  sortBy (fun a b => decide (a ≤ b)) (l.filter fun z => (s.sides z).any fun f => (s.supervisor? f).isSome).eraseDups

/-- Whether a supervision furrow of some Field of a mask is held by another command (R71, R349). -/
def State.furrowsHeld (s : State) (me : Asker) (m : BitVec 4) : Bool :=
  (s.sup.walks.any fun w => w.fields &&& m != 0) ||
    s.furrows.any fun F => F.supervises && F.desc.fieldMask &&& m != 0 && s.moveHeld me F.id

/-- FIELD_WALK (R349). A command whose start lies ahead holds its furrows until it begins. -/
def execFieldWalk (mb : Fin 16) (k : BitVec 16) (s : State) : Out :=
  .next (
    match s.cmd? mb k 0x0604 with
    | none => s
    | some c =>
      let first := c.args[0].toNat
      let count := c.args[1].toNat
      let due := decide (c.args[2].toNat ≤ fieldN s.now 32 32)
      let fields := s.walkFields first count
      if !c.started ∧ s.furrowsHeld (some (mb, k)) fields then s.finish mb k eObjectBusy []
      else
        let t := if c.started then s
          else (s.start mb k).updSup fun u =>
            { u with
              walks := u.walks ++ [{ mb := mb, k := k, fields := fields, begun := false, todo := [], now := [], done := 0, faults := 0 }] }
        if !due ∨ ((t.walk? mb k).any Walk.begun) then t
        else
          ((t.updWalk mb k fun w => { w with begun := true, todo := t.zonesToWalk first count }).updCmd mb k fun c =>
            { c with since := s.now }).driveWalk mb k)

/-- Whether a supervision furrow runs on some side of a zone. -/
def State.zoneServed (s : State) (zone : Nat) : Bool := s.supAlive && (s.sides zone).any fun f => (s.supervisor? f).isSome

/-- Whether the zone has a class-A line, which steps W2 to W4 act on. -/
def State.hasLoop (s : State) (zone : Nat) : Bool := s.sup.judged.any fun l => l.zone == zone && l.classA

/-- Dwells that a step must count (R350). -/
def stepDwells (step : Nat) : Nat := match step with
  | 1 => 3
  | 2 => 3
  | 3 => 1
  | _ => 2

/-- Pilot level of a step in dB below the line level (R336, R350). -/
def stepLevel (step : Nat) : Nat := if step = 1 then 20 else 30

/-- Whether the ends of a line show DRIVING as commanded through a cycle's dwells (R350). -/
def LineSt.shows (l : LineSt) (P : LineCfg) (obs : List EndObs) : Bool :=
  let a := obsOf obs P.aend
  let b := obsOf obs (P.aend + 1)
  dwellOk l.adrv a.v && dwellOk l.adrv a.i &&
    (!l.classA || (dwellOk l.bdrv b.v && dwellOk l.bdrv b.i && dwellOk l.bdrv b.b))

/-- Whether the impedance at an end lies within TOL; one that is not judged does (R338, R350; log 77, DESIGN CHOICE). -/
def LineCfg.within (P : LineCfg) (o : EndObs) : Bool :=
  decide (P.zref = 0) || decide ((devOf (Config.zmag o.v o.i P.fp P.vfs P.ifs) P.zref).natAbs ≤ P.tol)

/-- Whether the far end's sense words show at least half of VBREF (R350). -/
def LineCfg.arrives (P : LineCfg) (step : Nat) (ws : List Word) : Bool :=
  decide (P.vbref ≤ 2 * Config.vbFrac ws P.fp P.vfs P.vline (stepLevel step))

/-- Whether a line passes a step on one counted dwell (R350). Steps W2 to W4 skip a radial line, and every step one that is changed over,
whose ends both drive (R344; log 77, DESIGN CHOICE). -/
def LineSt.passes (l : LineSt) (P : LineCfg) (step : Nat) (obs : List EndObs) : Bool :=
  let a := obsOf obs P.aend
  let b := obsOf obs (P.aend + 1)
  l.crossed ||
    (match step with
      | 1 => P.within a && (!l.classA || P.arrives 1 b.b)
      | 2 => !l.classA || (P.within b && P.arrives 2 a.v)
      | 3 => true
      | _ => !l.classA || P.arrives 4 b.b)

/-- The lines of a zone as the side that runs its walk has them, each with its parameters. -/
def State.walkLines (s : State) (zone : Nat) : List (LineSt × LineCfg) :=
  match (s.sides zone).find? (fun f => (s.supervisor? f).isSome), s.zoneBody zone with
  | some f, some b => (s.sup.judged.filter fun l => l.zone == zone && l.field == f).map fun l => (l, lineCfg b l.line)
  | _, _ => []

/-- The line that a step fails on, by what its cycles have shown: a step that has not counted its dwells within 6 cycles fails on the
first line whose ends did not show DRIVING as commanded in the first cycle, or on line 0 (R350; log 77, DESIGN CHOICE). -/
def State.stepFails (s : State) (zone step : Nat) (dwells : List (List EndObs)) : Option Nat :=
  let l := s.walkLines zone
  let counted := ((dwells.take 6).filter fun o => l.all fun x => x.1.shows x.2 o).take (stepDwells step)
  if counted.length < stepDwells step then
    some (((l.find? fun x => !x.1.shows x.2 (dwells.headD [])).map fun x => x.1.line).getD 0)
  else (l.find? fun x => counted.any fun o => !x.1.passes x.2 step o).map fun x => x.1.line

/-- WALK_STEP (R350): the step in progress ends, passed or failed on its dwells; after the last one the zone's walk ends, with WALK_FAIL as
this walk leaves it. -/
def execWalkStep (zone : Nat) (dwells : List (List EndObs)) (s : State) : Out :=
  .next (
    match s.zone? zone with
    | none => s
    | some z =>
      if !z.walking ∨ z.yielded ∨ !s.zoneServed zone then s
      else
        let t := match s.stepFails zone z.step dwells with
          | none => s
          | some line =>
            ((s.updZone zone fun z => { z with failed := true, missed := true }).log 14 3 (s.shownSide zone) zone (nw line)
              (nw z.step)).refreshZone zone
        if z.step < 4 ∧ s.hasLoop zone then t.stepZone zone (z.step + 1)
        else
          let t := t.updZone zone fun z => { z with failed := z.missed, deferred := false, walked := s.now }
          t.leaveZone zone true ((t.zone? zone).any fun z => z.failed || z.faulted))

/-- WALK_YIELD (R351). -/
def execWalkYield (zone : Nat) (s : State) : Out :=
  .next (
    match s.zone? zone with
    | none => s
    | some z =>
      if !z.walking ∨ z.yielded ∨ !s.zoneServed zone then s
      else if 3 ≤ z.yields + 1 then
        (s.updZone zone fun z => { z with yields := z.yields + 1, deferred := true }).leaveZone zone false false
      else
        (s.updZone zone fun z => { z with yields := z.yields + 1, yielded := true, yieldAt := s.now, step := 0 }).normalZone zone)

/-- Nanoseconds of quiet programme before a yielded zone is walked again (R351). -/
def quietNs : Nat := 60000000000

/-- WALK_REWALK (R351). -/
def execWalkRewalk (zone : Nat) (s : State) : Out :=
  .next (
    match s.zone? zone with
    | none => s
    | some z =>
      if !z.walking ∨ !z.yielded ∨ !s.zoneServed zone ∨ s.since z.yieldAt < quietNs then s
      else (s.updZone zone fun z => { z with yielded := false, missed := false }).stepZone zone 1)

/-- Nanoseconds in 4 h (R349). -/
def walkNs : Nat := 14400000000000

/-- FIELD_WALK_TIMEOUT (R349): the zones not yet walked take WALK_DEFERRED, and the command ends. -/
def execFieldWalkTimeout (mb : Fin 16) (k : BitVec 16) (s : State) : Out :=
  .next (
    match s.cmd? mb k 0x0604, s.walk? mb k with
    | some c, some w =>
      if !w.begun ∨ s.since c.since < walkNs then s
      else
        let t := (w.now ++ w.todo).foldl (fun (t : State) (zone : Nat) =>
          ((t.updZone zone fun z => { z with walking := false, yielded := false, step := 0, deferred := true }).normalZone zone).refreshZone
            zone) s
        t.endWalk w
    | _, _ => s)

/-! The drills of the supervision firmware (R330, R331) -/

/-- Whether a drill runs as R331 asks: with DDIV 0x0014_0000 in DDR mode, and started by a WAIT on a timer. -/
def Drill.linked (D : Drill) : Bool := D.st == .running && D.ddiv == 0x00140000#32 && D.dmode.getLsbD 16 && D.began.isSome

/-- Whether a role of a drill lies on its pin of R331. -/
def Field.onPin (F : Field) (d : Fin 16) (role pin : Nat) : Bool := F.rolePin d role == some pin

/-- Ends of the lines that a Field supervises. -/
def State.endsOf (s : State) (f : Fin 4) : List Nat :=
  (s.sup.judged.filter fun l => l.field == f).flatMap fun l =>
    match s.zoneRec f l.zone with
    | some b => if l.classA then [(lineCfg b l.line).aend, (lineCfg b l.line).aend + 1] else [(lineCfg b l.line).aend]
    | none => []

/-- Link drill of an end, and its lane (R330). -/
def linkDrill (e : Nat) : Fin 16 := ⟨e / 2048 % 16, Nat.mod_lt _ (by omega)⟩
def linkLane (e : Nat) : Nat := e / 256 % 8

/-- Whether the link and sense drills of a Field run on their pins, started on one DRL edge by one timer (R331): D0, which carries K and Y,
D4, and every link drill with an end of the Field's lines. -/
def State.linkRuns (s : State) (f : Fin 4) : Bool :=
  let F := s.fields[f]
  let start := F.drills[(0 : Fin 16)].began
  F.drills[(0 : Fin 16)].linked && F.onPin 0 8 24 && F.onPin 0 9 25 &&
    (F.drills[(4 : Fin 16)].linked && F.drills[(4 : Fin 16)].began == start && F.onPin 4 0 27 && F.onPin 4 1 28 &&
      F.drills[(4 : Fin 16)].rxMask.getLsbD 0 && F.drills[(4 : Fin 16)].rxMask.getLsbD 1) &&
    (s.endsOf f).all fun e =>
      F.drills[linkDrill e].linked && F.drills[linkDrill e].began == start && F.drills[linkDrill e].txMask.getLsbD (linkLane e) &&
        F.onPin (linkDrill e) (linkLane e) (e / 256)

/-- Whether D3 samples the rack alarm line (R331). -/
def State.rackSampled (s : State) (f : Fin 4) : Bool :=
  s.fields[f].drills[(3 : Fin 16)].st == .running && s.fields[f].onPin 3 0 26 && s.fields[f].drills[(3 : Fin 16)].rxMask.getLsbD 0

/-! The cycle (R332, R335) -/

/-- Ends of a Field, and those whose SEL a cycle sets (R330, R335). -/
def fieldEnds : Nat := 6144
def selEnds : Nat := 256

/-- Ends of the zones of a Field that are being walked: up to 64 (R335). -/
def State.walkedEnds (s : State) (f : Fin 4) : List Nat :=
  ((s.sup.judged.filter fun l => l.field == f && s.inWalkStep l.zone).flatMap fun l =>
    match s.zoneRec f l.zone with
    | some b => if l.classA then [(lineCfg b l.line).aend, (lineCfg b l.line).aend + 1] else [(lineCfg b l.line).aend]
    | none => []).take 64

/-- SEL of the cycle that begins: the ends of walked zones, and the rest of 256, or of 192 beside them, in rotation (R335). -/
def State.nextSel (s : State) (f : Fin 4) : State :=
  let walked := s.walkedEnds f
  let n := if walked.isEmpty then selEnds else selEnds - 64
  s.updField f fun F =>
    { F with sels := walked ++ (List.range n).map (fun i => (F.selPos + i) % fieldEnds), selPos := (F.selPos + n) % fieldEnds }

/-- Control byte of an end's link slot, in the SYNC frame or another (R332): DRIVE, SEL, SYNC, VALID. -/
def State.controlByte (s : State) (f : Fin 4) (e : Nat) (sync : Bool) : Byte :=
  let drives := s.sup.judged.any fun l => l.field == f &&
    (match s.zoneRec f l.zone with
      | some b => (l.adrv && (lineCfg b l.line).aend == e) || (l.classA && l.bdrv && (lineCfg b l.line).aend + 1 == e)
      | none => false)
  1#1 ++ 0#4 ++ bit 1 sync ++ bit 1 (sync && decide (e ∈ s.fields[f].sels)) ++ bit 1 drives

/-- Nanoseconds after which a line is posted again with the next cycle: 5 s less one cycle (R335, R346). -/
def repostNs : Nat := 4930000000

/-- A line's cycle in the state: its zone's walk ends at a BREAK or an AMP on the A end (R352). -/
def State.cycleLine (s : State) (f : Fin 4) (obs : List EndObs) (l : LineSt) : State :=
  match s.zoneRec f l.zone with
  | none => s
  | some b =>
    let step := ((s.zone? l.zone).filter fun z => z.walking && !z.yielded).elim 0 ZoneSt.step
    let m := l.cycle (lineCfg b l.line) (stepLevel step) (fun e => decide (e ∈ s.fields[f].sels)) obs
    let m := if repostNs ≤ s.since m.posted then { m with owed := true } else m
    let s := s.updLines (fun x => x.zone == l.zone && x.line == l.line && x.field == f) fun _ => m
    let walking := (s.zone? l.zone).any ZoneSt.walking
    if walking && m.endsWalk l then s.leaveZone l.zone true true else s

/-- SUPERVISION_CYCLE (R331, R335, R340-R346): SEL is set, what the cycle's dwells show is judged, and changes are posted, the rack alarm level
among them. Nothing happens without a supervision furrow that runs and drills that run as R331 asks. -/
def execSupervisionCycle (f : Fin 4) (obs : CycleObs) (s : State) : Out :=
  .next (
    match s.supervisor? f with
    | none => s
    | some S =>
      if !s.drlRuns f ∨ !s.linkRuns f then s
      else
        let s := s.nextSel f
        let t := (s.sup.judged.filter fun l => l.field == f).foldl (fun (s : State) (l : LineSt) =>
          match s.sup.judged.find? fun x => x.zone == l.zone && x.line == l.line && x.field == f with
          | some l => s.cycleLine f obs.ends l
          | none => s) s
        (if t.rackSampled f then t.postRack f S.id obs.rack else t).flushPosts f)

/-! LINE_READ (R348) -/

/-- The 16 bytes of a line's entry. -/
def State.lineEntry (s : State) (zone line : Nat) : List Byte :=
  match s.shownSide zone with
  | some f =>
    if line < s.zoneLines zone then
      match s.post? zone line f with
      | some p => (List.range 4).flatMap fun i => bytes32 (p.words.getD i 0)
      | none => List.replicate 16 0
    else List.replicate 16 0
  | none => List.replicate 16 0

/-- STATE of a zone's header. -/
def State.zoneState (s : State) (zone : Nat) : Byte :=
  if (s.zone? zone).any ZoneSt.walking then 2
  else if (s.shownPosts zone).any fun p => (p.words.getD 0 0).getLsbD 25 then 1
  else 0

/-- The 160 bytes of a zone. -/
def State.zoneImage (s : State) (zone : Nat) : List Byte :=
  let head := match s.shownSide zone, s.zone? zone with
    | some f, some z =>
      let last := (s.shownPosts zone).foldl (fun (t : DWord) (p : LinePost) => if t ≤ p.time then p.time else t) 0
      bytes16 (BitVec.ofNat 16 zone) ++ [BitVec.ofNat 8 (s.zoneLines zone), s.zoneState zone] ++ bytes32 (z.zfaults.setWidth 32) ++
        [BitVec.ofNat 8 f.val, 0, 0, 0] ++ bytes64 last ++ bytes64 z.walked
    | _, _ => [0, 0, 0, 3] ++ List.replicate 24 0
  head ++ bytes32 (crc32cOf head) ++ (List.range 8).flatMap fun i => s.lineEntry zone i

/-- LINE_READ (R61, R348). -/
def execLineRead (mb : Fin 16) (k : BitVec 16) (resp : BitVec 3) (s : State) : Out :=
  .next (
    match s.cmd? mb k 0x0704 with
    | none => s
    | some c =>
      let first := c.args[0].toNat
      let count := c.args[1].toNat
      if 4095 < first + count then s.finish mb k eArg []
      else s.answer mb c resp ((List.range count).flatMap fun i => s.zoneImage (first + i)) [])

end Sys2Proof.Machine
end

