-- ==== Sys2Proof/Machine/Scrub.lean ====
section
/-! DEFINITION. Background work of the block: sealer passes, the Ledger's intake, queue messages, scrubbing and the aging monitor
(R217, R259, R260, R302, R382-R384, R393, R428, R430, R488, R489). -/

namespace Sys2Proof.Machine

/-! The sealer (R393) -/

/-- Scopes whose part differs from the one recorded at commit. -/
def HostWin.failing (H : HostWin) : BitVec 5 :=
  (allFin 5).foldl (fun (m : BitVec 5) (c : Fin 5) => if H.sealParts[c] = H.sealActParts[c] then m else m ||| (1#5 <<< c.val)) 0

/-- Fields that a mismatch resets in Sealed mode: each failing Field scope, and for the block scope every Field In service. -/
def State.sealResets (s : State) (m : BitVec 5) : List (Fin 4) :=
  (allFin 4).filter fun f => m.getLsbD f.val || (m.getLsbD blockScope && s.fields[f].st == .inService)

/-- A completed pass is a mismatch (R393). -/
def State.sealMismatch (s : State) : State :=
  let m := s.host.failing
  let t := if s.host.sealFail = 0 then s.log 12 1 none 0 (m.setWidth 32) 0 else s
  let t := (t.updHost fun H => { H with sealFail := m }).raise 6 0xFF
  if s.sealed then (s.sealResets m).foldl (fun (s : State) (f : Fin 4) => s.fieldReset f 0xC) t else t

/-- SEAL_PASS (R393): a pass completes, once a commit stands. -/
def execSealPass (s : State) : Out :=
  .next (
    if !s.sup.committed ∨ s.reset?.isSome then s
    else
      let (v, p) := s.passSeal
      let t := s.updHost fun H => { H with sealLast := v, sealParts := p, sealPasses := H.sealPasses + 1 }
      if v = s.host.sealAct then
        let t := if s.host.sealFail = 0 then t else t.log 12 2 none 0 0 0
        t.updHost fun H => { H with sealFail := 0 }
      else t.sealMismatch)

/-! The Ledger's intake (R382-R384) -/

/-- The source served next: the first with a record waiting, ascending after the source served last. -/
def Ledger.nextSource (L : Ledger) : Option (Fin 15) :=
  ((List.range 15).map fun i => (⟨(L.rr + 1 + i) % 15, by omega⟩ : Fin 15)).find? fun c => !L.queues[c].isEmpty

/-- Records that the ring holds (R382). -/
def ledgerDepth : Nat := 1024

/-- A record of a source taken into the ring at a time. -/
def Ledger.accept (L : Ledger) (src : Fin 15) (i : LedgerItem) (now : DWord) : Ledger :=
  let l := L.ring ++ [{ seq := L.nextSeq, time := now, source := src.val, item := i }]
  { L with
    ring := l.drop (l.length - ledgerDepth), queues := L.queues.set src (L.queues[src].drop 1), rr := src.val
    seqReg := L.nextSeq, nextSeq := L.nextSeq + 1, fill := min ledgerDepth (L.fill + 1) }

/-- The event of a Ledger three quarters full, once since the latest LEDGER_READ (R62). -/
def State.ledgerThird (s : State) : State :=
  if 768 ≤ s.ledger.fill ∧ !s.sup.ledgerMark then (s.updSup fun u => { u with ledgerMark := true }).raise 7 0xFF else s

/-- LEDGER_RECORD_ACCEPT (R384). -/
def execLedgerRecordAccept (s : State) : Out :=
  .next (
    if s.pins.clkFault.getLsbD 4 then s
    else
      match s.ledger.nextSource with
      | none => s
      | some src =>
        match s.ledger.queues[src] with
        | [] => s
        | i :: _ =>
          let t := { s with ledger := s.ledger.accept src i s.now }
          let t := if src = 2 ∧ i.event = 1 then t.updSower fun W => { W with lastTransSeq := s.ledger.nextSeq } else t
          t.ledgerThird)

/-! Messages of the control and status queues (R430) -/

/-- Nanoseconds after which a sender repeats a message (R430). -/
def messageNs : Nat := 4000

/-- QUEUE_MESSAGE (R430): a message that fails its check stays unacknowledged; a repeat of one acted on is dropped. -/
def execQueueMessage (f : Fin 4) (seq : BitVec 16) (crcOk : Bool) (s : State) : Out :=
  .next (
    if s.fieldGone f then s
    else if !crcOk then
      s.updField f fun F => if F.msgs.any fun m => m.1 == seq then F else { F with msgs := F.msgs ++ [(seq, false, s.now)] }
    else
      s.updField f fun F =>
        { F with
          msgs := F.msgs.filter fun m => m.1 != seq
          msgSeen := if F.msgSeen.contains seq then F.msgSeen else (seq :: F.msgSeen).take 32 })

/-- QUEUE_MESSAGE_RETRY (R430): no acknowledgement came 4 µs after the sending; the first time the message is repeated, the second time the Field is reset. -/
def execQueueMessageRetry (f : Fin 4) (seq : BitVec 16) (s : State) : Out :=
  .next (
    match s.fields[f].msgs.find? fun m => m.1 == seq with
    | none => s
    | some (_, again, t) =>
      if s.since t < messageNs then s
      else if !again then s.updField f fun F => { F with msgs := updWhere (fun m => m.1 == seq) (fun m => (m.1, true, s.now)) F.msgs }
      else (s.updField f fun F => { F with msgs := F.msgs.filter fun m => m.1 != seq }).fieldReset f 0xE)

/-! Scrubbing (R217, R259, R260, R302, R428, R489) -/

/-- Whether the Gleaner and engines reach a bank (R260). -/
def Bank.scrubbed (B : Bank) : Bool := B.st != .harrow && B.st != .retired

/-- The word leaves the Gleaner's waiting list of its bank. -/
def State.unqueue (s : State) (f : Fin 4) (a : Nat) : State :=
  s.updBank f (bankOf a) fun B => { B with gleanQ := B.gleanQ.filter fun w => decide (w ≠ wordOf a) }

/-- The sweep reads a word of a bank: a correctable one is rewritten, an uncorrectable one recorded (R260, R491). -/
def State.sweepWord (s : State) (f : Fin 4) (a : Nat) : State :=
  let e := s.eccAt f a
  let t := (s.noteRead f a 1).1
  if e = some .corr then (t.setEcc f a none).unqueue f a else t

/-- The sweep reads a microword (R217, R99 code 3); an uncorrectable one retires the engine. -/
def State.sweepMicroword (s : State) (g : Fin 96) : State :=
  let E := s.engines[g]
  if E.st = .retired then s
  else
    let t := match mapFind E.csPos E.csErr with
      | none => s
      | some .corr => s.noteCs g E.csPos
      | some _ => s.updEngine g fun E => { E with retireDue := if E.retireDue.isSome then E.retireDue else some 3 }
    t.updEngine g fun E => { E with csPos := (E.csPos + 1) % 8192 }

/-- GLEANER_SCRUB_READ (R217, R260, R302): the next word of each bank, control store and program memory of a Field. A reported
program word is rewritten by DRILL_PROGRAM_REWRITE. -/
def execGleanerScrubRead (f : Fin 4) (s : State) : Out :=
  .next (
    if s.fieldGone f then s
    else
      let n := s.fields[f].gleanPos
      let t := (allFin 32).foldl (fun (t : State) (b : Fin 32) =>
        if t.fields[f].banks[b].scrubbed then t.sweepWord f (b.val * 131072 + 16 * n) else t) s
      let t := (fieldEngines f).foldl (fun (t : State) (g : Fin 96) => t.sweepMicroword g) t
      t.updField f fun F => { F with gleanPos := (n + 1) % 8192, drillPos := (F.drillPos + 1) % 1024 })

/-- GLEANER_REWRITE (R259): the oldest reported word of a bank is rewritten. -/
def execGleanerRewrite (f : Fin 4) (b : Fin 32) (s : State) : Out :=
  .next (
    let B := s.fields[f].banks[b]
    match B.gleanQ with
    | [] => s
    | w :: l =>
      if s.fieldGone f ∨ !B.scrubbed then s
      else
        let t := s.updBank f b fun B => { B with gleanQ := l }
        if s.eccAt f (16 * w) = some .corr then t.setEcc f (16 * w) none else t)

/-- CONTROL_STORE_REWRITE (R217): the supervisor rewrites a corrected microword from its copy. -/
def execControlStoreRewrite (g : Fin 96) (a : BitVec 13) (s : State) : Out :=
  .next (
    let E := s.engines[g]
    if !s.supAlive ∨ E.st = .retired ∨ s.fieldGone (fieldOf g) ∨ mapFind a.toNat E.csErr ≠ some .corr then s
    else s.updEngine g fun E => { E with csErr := mapPut a.toNat none E.csErr })

/-- The readers reach the dispatch tables of an engine: a correctable entry is rewritten, an uncorrectable one sticks the engine. -/
def State.readDispatch (s : State) (g : Fin 96) : State :=
  let E := s.engines[g]
  if E.st = .retired ∨ E.st = .stuck ∨ E.resetHeld ∨ s.fieldGone (fieldOf g) then s
  else
    match E.dispErr with
    | none => s
    | some .corr => if s.supAlive then s.updEngine g fun E => { E with dispErr := none } else s
    | some _ => s.stick g 1

/-- The readers reach the Sower tables of a Field (R428). -/
def State.readSower (s : State) (f : Fin 4) : State :=
  if s.fieldGone f then s
  else
    match s.fields[f].sowerErr with
    | none => s
    | some .corr => s.updField f fun F => { F with sowerErr := none }
    | some _ => s.updField f fun F => { F with stallSower := true }

/-- HARDWARE_READER_SCRUB (R428, R489). -/
def execHardwareReaderScrub (s : State) : Out :=
  .next (
    let t := (allFin 96).foldl (fun (t : State) (g : Fin 96) => t.readDispatch g) s
    (allFin 4).foldl (fun (t : State) (f : Fin 4) => t.readSower f) t)

/-! Aging (R488) -/

/-- Nanoseconds between two aging measurements: 24 h, or 1 h once the slack is below 4 % (R488). -/
def Engine.agingNs (E : Engine) : Nat := if E.lastSlack < 4 then 3600000000000 else dayNs

/-- Whether an aging measurement of an engine is due (R488). -/
def State.agingDue (s : State) (E : Engine) : Bool :=
  match E.agedAt with
  | none => true
  | some t => decide (E.agingNs ≤ s.since t)

/-- AGING_MEASUREMENT (R99, R488): slack in steps of 1 % of the cycle; below 2 % in two consecutive measurements retires the engine. -/
def execAgingMeasurement (g : Fin 96) (slack : Nat) (s : State) : Out :=
  .next (
    let E := s.engines[g]
    if !s.supAlive ∨ E.st ≠ .awake ∨ !s.agingDue E then s
    else
      let low := if slack < 2 then E.slackLow + 1 else 0
      s.updEngine g fun E =>
        { E with
          lastSlack := slack, slackLow := low, agedAt := some s.now
          retireDue := if E.retireDue.isNone && decide (2 ≤ low) then some 6 else E.retireDue })

end Sys2Proof.Machine
end

