-- ==== Sys2Proof/Machine/Service.lean ====
section
/-! DEFINITION. Service commands on Fields and banks: drain, power, the Harrow's tests, repair (R20, R21, R57, R63, R64, R98, R261-R268,
R476). -/

namespace Sys2Proof.Machine

/-! FIELD_DRAIN (R20, R21, R64, R98) -/

/-- Furrows on the engines of a Field that are not in a migration, in the order of R82. -/
def State.toDrain (s : State) (f : Fin 4) : List Furrow :=
  sortBy placeLe (s.furrows.filter fun F => F.engine.map fieldOf == some f && (s.mig? F.id).isNone)

/-- Migrations of a Field's furrows to other Fields, all within the headroom; none when one does not fit (R64, R82). -/
def State.drainMoves (s : State) (f : Fin 4) : Option State :=
  (s.toDrain f).foldl (fun (r : Option State) (F : Furrow) =>
    r.bind fun t =>
      match t.choose F fun g => fieldOf g != f with
      | some (g, false) => some (t.beginMove F g forDrain none)
      | _ => none) (some s)

/-- FIELD_DRAIN (R20, R21, R57, R64, R98). Executed again, it moves what a dropped migration has left behind. -/
def execFieldDrain (mb : Fin 16) (k : BitVec 16) (s : State) : Out :=
  .next (
    match s.cmd? mb k 0x0804 with
    | none => s
    | some c =>
      match toFin? 4 c.args[0].toNat with
      | none => s.finish mb k eArg []
      | some f =>
        if c.started then ((s.drainMoves f).getD s).drainDone f
        else if (allFin 4).any fun h => s.fields[h].st != .inService then s.finish mb k eServiceBusy []
        else if s.fieldHeld (some (mb, k)) f.val then s.finish mb k eObjectBusy []
        else if (s.furrows.any fun F => F.engine.map fieldOf == some f && !s.hasRefuge F f) then s.finish mb k eState []
        else
          match s.drainMoves f with
          | none => s.finish mb k eNoResource []
          | some t => ((t.start mb k).setFieldSt f .draining).drainDone f)

/-! FIELD_POWER (R64, R291, R476) -/

/-- FIELD_POWER off: pads held, Plot in retention or powered down, the request lowered; the command ends when PWR_ENG_OKn falls. Field 0,
through which the supervisor reaches host memory, is not powered off by command (R291). -/
def State.powerOff (s : State) (mb : Fin 16) (k : BitVec 16) (f : Fin 4) (keep : Bool) : State :=
  if s.fieldHeld (some (mb, k)) f.val then s.finish mb k eObjectBusy []
  else if s.fields[f].st ≠ .out ∨ f = 0 then s.finish mb k eState []
  else
    let held := if s.fields[f].padHold then 1 else 0
    let s := (s.start mb k).updCmd mb k fun c => { c with num := held }
    let s := s.updField f fun F => { F with padHold := true, retain := keep, pwrReq := false }
    if keep then s else s.losePlot f

/-- FIELD_POWER on: the request raised; the command ends when PWR_ENG_OKn rises. -/
def State.powerOn (s : State) (mb : Fin 16) (k : BitVec 16) (f : Fin 4) : State :=
  if s.fieldHeld (some (mb, k)) f.val then s.finish mb k eObjectBusy []
  else if s.fields[f].st ≠ .off then s.finish mb k eState []
  else (s.start mb k).updField f fun F => { F with pwrReq := true }

/-- A FIELD_POWER of an action code: its Field, once the arguments are valid; a command of another code is another row's. -/
def State.onPower (s : State) (mb : Fin 16) (k : BitVec 16) (action : Nat) (h : Fin 4 → State) : State :=
  match s.cmd? mb k 0x0805 with
  | none => s
  | some c =>
    if 3 ≤ c.args[1].toNat then s.finish mb k eArg []
    else if c.args[1].toNat ≠ action ∨ c.started then s
    else
      match toFin? 4 c.args[0].toNat with
      | none => s.finish mb k eArg []
      | some f => h f

/-- FIELD_POWER_OFF (R476). -/
def execFieldPowerOff (mb : Fin 16) (k : BitVec 16) (s : State) : Out := .next (s.onPower mb k 0 fun f => s.powerOff mb k f false)

/-- FIELD_POWER_OFF_RETAINED (R476). -/
def execFieldPowerOffRetained (mb : Fin 16) (k : BitVec 16) (s : State) : Out :=
  .next (s.onPower mb k 1 fun f => s.powerOff mb k f true)

/-- FIELD_POWER_ON (R476). -/
def execFieldPowerOn (mb : Fin 16) (k : BitVec 16) (s : State) : Out := .next (s.onPower mb k 2 fun f => s.powerOn mb k f)

/-- Nanoseconds that a FIELD_POWER waits for PWR_ENG_OKn (R476). -/
def powerNs : Nat := 10000000

/-- FIELD_POWER_TIMEOUT (R476): the command fails with E_HW, and the Field is left in its former state. -/
def execFieldPowerTimeout (mb : Fin 16) (k : BitVec 16) (s : State) : Out :=
  .next (
    match s.cmd? mb k 0x0805 with
    | none => s
    | some c =>
      match toFin? 4 c.args[0].toNat with
      | none => s
      | some f =>
        if !c.started ∨ s.since c.since < powerNs then s
        else
          let back (F : Field) : Field :=
            if F.st = .off then { F with pwrReq := false } else { F with pwrReq := true, padHold := decide (c.num = 1) }
          (s.updField f back).finish mb k eHw [])

/-! The Harrow (R261-R268) -/

/-- A command on a bank: Field and bank of ARG0 and ARG1. One that starts fails on a held object, and on a Field that is Off or Resetting,
which has no bank to reach. -/
def State.onBank (s : State) (mb : Fin 16) (k : BitVec 16) (c : ActiveCmd) (h : Fin 4 → Fin 32 → State) : State :=
  match toFin? 4 c.args[0].toNat, toFin? 32 c.args[1].toNat with
  | some f, some b =>
    if c.started then h f b
    else if s.bankHeld (some (mb, k)) f.val b.val ∨ s.fieldHeld (some (mb, k)) f.val then s.finish mb k eObjectBusy []
    else if s.fieldGone f then s.finish mb k eState []
    else h f b
  | _, _ => s.finish mb k eArg []

/-- Test codes of HARROW_RUN (R261). -/
def preserving (code : Nat) : Bool := code == 1 || code == 2

/-- HARROW_RUN_PRESERVING (R262): the test starts; it takes its stripes one by one (HARROW_STRIPE_LEASE). -/
def execHarrowRunPreserving (mb : Fin 16) (k : BitVec 16) (s : State) : Out :=
  .next (
    match s.cmd? mb k 0x0602 with
    | none => s
    | some c =>
      let code := c.args[2].toNat
      if destructive code ∨ c.started then s
      else if !preserving code then s.finish mb k eArg []
      else
        s.onBank mb k c fun f b =>
          if s.fields[f].banks[b].st = .harrow ∨ s.fields[f].banks[b].st = .retired then s.finish mb k eState [] else s.start mb k)

/-- The preserving test in execution on a bank, with its mailbox. -/
def State.preservingOn (s : State) (f : Fin 4) (b : Fin 32) : Option (Fin 16 × ActiveCmd) :=
  (allFin 16).findSome? fun m =>
    (s.mailboxes[m].active.find? fun c =>
      c.started && c.opcode == 0x0602 && preserving c.args[2].toNat && c.args[0].toNat == f.val && c.args[1].toNat == b.val).map
      fun c => (m, c)

/-- Whether a hold of an engine is in force on a bank (R130). -/
def State.bankPinned (s : State) (f : Fin 4) (b : Fin 32) : Bool := (fieldEngines f).any fun g => s.engines[g].hold == some b

/-- A word of a leased stripe: a correctable error is corrected, and the restore writes it back; an uncorrectable one stays (R262, R491). -/
def State.leaseWord (s : State) (f : Fin 4) (a : Nat) : State :=
  let e := s.eccAt f a
  let s := (s.noteRead f a 1).1
  if e = some .corr then
    (s.setEcc f a none).updBank f (bankOf a) fun B => { B with gleanQ := B.gleanQ.filter fun w => decide (w ≠ wordOf a) }
  else s

/-- Rows of a stripe that fail, each with the physical row that serves it (R261, R262). -/
def Bank.failsIn (B : Bank) (stripe : Nat) (failing : List Nat) : List (Nat × Nat) :=
  ((List.range 8).map fun i =>
    let r := 8 * stripe + i
    (r, match B.spareOf r with
      | some i => 1024 + i
      | none => r)).filter fun e => decide (e.2 ∈ failing)

/-- One stripe of a preserving test: its words read and restored, failing rows recorded and flagged (R262, R266). -/
def State.leaseStripe (s : State) (f : Fin 4) (b : Fin 32) (stripe : Nat) (failing : List Nat) : State :=
  let s := (List.range 64).foldl (fun (s : State) (i : Nat) => s.leaseWord f (b.val * 131072 + stripe * 1024 + 16 * i)) s
  (s.fields[f].banks[b].failsIn stripe failing).foldl (fun (s : State) (e : Nat × Nat) =>
    (s.log 4 4 (some f) b.val (nw e.2) 0).flagRow f (b.val * 131072 + e.1 * 128)) s

/-- HARROW_STRIPE_LEASE (R262): the next stripe of the test in execution on the bank; after the last one the command completes. -/
def execHarrowStripeLease (f : Fin 4) (b : Fin 32) (failing : List Nat) (s : State) : Out :=
  .next (
    match s.preservingOn f b with
    | none => s
    | some (mb, c) =>
      let st := s.fields[f].banks[b].st
      if !(st == .free || st == .owned) ∨ s.bankPinned f b then s
      else
        let bad := match s.fields[f].banks[b].failsIn c.num failing with
          | e :: _ => if c.bad = 0 then e.2 + 1 else c.bad
          | [] => c.bad
        let t := s.leaseStripe f b c.num failing
        if c.num + 1 < 128 then t.updCmd mb c.k fun c => { c with num := c.num + 1, bad := bad }
        else t.finish mb c.k eOk (if bad = 0 then [0, 0xFFFFFFFF] else [1, nw (bad - 1)]))

/-- What a command does with a bank that must be vacated first (R263, R267): FREE at once, OWNED after its furrows have left. -/
def State.vacated (s : State) (mb : Fin 16) (k : BitVec 16) (f : Fin 4) (b : Fin 32) (h : State) : State :=
  match s.fields[f].banks[b].st with
  | .free => h
  | .owned =>
    match s.vacateBank f b with
    | some t => t.start mb k
    | none => s.finish mb k eNoResource []
  | .handover => s.start mb k
  | .harrow => s.finish mb k eState []
  | .retired => h

/-- HARROW_RUN_DESTRUCTIVE (R263): RESULT0 and RESULT1 tell the test asked for; a RETIRED bank is tested as it stands. Before the first
commit it ends with E_STATE (log 61, DESIGN CHOICE). -/
def execHarrowRunDestructive (mb : Fin 16) (k : BitVec 16) (failing : List Nat) (again : Bool) (s : State) : Out :=
  .next (
    match s.cmd? mb k 0x0602 with
    | none => s
    | some c =>
      if preserving c.args[2].toNat then s
      else if !destructive c.args[2].toNat then s.finish mb k eArg []
      else if !s.sup.firstCommit then s.finish mb k eState []
      else
        s.onBank mb k c fun f b =>
          s.vacated mb k f b
            ((s.destructiveTest f b failing again).1.finish mb k eOk [if failing.isEmpty then 0 else 1, firstFailing failing]))

/-- BANK_REPAIR_RETIRE (R267). -/
def execBankRepairRetire (mb : Fin 16) (k : BitVec 16) (s : State) : Out :=
  .next (
    match s.cmd? mb k 0x0807 with
    | none => s
    | some c =>
      if 2 ≤ c.args[2].toNat then s.finish mb k eArg []
      else if c.args[2].toNat ≠ 0 then s
      else s.onBank mb k c fun f b => s.vacated mb k f b ((s.retireBank f b).finish mb k eOk []))

/-- A repair of a FREE bank: flagged rows first, then the destructive test; whether the bank is FREE after it (R263, R266). Flagged rows for
which the spares do not suffice are recorded (R267). -/
def State.repairBank (s : State) (f : Fin 4) (b : Fin 32) (failing : List Nat) (again : Bool) : State × Bool :=
  let r := s.remapFlagged f b
  if r.2 then r.1.destructiveTest f b failing again else (r.1.logRows f b (s.flaggedRows f b), false)

/-- BANK_REPAIR_REMAP (R263, R267, R268): a RETIRED bank is left to HARROW_RUN; before the first commit it ends with E_STATE (log 61, DESIGN
CHOICE). -/
def execBankRepairRemap (mb : Fin 16) (k : BitVec 16) (failing : List Nat) (again : Bool) (s : State) : Out :=
  .next (
    match s.cmd? mb k 0x0807 with
    | none => s
    | some c =>
      if 2 ≤ c.args[2].toNat then s.finish mb k eArg []
      else if c.args[2].toNat ≠ 1 then s
      else
        s.onBank mb k c fun f b =>
          if s.fields[f].banks[b].st = .retired ∨ !s.sup.firstCommit then s.finish mb k eState []
          else
            let r := s.repairBank f b failing again
            s.vacated mb k f b (if r.2 then r.1.finish mb k eOk [] else r.1.finish mb k eHw []))

end Sys2Proof.Machine
end

