-- ==== Sys2Proof/Machine/Dispatch.lean ====
section
/-! DEFINITION. The meaning of each command, one arm per constructor (log 1, DESIGN CHOICE). -/

namespace Sys2Proof.Machine

/-- The effect of a command on everything but the queue. -/
def exec (i : Instr) (s : State) : Host.Outcome State Fault Refusal :=
  match i with
  | .cmdTailDoorbell rid mb tail => Sys2Proof.Machine.execCmdTailDoorbell rid mb tail s
  | .descriptorFetch r => Sys2Proof.Machine.execDescriptorFetch r s
  | .completionRecordWrite mb resp => Sys2Proof.Machine.execCompletionRecordWrite mb resp s
  | .ringAccessRetry mb r => Sys2Proof.Machine.execRingAccessRetry mb r s
  | .mailboxEnable rid mb v => Sys2Proof.Machine.execMailboxEnable rid mb v s
  | .mailboxDisable rid mb v => Sys2Proof.Machine.execMailboxDisable rid mb v s
  | .cplHeadWrite rid mb head => Sys2Proof.Machine.execCplHeadWrite rid mb head s
  | .mailboxHoldoffExpiry mb => Sys2Proof.Machine.execMailboxHoldoffExpiry mb s
  | .identify mb k => Sys2Proof.Machine.execIdentify mb k s
  | .versions mb k resp => Sys2Proof.Machine.execVersions mb k resp s
  | .certRead mb k resp => Sys2Proof.Machine.execCertRead mb k resp s
  | .attest mb k resp => Sys2Proof.Machine.execAttest mb k resp s
  | .stageOpen mb k => Sys2Proof.Machine.execStageOpen mb k s
  | .stageWrite mb k buf => Sys2Proof.Machine.execStageWrite mb k buf s
  | .stageRead mb k resp => Sys2Proof.Machine.execStageRead mb k resp s
  | .stageAbort mb k => Sys2Proof.Machine.execStageAbort mb k s
  | .sealGet mb k => Sys2Proof.Machine.execSealGet mb k s
  | .commit mb k => Sys2Proof.Machine.execCommit mb k s
  | .furrowCreate mb k buf => Sys2Proof.Machine.execFurrowCreate mb k buf s
  | .furrowStart mb k code => Sys2Proof.Machine.execFurrowStart mb k code s
  | .furrowStop mb k => Sys2Proof.Machine.execFurrowStop mb k s
  | .furrowDestroy mb k => Sys2Proof.Machine.execFurrowDestroy mb k s
  | .furrowQuery mb k => Sys2Proof.Machine.execFurrowQuery mb k s
  | .furrowSignal mb k answer => Sys2Proof.Machine.execFurrowSignal mb k answer s
  | .restore mb k answer => Sys2Proof.Machine.execRestore mb k answer s
  | .furrowMove mb k => Sys2Proof.Machine.execFurrowMove mb k s
  | .planWrite mb k buf => Sys2Proof.Machine.execPlanWrite mb k buf s
  | .planRead mb k resp => Sys2Proof.Machine.execPlanRead mb k resp s
  | .planStatus mb k => Sys2Proof.Machine.execPlanStatus mb k s
  | .policySet mb k => Sys2Proof.Machine.execPolicySet mb k s
  | .imageLoadCustomerMicrocode mb k buf readback => Sys2Proof.Machine.execImageLoadCustomerMicrocode mb k buf readback s
  | .imageLoadSupervisorFirmware mb k buf readback => Sys2Proof.Machine.execImageLoadSupervisorFirmware mb k buf readback s
  | .imageQuery mb k => Sys2Proof.Machine.execImageQuery mb k s
  | .ledgerRead mb k resp => Sys2Proof.Machine.execLedgerRead mb k resp s
  | .harrowRunPreserving mb k => Sys2Proof.Machine.execHarrowRunPreserving mb k s
  | .harrowRunDestructive mb k failing again => Sys2Proof.Machine.execHarrowRunDestructive mb k failing again s
  | .engineTest mb k code pass => Sys2Proof.Machine.execEngineTest mb k code pass s
  | .fieldWalk mb k => Sys2Proof.Machine.execFieldWalk mb k s
  | .eventWait mb k => Sys2Proof.Machine.execEventWait mb k s
  | .eventWaitCompletion mb k => Sys2Proof.Machine.execEventWaitCompletion mb k s
  | .eventWaitTimeout mb k => Sys2Proof.Machine.execEventWaitTimeout mb k s
  | .statusRead mb k resp => Sys2Proof.Machine.execStatusRead mb k resp s
  | .tallyRead mb k resp => Sys2Proof.Machine.execTallyRead mb k resp s
  | .powerRead mb k => Sys2Proof.Machine.execPowerRead mb k s
  | .lineRead mb k resp => Sys2Proof.Machine.execLineRead mb k resp s
  | .mailboxGrant mb k => Sys2Proof.Machine.execMailboxGrant mb k s
  | .mailboxRevoke mb k => Sys2Proof.Machine.execMailboxRevoke mb k s
  | .rateDeclare mb k => Sys2Proof.Machine.execRateDeclare mb k s
  | .fieldDrain mb k => Sys2Proof.Machine.execFieldDrain mb k s
  | .fieldPowerOff mb k => Sys2Proof.Machine.execFieldPowerOff mb k s
  | .fieldPowerOffRetained mb k => Sys2Proof.Machine.execFieldPowerOffRetained mb k s
  | .fieldPowerOn mb k => Sys2Proof.Machine.execFieldPowerOn mb k s
  | .fieldPowerTimeout mb k => Sys2Proof.Machine.execFieldPowerTimeout mb k s
  | .engineRetire mb k => Sys2Proof.Machine.execEngineRetire mb k s
  | .bankRepairRetire mb k => Sys2Proof.Machine.execBankRepairRetire mb k s
  | .bankRepairRemap mb k failing again => Sys2Proof.Machine.execBankRepairRemap mb k failing again s
  | .resetColdCommand mb k => Sys2Proof.Machine.execResetColdCommand mb k s
  | .resetWarmCommand mb k => Sys2Proof.Machine.execResetWarmCommand mb k s
  | .resetFieldCommand mb k => Sys2Proof.Machine.execResetFieldCommand mb k s
  | .debugChallenge mb k resp => Sys2Proof.Machine.execDebugChallenge mb k resp s
  | .debugOpen mb k buf => Sys2Proof.Machine.execDebugOpen mb k buf s
  | .debugClose mb k => Sys2Proof.Machine.execDebugClose mb k s
  | .guardKeyWrite rid v => Sys2Proof.Machine.execGuardKeyWrite rid v s
  | .guardUnlockExpiry rid => Sys2Proof.Machine.execGuardUnlockExpiry rid s
  | .swResetWarm rid => Sys2Proof.Machine.execSwResetWarm rid s
  | .swResetCold rid => Sys2Proof.Machine.execSwResetCold rid s
  | .sealRefWrite rid v => Sys2Proof.Machine.execSealRefWrite rid v s
  | .idxAddrWrite rid p v => Sys2Proof.Machine.execIdxAddrWrite rid p v s
  | .idxDataRead rid p => Sys2Proof.Machine.execIdxDataRead rid p s
  | .idxDataWrite rid p v => Sys2Proof.Machine.execIdxDataWrite rid p v s
  | .idxWriteCompletion p => Sys2Proof.Machine.execIdxWriteCompletion p s
  | .fldAckWrite rid v => Sys2Proof.Machine.execFldAckWrite rid v s
  | .almAckWrite rid ix v => Sys2Proof.Machine.execAlmAckWrite rid ix v s
  | .interruptMessageWrite src => Sys2Proof.Machine.execInterruptMessageWrite src s
  | .tbLoRead rid => Sys2Proof.Machine.execTbLoRead rid s
  | .atnCapRead w n => Sys2Proof.Machine.execAtnCapRead w n s
  | .registerWrite rid addr size v => Sys2Proof.Machine.execRegisterWrite rid addr size v s
  | .startOk => Sys2Proof.Machine.execStartOk s
  | .startDeadlineExpiry => Sys2Proof.Machine.execStartDeadlineExpiry s
  | .powerOnDetect => Sys2Proof.Machine.execPowerOnDetect s
  | .blkRstNAssert ns => Sys2Proof.Machine.execBlkRstNAssert ns s
  | .socBrnoutAssert high => Sys2Proof.Machine.execSocBrnoutAssert high s
  | .coldReset cause => Sys2Proof.Machine.execColdReset cause s
  | .warmReset cause => Sys2Proof.Machine.execWarmReset cause s
  | .fieldReset f cause => Sys2Proof.Machine.execFieldReset f cause s
  | .engineReset g cause => Sys2Proof.Machine.execEngineReset g cause s
  | .fabricDrainCompletion f => Sys2Proof.Machine.execFabricDrainCompletion f s
  | .resetRelease t conv defects => Sys2Proof.Machine.execResetRelease t conv defects s
  | .supervisorBoot img => Sys2Proof.Machine.execSupervisorBoot img s
  | .fallowPassThroughStart => Sys2Proof.Machine.execFallowPassThroughStart s
  | .fallowPassThroughPacket data => Sys2Proof.Machine.execFallowPassThroughPacket data s
  | .retainedConfigApply f => Sys2Proof.Machine.execRetainedConfigApply f s
  | .seedProgramPulseCompletion => Sys2Proof.Machine.execSeedProgramPulseCompletion s
  | .memKeepAckRise => Sys2Proof.Machine.execMemKeepAckRise s
  | .pwrEngOkChange f up => Sys2Proof.Machine.execPwrEngOkChange f up s
  | .fieldUndervoltage f => Sys2Proof.Machine.execFieldUndervoltage f s
  | .dormantEntry => Sys2Proof.Machine.execDormantEntry s
  | .dormantExit => Sys2Proof.Machine.execDormantExit s
  | .clockFault c => Sys2Proof.Machine.execClockFault c s
  | .clockRecovery c => Sys2Proof.Machine.execClockRecovery c s
  | .lfModeExit => Sys2Proof.Machine.execLfModeExit s
  | .ptpPpsEdge sec valid => Sys2Proof.Machine.execPtpPpsEdge sec valid s
  | .ppsHoldTimeout => Sys2Proof.Machine.execPpsHoldTimeout s
  | .timerMatch n => Sys2Proof.Machine.execTimerMatch n s
  | .timerWriteLanding n => Sys2Proof.Machine.execTimerWriteLanding n s
  | .atnCtlWrite w n v => Sys2Proof.Machine.execAtnCtlWrite w n v s
  | .capnow w n => Sys2Proof.Machine.execCapnow w n s
  | .timerCapture n => Sys2Proof.Machine.execTimerCapture n s
  | .almStart w mask => Sys2Proof.Machine.execAlmStart w mask s
  | .almStop w mask => Sys2Proof.Machine.execAlmStop w mask s
  | .wdsExpiry => Sys2Proof.Machine.execWdsExpiry s
  | .wdfExpiry f => Sys2Proof.Machine.execWdfExpiry f s
  | .fieldHeartbeat f => Sys2Proof.Machine.execFieldHeartbeat f s
  | .watchdogFreezeEnd w => Sys2Proof.Machine.execWatchdogFreezeEnd w s
  | .sealPass => Sys2Proof.Machine.execSealPass s
  | .ledgerRecordAccept => Sys2Proof.Machine.execLedgerRecordAccept s
  | .queueMessage f seq crcOk => Sys2Proof.Machine.execQueueMessage f seq crcOk s
  | .queueMessageRetry f seq => Sys2Proof.Machine.execQueueMessageRetry f seq s
  | .loadMonitorWindow g used => Sys2Proof.Machine.execLoadMonitorWindow g used s
  | .rebalance f => Sys2Proof.Machine.execRebalance f s
  | .dozeEntry g => Sys2Proof.Machine.execDozeEntry g s
  | .migrationPrepare fid => Sys2Proof.Machine.execMigrationPrepare fid s
  | .migrationQuiesce fid => Sys2Proof.Machine.execMigrationQuiesce fid s
  | .migrationQuiesceAbort fid => Sys2Proof.Machine.execMigrationQuiesceAbort fid s
  | .migrationCapture fid => Sys2Proof.Machine.execMigrationCapture fid s
  | .migrationRepoint fid => Sys2Proof.Machine.execMigrationRepoint fid s
  | .migrationTransfer fid failed => Sys2Proof.Machine.execMigrationTransfer fid failed s
  | .migrationResume fid blackoutNs => Sys2Proof.Machine.execMigrationResume fid blackoutNs s
  | .bankHandoverCompletion f b => Sys2Proof.Machine.execBankHandoverCompletion f b s
  | .planTransition kind subject => Sys2Proof.Machine.execPlanTransition kind subject s
  | .engineRetirement g code => Sys2Proof.Machine.execEngineRetirement g code s
  | .coldRestart fid code => Sys2Proof.Machine.execColdRestart fid code s
  | .twinSelectorDecision f hdr fid => Sys2Proof.Machine.execTwinSelectorDecision f hdr fid s
  | .remoteTwinCopyArrival f fid hdr src ord => Sys2Proof.Machine.execRemoteTwinCopyArrival f fid hdr src ord s
  | .ingressPacket f p => Sys2Proof.Machine.execIngressPacket f p s
  | .egressCreditGrant f => Sys2Proof.Machine.execEgressCreditGrant f s
  | .egressFrameSend f q => Sys2Proof.Machine.execEgressFrameSend f q s
  | .ringDoorbell fid hdr => Sys2Proof.Machine.execRingDoorbell fid hdr s
  | .fabricReadResponse f id r => Sys2Proof.Machine.execFabricReadResponse f id r s
  | .fabricWriteResponse f id resp => Sys2Proof.Machine.execFabricWriteResponse f id resp s
  | .fabricTimeout f id => Sys2Proof.Machine.execFabricTimeout f id s
  | .moverDescriptorStart fid => Sys2Proof.Machine.execMoverDescriptorStart fid s
  | .moverCompletion fid idx => Sys2Proof.Machine.execMoverCompletion fid idx s
  | .bridgeGrant => Sys2Proof.Machine.execBridgeGrant s
  | .drillWord f d pins => Sys2Proof.Machine.execDrillWord f d pins s
  | .drillWaitCompletion f d => Sys2Proof.Machine.execDrillWaitCompletion f d s
  | .drillStallEnd f d => Sys2Proof.Machine.execDrillStallEnd f d s
  | .drillProgramRewrite f a => Sys2Proof.Machine.execDrillProgramRewrite f a s
  | .stop w d group => Sys2Proof.Machine.execStop w d group s
  | .resume w d group => Sys2Proof.Machine.execResume w d group s
  | .clean w d group => Sys2Proof.Machine.execClean w d group s
  | .park w d group => Sys2Proof.Machine.execPark w d group s
  | .drillRunRegisterWrite w d r v => Sys2Proof.Machine.execDrillRunRegisterWrite w d r v s
  | .drxDataRead w d => Sys2Proof.Machine.execDrxDataRead w d s
  | .dtxDataWrite w d v => Sys2Proof.Machine.execDtxDataWrite w d v s
  | .txFeederFrame f d => Sys2Proof.Machine.execTxFeederFrame f d s
  | .rxFeederTransfer f d => Sys2Proof.Machine.execRxFeederTransfer f d s
  | .gleanerScrubRead f => Sys2Proof.Machine.execGleanerScrubRead f s
  | .gleanerRewrite f b => Sys2Proof.Machine.execGleanerRewrite f b s
  | .controlStoreRewrite g a => Sys2Proof.Machine.execControlStoreRewrite g a s
  | .harrowStripeLease f b failing => Sys2Proof.Machine.execHarrowStripeLease f b failing s
  | .supervisionCycle f obs => Sys2Proof.Machine.execSupervisionCycle f obs s
  | .linePost3 g v => Sys2Proof.Machine.execLinePost3 g v s
  | .linePostReceive f => Sys2Proof.Machine.execLinePostReceive f s
  | .lineStaleTimeout zone => Sys2Proof.Machine.execLineStaleTimeout zone s
  | .lineDisagreeTimeout zone line => Sys2Proof.Machine.execLineDisagreeTimeout zone line s
  | .walkStep zone dwells => Sys2Proof.Machine.execWalkStep zone dwells s
  | .walkYield zone => Sys2Proof.Machine.execWalkYield zone s
  | .walkRewalk zone => Sys2Proof.Machine.execWalkRewalk zone s
  | .fieldWalkTimeout mb k => Sys2Proof.Machine.execFieldWalkTimeout mb k s
  | .tallyDump => Sys2Proof.Machine.execTallyDump s
  | .bandwidthWindow f p => Sys2Proof.Machine.execBandwidthWindow f p s
  | .tallySample g pc latency => Sys2Proof.Machine.execTallySample g pc latency s
  | .agingMeasurement g slack => Sys2Proof.Machine.execAgingMeasurement g slack s
  | .halt t => Sys2Proof.Machine.execHalt t s
  | .run t => Sys2Proof.Machine.execRun t s
  | .step t => Sys2Proof.Machine.execStep t s
  | .ercRdataWrite t v => Sys2Proof.Machine.execErcRdataWrite t v s
  | .debugResetEngine g => Sys2Proof.Machine.execDebugResetEngine g s
  | .debugResetField f => Sys2Proof.Machine.execDebugResetField f s
  | .debugResetWarm => Sys2Proof.Machine.execDebugResetWarm s
  | .debugResetCold => Sys2Proof.Machine.execDebugResetCold s
  | .dmmRead => Sys2Proof.Machine.execDmmRead s
  | .dmmWrite => Sys2Proof.Machine.execDmmWrite s
  | .provCmd v => Sys2Proof.Machine.execProvCmd v s
  | .dbgFreezeWrite v => Sys2Proof.Machine.execDbgFreezeWrite v s
  | .bwCtlWrite f u v => Sys2Proof.Machine.execBwCtlWrite f u v s
  | .exceptionEntry g => Sys2Proof.Machine.execExceptionEntry g s
  | .headlandHandler g => Sys2Proof.Machine.execHeadlandHandler g s
  | .furrowSwitch g => Sys2Proof.Machine.execFurrowSwitch g s
  | .timeSliceExpiry g => Sys2Proof.Machine.execTimeSliceExpiry g s
  | .bankHoldTimeout g => Sys2Proof.Machine.execBankHoldTimeout g s
  | .customerWatchdogExpiry g => Sys2Proof.Machine.execCustomerWatchdogExpiry g s
  | .timeLoRead g => Sys2Proof.Machine.execTimeLoRead g s
  | .lda g gd x => Sys2Proof.Machine.execLda g gd x s
  | .ldas g gd x => Sys2Proof.Machine.execLdas g gd x s
  | .ldx g gd x => Sys2Proof.Machine.execLdx g gd x s
  | .ldxs g gd x => Sys2Proof.Machine.execLdxs g gd x s
  | .ldy g gd x => Sys2Proof.Machine.execLdy g gd x s
  | .ldys g gd x => Sys2Proof.Machine.execLdys g gd x s
  | .ldsp g gd x => Sys2Proof.Machine.execLdsp g gd x s
  | .ldah g gd x => Sys2Proof.Machine.execLdah g gd x s
  | .sta g gd x => Sys2Proof.Machine.execSta g gd x s
  | .stx g gd x => Sys2Proof.Machine.execStx g gd x s
  | .sty g gd x => Sys2Proof.Machine.execSty g gd x s
  | .stsp g gd x => Sys2Proof.Machine.execStsp g gd x s
  | .add g gd x => Sys2Proof.Machine.execAdd g gd x s
  | .adc g gd x => Sys2Proof.Machine.execAdc g gd x s
  | .sub g gd x => Sys2Proof.Machine.execSub g gd x s
  | .sbc g gd x => Sys2Proof.Machine.execSbc g gd x s
  | .and g gd x => Sys2Proof.Machine.execAnd g gd x s
  | .or g gd x => Sys2Proof.Machine.execOr g gd x s
  | .xor g gd x => Sys2Proof.Machine.execXor g gd x s
  | .cmp g gd x => Sys2Proof.Machine.execCmp g gd x s
  | .tst g gd x => Sys2Proof.Machine.execTst g gd x s
  | .mul g gd x => Sys2Proof.Machine.execMul g gd x s
  | .mulh g gd x => Sys2Proof.Machine.execMulh g gd x s
  | .mulhu g gd x => Sys2Proof.Machine.execMulhu g gd x s
  | .div g gd x => Sys2Proof.Machine.execDiv g gd x s
  | .divu g gd x => Sys2Proof.Machine.execDivu g gd x s
  | .rem g gd x => Sys2Proof.Machine.execRem g gd x s
  | .remu g gd x => Sys2Proof.Machine.execRemu g gd x s
  | .shl g gd x => Sys2Proof.Machine.execShl g gd x s
  | .shr g gd x => Sys2Proof.Machine.execShr g gd x s
  | .sar g gd x => Sys2Proof.Machine.execSar g gd x s
  | .ror g gd x => Sys2Proof.Machine.execRor g gd x s
  | .addx g gd x => Sys2Proof.Machine.execAddx g gd x s
  | .addy g gd x => Sys2Proof.Machine.execAddy g gd x s
  | .cmpx g gd x => Sys2Proof.Machine.execCmpx g gd x s
  | .cmpy g gd x => Sys2Proof.Machine.execCmpy g gd x s
  | .pset g gd x => Sys2Proof.Machine.execPset g gd x s
  | .pld g gd x => Sys2Proof.Machine.execPld g gd x s
  | .pst g gd x => Sys2Proof.Machine.execPst g gd x s
  | .addsp g gd x => Sys2Proof.Machine.execAddsp g gd x s
  | .br g gd x => Sys2Proof.Machine.execBr g gd x s
  | .call g gd x => Sys2Proof.Machine.execCall g gd x s
  | .callf g gd x => Sys2Proof.Machine.execCallf g gd x s
  | .calli g gd x => Sys2Proof.Machine.execCalli g gd x s
  | .retm g gd x => Sys2Proof.Machine.execRetm g gd x s
  | .retx g gd x => Sys2Proof.Machine.execRetx g gd x s
  | .trap g gd x => Sys2Proof.Machine.execTrap g gd x s
  | .brk g gd x => Sys2Proof.Machine.execBrk g gd x s
  | .sld g gd sr x => Sys2Proof.Machine.execSld g gd sr x s
  | .sst g gd sr x => Sys2Proof.Machine.execSst g gd sr x s
  | .mfpsw g gd x => Sys2Proof.Machine.execMfpsw g gd x s
  | .mtpsw g gd x => Sys2Proof.Machine.execMtpsw g gd x s
  | .rdprog g gd x => Sys2Proof.Machine.execRdprog g gd x s
  | .wrprog g gd x => Sys2Proof.Machine.execWrprog g gd x s
  | .mbar g gd x => Sys2Proof.Machine.execMbar g gd x s
  | .evwait g gd x => Sys2Proof.Machine.execEvwait g gd x s
  | .bankhold g gd x => Sys2Proof.Machine.execBankhold g gd x s
  | .bankfree g gd x => Sys2Proof.Machine.execBankfree g gd x s
  | .aadd g gd x => Sys2Proof.Machine.execAadd g gd x s
  | .aswap g gd x => Sys2Proof.Machine.execAswap g gd x s
  | .bmove g gd x => Sys2Proof.Machine.execBmove g gd x s
  | .bfill g gd x => Sys2Proof.Machine.execBfill g gd x s
  | .bcmp g gd x => Sys2Proof.Machine.execBcmp g gd x s
  | .crc32c g gd x => Sys2Proof.Machine.execCrc32c g gd x s
  | .vclr g gd x => Sys2Proof.Machine.execVclr g gd x s
  | .vsplat g gd x => Sys2Proof.Machine.execVsplat g gd x s
  | .vext g gd x => Sys2Proof.Machine.execVext g gd x s
  | .vins g gd x => Sys2Proof.Machine.execVins g gd x s
  | .vacc g gd x => Sys2Proof.Machine.execVacc g gd x s
  | .vopAdds g gd x => Sys2Proof.Machine.execVopAdds g gd x s
  | .vopSubs g gd x => Sys2Proof.Machine.execVopSubs g gd x s
  | .vopMin g gd x => Sys2Proof.Machine.execVopMin g gd x s
  | .vopMax g gd x => Sys2Proof.Machine.execVopMax g gd x s
  | .vopMulq g gd x => Sys2Proof.Machine.execVopMulq g gd x s
  | .vopAnd g gd x => Sys2Proof.Machine.execVopAnd g gd x s
  | .vopOr g gd x => Sys2Proof.Machine.execVopOr g gd x s
  | .vopXor g gd x => Sys2Proof.Machine.execVopXor g gd x s
  | .vopAdd g gd x => Sys2Proof.Machine.execVopAdd g gd x s
  | .vopSub g gd x => Sys2Proof.Machine.execVopSub g gd x s
  | .vopNeg g gd x => Sys2Proof.Machine.execVopNeg g gd x s
  | .vopAbs g gd x => Sys2Proof.Machine.execVopAbs g gd x s
  | .vmfs g gd x => Sys2Proof.Machine.execVmfs g gd x s
  | .vmts g gd x => Sys2Proof.Machine.execVmts g gd x s
  | .loadv g gd x => Sys2Proof.Machine.execLoadv g gd x s
  | .storev g gd x => Sys2Proof.Machine.execStorev g gd x s
  | .convin g gd x => Sys2Proof.Machine.execConvin g gd x s
  | .convout g gd x => Sys2Proof.Machine.execConvout g gd x s
  | .loadacc g gd x => Sys2Proof.Machine.execLoadacc g gd x s
  | .storeacc g gd x => Sys2Proof.Machine.execStoreacc g gd x s
  | .vmac g gd x => Sys2Proof.Machine.execVmac g gd x s
  | .vmix g gd x => Sys2Proof.Machine.execVmix g gd x s
  | .vfir g gd x => Sys2Proof.Machine.execVfir g gd x s
  | .customerInstruction g gd op x => Sys2Proof.Machine.execCustomerInstruction g gd op x s
  | .pairedWord g w => Sys2Proof.Machine.execPairedWord g w s
  | .vbakLoss => Sys2Proof.Machine.execVbakLoss s
  | .supervisorCriticalError kind => Sys2Proof.Machine.execSupervisorCriticalError kind s
  | .timeBaseIncrement => Sys2Proof.Machine.execTimeBaseIncrement s
  | .tracePortTransfer => Sys2Proof.Machine.execTracePortTransfer s
  | .registerRead rid addr size => Sys2Proof.Machine.execRegisterRead rid addr size s
  | .bootReadRetry img => Sys2Proof.Machine.execBootReadRetry img s
  | .hardwareReaderScrub => Sys2Proof.Machine.execHardwareReaderScrub s
  | .sowerTableRewrite f => Sys2Proof.Machine.execSowerTableRewrite f s
  | .escalationRunEnd fid => Sys2Proof.Machine.execEscalationRunEnd fid s
  | .debugNonceExpiry => Sys2Proof.Machine.execDebugNonceExpiry s
  | .ppsEdgeTimeout => Sys2Proof.Machine.execPpsEdgeTimeout s

end Sys2Proof.Machine
end

