-- ==== Sys2Proof/Sound.lean ====
section
/-! DEFINITION. What every command keeps in every state: the queue of waiting commands, the order of Plot's list, the bounds of the
Ledger (R113, R246, R378, R382, R384; log 1, DESIGN CHOICE). -/

namespace Sys2Proof.Machine

/-- A queue stands as it was (log 1, DESIGN CHOICE). Plot lists its bytes in rising order of their addresses, each within the four Fields of 4 MiB
(R113, R246). The Ledger holds at most 1,024 records (R382), LEDGER_FILL is at most 1,024 (R378), and each source's queue holds at most 4
records (R384). -/
structure Sound (q w : List Instr) (p : List Host.Cell) (L : Ledger) : Prop where
  queue : w = q
  sorted : mapSorted p
  bound : ∀ c ∈ p, c.1 < 16777216
  ring : L.ring.length ≤ 1024
  fill : L.fill ≤ 1024
  queues : ∀ c : Fin 15, L.queues[c].length ≤ 4

/-- The invariant of the block with the commands q waiting. -/
@[reducible] def Inv (q : List Instr) (s : State) : Prop := Sound q s.pending s.plot s.ledger

/-- A command answers a next state with the invariant. -/
@[reducible] def OutInv (q : List Instr) (o : Host.Outcome State Fault Refusal) : Prop :=
  match o with
  | .next t => Inv q t
  | .fault _ => False
  | .refused _ => False

end Sys2Proof.Machine
end

