-- ==== Sys2Proof/Safety.lean ====
section
/-! DEFINITION. What statements about commands speak of: safe steps, a word that issues undisturbed and what it leaves, operands that
are read, host commands in execution (logs 1, 3, DESIGN CHOICE). -/

namespace Sys2Proof.Machine

/-- A step answers a next state (log 1, DESIGN CHOICE). -/
def StepSafe (s : State) : Prop := ∃ t, step s = .next t

/-! Words of a stream engine -/

/-- The word at PC passes the checks of a fetch, and its Plot word has no error (R110, R142, R143). -/
structure Fetches (s : State) (g : Fin 96) (F : Furrow) (a : Nat) : Prop where
  checks : check3 F.extents (F.ctx.view.segAt (pswCsel F.ctx.view.psw)) (pswPriv F.ctx.view.psw) F.ctx.view.pc 4 4 false false true = none
  inPlot : place F.extents (F.ctx.view.segAt (pswCsel F.ctx.view.psw)) F.ctx.view.pc.toNat = .plot a
  here : s.handed g a = false
  owned : s.owns g a = true
  clean : s.eccAt (fieldOf g) a = none

/-- A word of furrow F may issue on engine g, whichever word it is (none has stalled), and nothing but the word acts: no break or watch
unit, no halt asked for, no check mismatch, no error in the dispatch tables or the microcode (R84, R199, R217, R425, R428, R456, R459). -/
structure Issues (s : State) (g : Fin 96) (F : Furrow) : Prop where
  issuer : ∀ w, s.issuer g w = some F
  noBreak : ∀ u : Fin 8, s.fields[fieldOf g].units[u].breakHit (localOf g) F.id F.ctx = false
  noWatch : ∀ u : Fin 8, bwKind s.fields[fieldOf g].units[u].ctl ≠ 2
  tables : s.engines[g].dispErr = none
  microcode : s.engines[g].csErr = []
  units : s.engines[g].mismatch = none
  noPend : s.engines[g].ctl.pend = false
  noStep : s.engines[g].ctl.stepping = false
  fetches : ∃ a, Fetches s g F a

/-- The registers after a word that worked on `w`: PC one word on, the load of the word before landed, its own load pending
(R119-R123). -/
def wordCtx (o w : Ctx) (ld : Option (BitVec 2 × Word)) : Ctx :=
  { Ctx.land o { w with pc := o.pc + 4 } ld with nosample := false }

/-- The registers after a control transfer to pc (R143). -/
def jumpCtx (o w : Ctx) (pc : Word) : Ctx :=
  { Ctx.land o { w with pc := pc } none with nosample := false }

/-- What a completed word of furrow F on engine g leaves of m (m: the state with the word's stores): registers c, Sheaf state h, the
phase p; the furrow waits for nothing. Every other furrow, every other engine, the Fields, Plot and all the rest stand as in
m, but for the word's own count in Tally and what the trace port takes (R119, R464, R469). -/
structure WordDone (m t : State) (g : Fin 96) (F : Furrow) (c : Ctx) (h : Sheaf) (p : Phase) : Prop where
  rest : t = { m with furrows := t.furrows, engines := t.engines, tally := t.tally, dbg := t.dbg }
  dbg : t.dbg = { m.dbg with trcLostFull := t.dbg.trcLostFull }
  mine : t.furrow? F.id = some { F with ctx := c, waitMask := none, mbar := false }
  others : ∀ id, id ≠ F.id → t.furrow? id = m.furrow? id
  engine : t.engines[g] = { m.engines[g] with
    sheaf := h, data := [], beat := true, micro := none, phase := p, ctl := { m.engines[g].ctl with skipBreak := false }
    traceWords := t.engines[g].traceWords, trace := t.engines[g].trace, traceLost := t.engines[g].traceLost
    traceSync := t.engines[g].traceSync, traceCount := t.engines[g].traceCount }
  engines : ∀ k : Fin 96, k ≠ g → t.engines[k] = m.engines[k]
  counts : ∀ k, k ≠ tallyKey 2 (g.val * 9 + 2) → mapGet 0 k t.tally = mapGet 0 k m.tally

/-- The word of furrow F on engine g raises a vector: its registers, its Sheaf state, Plot and all the rest stand as before the word; the
engine holds the fault with the word's PC for the entry (R199, R203, R204). -/
structure WordFaults (s t : State) (g : Fin 96) (F : Furrow) (v : Nat) : Prop where
  rest : t = { s with engines := t.engines }
  mine : t.furrow? F.id = some F
  fault : ∃ e : EngFault, t.engines[g].phase = .faulted e ∧ e.vector.toNat = v ∧ e.pc = F.ctx.pc
  sheaf : t.engines[g].sheaf = s.engines[g].sheaf
  engines : ∀ k : Fin 96, k ≠ g → t.engines[k] = s.engines[k]

/-- An explicit operand read with a value and nothing else changed: immediate, Plot, an engine-local register or fabric data that has
arrived; no error stands in the words read (R135, R136). -/
def Reads (s : State) (g : Fin 96) (F : Furrow) (x : BitVec 19) (signed : Bool) (v : Word) : Prop :=
  ∃ y : Ex, operand x signed (enter s g F) = .ok v y ∧
    y = { enter s g F with acc := y.acc, data := y.data }

/-- The Plot address that a memory operand of len bytes names, its checks passed (R110, R135). -/
structure Names (s : State) (g : Fin 96) (F : Furrow) (x : BitVec 19) (len : Nat) (r w : Bool) (a : Nat) : Prop where
  mode : xMode x ≠ 0
  checks : check3 F.extents (F.ctx.view.segAt (xSeg x)) (pswPriv F.ctx.view.psw) (memOffset F.ctx.view x len) len len r w false = none
  inPlot : place F.extents (F.ctx.view.segAt (xSeg x)) (memOffset F.ctx.view x len).toNat = .plot a
  here : s.handed g a = false
  owned : s.owns g a = true
  clean : s.eccAt (fieldOf g) a = none

/-- PSW with flags written; none leaves a flag as it was (R104, R146). -/
def putFlags (p : Word) (c z n v : Option Bool) : Word := setFlags p { val := 0, c := c, z := z, n := n, v := v }

/-- A word completes with registers c and the Sheaf state as it was: nothing else changes but its bookkeeping (R119, R138). -/
def Completes (i : Instr) (s : State) (g : Fin 96) (F : Furrow) (c : Ctx) : Prop :=
  ∃ t, exec i s = .next t ∧ WordDone s t g F c s.engines[g].sheaf .ready

/-- A word completes with Sheaf state h and has stored the bytes l at Plot address a of the engine's Field: they read back as a store of the
furrow leaves them (in its port and drill blocks only what its stores may change there), every other byte of Plot reads as before, and
doorbells that the store rings wait in the furrow (R117, R119, R276, R277). -/
def StoresWith (i : Instr) (s : State) (g : Fin 96) (F : Furrow) (c : Ctx) (h : Sheaf) (a : Nat) (l : List Byte) : Prop :=
  ∃ t d, exec i s = .next t ∧
    WordDone { s with plot := t.plot } t g { F with doorbells := F.doorbells ++ d } c h .ready ∧
    (∀ j, j < l.length → t.plotByte (fieldOf g) (a + j) = (s.stored F (fieldOf g) a l).getD j 0) ∧
    (∀ f b, (∀ j, j < l.length → plotKey f b ≠ plotKey (fieldOf g) (a + j)) → t.plotByte f b = s.plotByte f b)

/-- A word that stores and leaves the Sheaf state as it was. -/
def StoresAt (i : Instr) (s : State) (g : Fin 96) (F : Furrow) (c : Ctx) (a : Nat) (l : List Byte) : Prop :=
  StoresWith i s g F c s.engines[g].sheaf a l

/-- len bytes at an offset of a segment register that lie in Plot at address a, allowed and aligned, in banks of the engine, with no
error in a word of them (R110, R118, R259). -/
structure Span (s : State) (g : Fin 96) (F : Furrow) (i : BitVec 3) (off : Word) (len align : Nat) (r w : Bool) (a : Nat) : Prop where
  rights : (r = true → (F.ctx.view.segAt i).r = true) ∧ (w = true → (F.ctx.view.segAt i).w = true) ∧
    ((F.ctx.view.segAt i).sup = true → pswPriv F.ctx.view.psw = true)
  aligned : a % align = 0
  limit : off.toNat + len ≤ (F.ctx.view.segAt i).limit.toNat
  inPlot : place F.extents (F.ctx.view.segAt i) off.toNat = .plot a
  here : ∀ j, j < len → s.handed g (a + j) = false
  owned : ∀ j, j < len → s.owns g (a + j) = true
  clean : ∀ j, j < len → s.eccAt (fieldOf g) (a + j) = none ∧ wordOf (a + j) ∉ s.fields[fieldOf g].known

/-- A word that ends as Completes says but in what m differs from s before the word's bookkeeping (a hold, free values, a turn). -/
def CompletesOn (m : State) (i : Instr) (s : State) (g : Fin 96) (F : Furrow) (c : Ctx) (h : Sheaf) : Prop :=
  ∃ t, exec i s = .next t ∧ WordDone m t g F c h .ready

/-! Commands of a mailbox -/

/-- Command c of descriptor index k is the mailbox's only one with that index, has the opcode op and may run, its buffer within reach;
`rest` are the others in execution (R46, R69, R287). -/
structure Runs (s : State) (mb : Fin 16) (k : BitVec 16) (op : Nat) (c : ActiveCmd) (rest : List ActiveCmd) : Prop where
  serves : s.supServes = true
  first : takeFirst (fun d => d.k == k) s.mailboxes[mb].active = some (c, rest)
  only : ∀ d ∈ rest, d.k ≠ k
  opcode : c.opcode = BitVec.ofNat 16 op
  starts : c.going = true ∨ s.mailboxes[mb].mayStart c = true
  reaches : s.bufWaits c = false

/-- The command has ended in t: it is in execution no more, and its record with a status and four results waits to be written; nothing
else of the mailboxes differs from m, but for the buffer that left and the requests that read or wrote it (R33, R49, R51, R73). -/
structure Ends (m t : State) (mb : Fin 16) (c : ActiveCmd) (rest : List ActiveCmd) (status : Nat) (r : List Word)
    (reset : Option Bool) : Prop where
  mine : t.mailboxes[mb] = { m.mailboxes[mb] with
    active := rest, records := m.mailboxes[mb].records ++ [cplOf c.tag status c.k c.opcode r reset]
    recent := (cplOf c.tag status c.k c.opcode r reset :: m.mailboxes[mb].recent).take 64, bufOut := t.mailboxes[mb].bufOut
    reqs := t.mailboxes[mb].reqs }
  others : ∀ n : Fin 16, n ≠ mb → t.mailboxes[n] = m.mailboxes[n]

/-- The command ends and changes nothing but its mailbox. -/
def EndsAlone (i : Instr) (s : State) (mb : Fin 16) (c : ActiveCmd) (rest : List ActiveCmd) (status : Nat) (r : List Word) : Prop :=
  ∃ t, exec i s = .next t ∧ Ends s t mb c rest status r none ∧ t = { s with mailboxes := t.mailboxes } ∧
    t.mailboxes[mb].bufOut = s.mailboxes[mb].bufOut ∧ t.mailboxes[mb].reqs = s.mailboxes[mb].reqs

/-- The command ends and leaves m, changed by nothing but its mailbox. -/
def EndsOn (m : State) (i : Instr) (s : State) (mb : Fin 16) (c : ActiveCmd) (rest : List ActiveCmd) (status : Nat) (r : List Word) :
    Prop :=
  ∃ t, exec i s = .next t ∧ Ends m t mb c rest status r none ∧ t = { m with mailboxes := t.mailboxes }

/-- The command ends with its answer of bytes l written to its buffer, RESULT3 their CRC, and changes nothing but its mailbox (R51). -/
def Answers (i : Instr) (s : State) (mb : Fin 16) (c : ActiveCmd) (rest : List ActiveCmd) (l : List Byte) (r0 r1 r2 : Word) : Prop :=
  ∃ t, exec i s = .next t ∧ Ends s t mb c rest 0 [r0, r1, r2, crc32cOf l] none ∧ t = { s with mailboxes := t.mailboxes } ∧
    t.mailboxes[mb].bufOut = l

/-- The command starts or goes on, in execution as `h` leaves it, and changes nothing else. -/
def GoesOn (i : Instr) (s : State) (mb : Fin 16) (k : BitVec 16) (h : ActiveCmd → ActiveCmd) : Prop :=
  exec i s = .next (s.updCmd mb k h)

end Sys2Proof.Machine
end

