-- ==== Sys2Proof/Certificates/Slice0/Obligations.lean ====
section
/-! DEFINITION. The statements about the block, for the provers. -/

open Sys2Proof Sys2Proof.Machine

/-! Words of the stream engines: loads, stores, arithmetic (R146-R150) -/

/-- R147: a load copies its operand to the register; a memory form writes it under the load delay of R120 (LDP, LDD, old value kept),
an immediate at once; LDAH places the immediate in the high bits. Nothing else changes.
R147, R150: a store writes the low bytes of its register, PST the image of P1-P7, to the memory operand in Plot; every other byte of
Plot and every register but PC stands.
R135, R136, R117: the explicit operand: in mode 0 IMM sign-extended to 32 bits; in modes 1 to 3 the value of SIZE at DISP scaled, or X or
Y plus it, in the named segment, little-endian, extended by zero or by sign. -/
def Obligations.LoadsAndStores : Prop :=
  (∀ (s : State) (g : Fin 96) (F : Furrow) (gd : Guard) (x : BitVec 19) (v : Word),
    Issues s g F → guardTrue F.ctx.view gd = true →
    let done (r : BitVec 2) : Ctx :=
      if xMode x = 0 then wordCtx F.ctx (F.ctx.view.setReg r v) none else wordCtx F.ctx F.ctx.view (some (r, v))
    (okIM x = true → Reads s g F x false v →
      Completes (.lda g gd x) s g F (done 0) ∧ Completes (.ldx g gd x) s g F (done 1) ∧ Completes (.ldy g gd x) s g F (done 2)) ∧
    (okIM x = true → Reads s g F x true v →
      Completes (.ldas g gd x) s g F (done 0) ∧ Completes (.ldxs g gd x) s g F (done 1) ∧ Completes (.ldys g gd x) s g F (done 2)) ∧
    (okIMw x = true → Reads s g F x false v → Completes (.ldsp g gd x) s g F (done 3)) ∧
    (okI x = true → Completes (.ldah g gd x) s g F
      (wordCtx F.ctx { F.ctx.view with a := (xImm x).setWidth 32 <<< 15 } none))) ∧
  (∀ (s : State) (g : Fin 96) (F : Furrow) (gd : Guard) (x : BitVec 19) (a : Nat),
    Issues s g F → guardTrue F.ctx.view gd = true → mapSorted s.plot →
    Names s g F x (sizeBytes (xSize x)) false true a →
    let c := F.ctx.view
    let after := wordCtx F.ctx c none
    let n := sizeBytes (xSize x)
    (xSize x ≠ 3 →
      StoresAt (.sta g gd x) s g F after a ((bytes32 c.a).take n) ∧ StoresAt (.stx g gd x) s g F after a ((bytes32 c.x).take n) ∧
      StoresAt (.sty g gd x) s g F after a ((bytes32 c.y).take n)) ∧
    (xSize x = 2 →
      StoresAt (.stsp g gd x) s g F after a (bytes32 c.sp) ∧
      StoresAt (.pst g gd x) s g F after a (bytes32 ((c.p &&& 0xFE#8).setWidth 32)))) ∧
  (∀ (s : State) (g : Fin 96) (F : Furrow) (x : BitVec 19) (a : Nat) (sg : Bool),
    Issues s g F →
    let c := F.ctx.view
    let n := sizeBytes (xSize x)
    let l := s.plotBytes (fieldOf g) a n
    (xMode x = 0 → Reads s g F x sg ((x.extractLsb' 0 17 : BitVec 17).signExtend 32)) ∧
    (Names s g F x n true false a → xSize x ≠ 3 →
      let v : Word := if xSize x = 0 then (l.getD 0 0).setWidth 32 else if xSize x = 1 then (l.getD 1 0 ++ l.getD 0 0).setWidth 32
        else l.getD 3 0 ++ l.getD 2 0 ++ l.getD 1 0 ++ l.getD 0 0
      let w : Word := if xSize x = 0 then (l.getD 0 0).signExtend 32
        else if xSize x = 1 then (l.getD 1 0 ++ l.getD 0 0 : BitVec 16).signExtend 32 else v
      Reads s g F x sg (if sg then w else v)) ∧
    (xMode x = 1 → memOffset c x n = (x.extractLsb' 0 12 : BitVec 12).setWidth 32 * nw n) ∧
    (xMode x = 2 → memOffset c x n = c.x + (x.extractLsb' 0 12 : BitVec 12).setWidth 32 * nw n) ∧
    (xMode x = 3 → memOffset c x n = c.y + (x.extractLsb' 0 12 : BitVec 12).setWidth 32 * nw n))

/-- R146, R148, R150: ADD, ADC, SUB, SBC, ADDX, ADDY: the result modulo 2^32; C the carry out, or 1 without borrow; Z, N of the result; V
signed overflow.
R146, R148, R150: AND, OR, XOR write A and Z, N; TST writes Z, N alone; CMP, CMPX, CMPY write the four flags of a subtraction and no
register. -/
def Obligations.AddSubLogicCompare : Prop :=
  (∀ (s : State) (g : Fin 96) (F : Furrow) (gd : Guard) (x : BitVec 19) (v : Word),
    Issues s g F → guardTrue F.ctx.view gd = true → okIM x = true → Reads s g F x false v →
    let c := F.ctx.view
    let k := pswC c.psw
    let plus (a : Word) (i : Bool) (f : Word → Ctx) : Ctx :=
      let r := a + v + bit 32 i
      wordCtx F.ctx { f r with
        psw := putFlags c.psw (some (decide (2 ^ 32 ≤ a.toNat + v.toNat + i.toNat))) (some (r == 0)) (some r.msb)
          (some (decide (r.toInt ≠ a.toInt + v.toInt + i.toNat))) } none
    let minus (a : Word) (i : Bool) (f : Word → Ctx) : Ctx :=
      let r := a - v - bit 32 i
      wordCtx F.ctx { f r with
        psw := putFlags c.psw (some (decide (v.toNat + i.toNat ≤ a.toNat))) (some (r == 0)) (some r.msb)
          (some (decide (r.toInt ≠ a.toInt - v.toInt - i.toNat))) } none
    Completes (.add g gd x) s g F (plus c.a false fun r => { c with a := r }) ∧
    Completes (.adc g gd x) s g F (plus c.a k fun r => { c with a := r }) ∧
    Completes (.sub g gd x) s g F (minus c.a false fun r => { c with a := r }) ∧
    Completes (.sbc g gd x) s g F (minus c.a (!k) fun r => { c with a := r }) ∧
    Completes (.addx g gd x) s g F (plus c.x false fun r => { c with x := r }) ∧
    Completes (.addy g gd x) s g F (plus c.y false fun r => { c with y := r })) ∧
  (∀ (s : State) (g : Fin 96) (F : Furrow) (gd : Guard) (x : BitVec 19) (v : Word),
    Issues s g F → guardTrue F.ctx.view gd = true → okIM x = true → Reads s g F x false v →
    let c := F.ctx.view
    let zn (r : Word) (d : Ctx) : Ctx := wordCtx F.ctx { d with psw := putFlags c.psw none (some (r == 0)) (some r.msb) none } none
    let cmp (a : Word) : Ctx :=
      let r := a - v
      wordCtx F.ctx { c with
        psw := putFlags c.psw (some (decide (v.toNat ≤ a.toNat))) (some (r == 0)) (some r.msb)
          (some (decide (r.toInt ≠ a.toInt - v.toInt))) } none
    Completes (.and g gd x) s g F (zn (c.a &&& v) { c with a := c.a &&& v }) ∧
    Completes (.or g gd x) s g F (zn (c.a ||| v) { c with a := c.a ||| v }) ∧
    Completes (.xor g gd x) s g F (zn (c.a ^^^ v) { c with a := c.a ^^^ v }) ∧
    Completes (.tst g gd x) s g F (zn (c.a &&& v) c) ∧
    Completes (.cmp g gd x) s g F (cmp c.a) ∧ Completes (.cmpx g gd x) s g F (cmp c.x) ∧ Completes (.cmpy g gd x) s g F (cmp c.y))

/-- R148, R149: products; quotients and remainders for a divisor other than 0, DIV and REM setting V for 0x80000000 by -1 and clearing it otherwise; a
divisor of 0 raises vector 11 and leaves the registers as they were.
R148, R149: shifts and rotation by op[4:0]; C the last bit shifted out, the new bit 31 after ROR, unchanged for a count of 0. -/
def Obligations.MultiplyDivideShift : Prop :=
  (∀ (s : State) (g : Fin 96) (F : Furrow) (gd : Guard) (x : BitVec 19) (v : Word),
    Issues s g F → guardTrue F.ctx.view gd = true → okIM x = true → Reads s g F x false v →
    let c := F.ctx.view
    let res (r : Word) (o : Option Bool) : Ctx :=
      wordCtx F.ctx { c with a := r, psw := putFlags c.psw none (some (r == 0)) (some r.msb) o } none
    let corner := c.a == 0x80000000#32 && v == 0xFFFFFFFF#32
    Completes (.mul g gd x) s g F (res (c.a * v) none) ∧
    Completes (.mulh g gd x) s g F (res (BitVec.ofInt 32 (c.a.toInt * v.toInt / 2 ^ 32)) none) ∧
    Completes (.mulhu g gd x) s g F (res (BitVec.ofNat 32 (c.a.toNat * v.toNat / 2 ^ 32)) none) ∧
    (v ≠ 0 →
      Completes (.div g gd x) s g F (res (if corner then 0x80000000#32 else BitVec.ofInt 32 (c.a.toInt.tdiv v.toInt)) (some corner)) ∧
      Completes (.rem g gd x) s g F (res (if corner then 0 else BitVec.ofInt 32 (c.a.toInt.tmod v.toInt)) (some corner)) ∧
      Completes (.divu g gd x) s g F (res (BitVec.ofNat 32 (c.a.toNat / v.toNat)) none) ∧
      Completes (.remu g gd x) s g F (res (BitVec.ofNat 32 (c.a.toNat % v.toNat)) none)) ∧
    (v = 0 → ∀ i ∈ [Instr.div g gd x, .divu g gd x, .rem g gd x, .remu g gd x], ∃ t, exec i s = .next t ∧ WordFaults s t g F 11)) ∧
  (∀ (s : State) (g : Fin 96) (F : Furrow) (gd : Guard) (x : BitVec 19) (v : Word),
    Issues s g F → guardTrue F.ctx.view gd = true → okIM x = true → Reads s g F x false v →
    let c := F.ctx.view
    let n := v.toNat % 32
    let res (r : Word) (k : Bool) : Ctx :=
      wordCtx F.ctx { c with
        a := r, psw := putFlags c.psw (if n = 0 then none else some k) (some (r == 0)) (some r.msb) none } none
    Completes (.shl g gd x) s g F (res (c.a <<< n) (c.a.getLsbD (32 - n))) ∧
    Completes (.shr g gd x) s g F (res (c.a >>> n) (c.a.getLsbD (n - 1))) ∧
    Completes (.sar g gd x) s g F (res (c.a.sshiftRight n) (c.a.getLsbD (n - 1))) ∧
    Completes (.ror g gd x) s g F (res (c.a.rotateRight n) (c.a.getLsbD (n - 1))))

/-- R150, R153, R168: PSET, PLD, ADDSP, MFPSW, MTPSW, RDPROG, WRPROG; MTPSW writes C, Z, N, V in User mode and TE, ML, PRIV, CSEL too in
Supervisor mode; RDPROG and WRPROG are for Supervisor mode. -/
def Obligations.RegisterWordsComplete : Prop :=
  ∀ (s : State) (g : Fin 96) (F : Furrow) (gd : Guard) (x : BitVec 19) (v : Word),
    Issues s g F → guardTrue F.ctx.view gd = true →
    let c := F.ctx.view
    let super := pswPriv c.psw
    (okI x = true → bits x 9 8 = 0#8 →
      let d := predNo x 0
      let b := condHolds (bits x 3 4) c.psw
      let o := c.pred d
      let k := fieldN x 7 2
      Completes (.pset g gd x) s g F (wordCtx F.ctx
        (c.setPred d (if k = 0 then b else if k = 1 then o && b else if k = 2 then o || b else o != b)) none)) ∧
    ((xMode x = 0 → x.getLsbD 0 = false ∧ bits x 8 9 = 0#9) → (xMode x ≠ 0 → xSize x = 2) → Reads s g F x false v →
      Completes (.pld g gd x) s g F (wordCtx F.ctx { c with p := v.setWidth 8 &&& 0xFE#8 } none)) ∧
    (okI x = true → Completes (.addsp g gd x) s g F (wordCtx F.ctx { c with sp := c.sp + (xImm x).signExtend 32 } none)) ∧
    (x = 0 →
      Completes (.mfpsw g gd x) s g F (wordCtx F.ctx { c with a := c.psw } none) ∧
      Completes (.mtpsw g gd x) s g F (wordCtx F.ctx
        { c with psw := (c.psw &&& ~~~(if super then 0x7874F#32 else 0xF#32)) ||| (c.a &&& (if super then 0x7874F#32 else 0xF#32)) } none)) ∧
    (okI x = true → bits x 1 16 = 0#16 → super = true →
      Completes (.rdprog g gd x) s g F (wordCtx F.ctx { c with a := if x.getLsbD 0 then c.prog1 else c.prog0 } none) ∧
      Completes (.wrprog g gd x) s g F
        (wordCtx F.ctx (if x.getLsbD 0 then { c with prog1 := c.a } else { c with prog0 := c.a }) none))

/-! Words of the stream engines: control transfer, stack frames, system words, atomics (R124-R130, R151-R157, R213) -/

/-- R125: a CALL frame holds, from its lowest address up, the frame record (mask and size in words), a pad word of 0 where the words so far and the
record are odd, the items of the mask in the reverse of bit order, and the return PC; its words are even in number, from 2 to 16.
R151, R152, R125: BR, CALL, CALLF, CALLI: the target is checked; the frame goes below SP and every other byte of Plot stands; SP is the
frame's address; PC is the target. -/
def Obligations.CallsAndFrames : Prop :=
  (∀ (m : BitVec 8) (ret : Word) (c : Ctx),
    let item (i : Nat) (l : List Word) : List Word := if m.getLsbD i = true then l else []
    let image (k : BitVec 3) : List Word := (List.range 4).map fun j => (c.segAt k).image.extractLsb' (32 * j) 32
    let items : List Word :=
      item 7 [c.sp] ++ item 6 [(c.psw.extractLsb' 0 4 : BitVec 4).setWidth 32] ++ item 5 (image 5) ++ item 4 (image 4) ++
        item 3 [(c.p &&& 0xFE#8).setWidth 32] ++ item 2 [c.y] ++ item 1 [c.x] ++ item 0 [c.a]
    let pad : List Word := if (items.length + 2) % 2 = 1 then [0] else []
    let n := 1 + pad.length + items.length + 1
    callFrame m ret c = (m.setWidth 32 ||| (BitVec.ofNat 32 n <<< 8)) :: (pad ++ items ++ [ret]) ∧
    frameSize m = n ∧ n % 2 = 0 ∧ 2 ≤ n ∧ n ≤ 16) ∧
  (∀ (s : State) (g : Fin 96) (F : Furrow) (gd : Guard) (x : BitVec 19) (v : Word) (a : Nat),
    Issues s g F → guardTrue F.ctx.view gd = true →
    let c := F.ctx.view
    let goes (pc : Word) : Prop := targetFault (c.segAt (pswCsel c.psw)) (pswPriv c.psw) pc = none
    let m := xMask x
    let off := c.sp - nw (4 * frameSize m)
    let calls (i : Instr) (pc : Word) : Prop :=
      goes pc → StoresAt i s g F (jumpCtx F.ctx { c with sp := off } pc) a (bytesOf (callFrame m (c.pc + 4) c))
    (okI x = true → goes (c.pc + 4 * (xImm x).signExtend 32) →
      Completes (.br g gd x) s g F (jumpCtx F.ctx c (c.pc + 4 * (xImm x).signExtend 32))) ∧
    (okMw x = true → Reads s g F x false v → goes v → Completes (.br g gd x) s g F (jumpCtx F.ctx c v)) ∧
    (mapSorted s.plot → bits c.sp 0 2 = 0#2 → Span s g F 7 off (4 * frameSize m) 4 false true a →
      calls (.call g gd x) (c.pc + 4 * xD x) ∧
      calls (.callf g gd x) ((c.pc &&& 0xFFFFFF00#32) + 256 * xD x) ∧
      (bits x 0 11 = 0#11 → calls (.calli g gd x) c.y)))

/-- R126: RETM at a frame that a CALL built restores what the mask saved, sets SP above the frame and returns to the saved PC; Plot stands.
R213: RETX from a frame without a stack switch restores PC, PSW, A, X, Y, the predicates, PROG, the old value of a pending load and SP
from its twelve words; the boundary after it samples no interrupt. It is for Supervisor mode.
R152, R453: TRAP completes and holds vector 32 + t with the PC after it for its entry; BRK raises vector 12 at itself, or under BRKHALT
halts the engine with cause 4. -/
def Obligations.ReturnsAndTraps : Prop :=
  (∀ (s : State) (g : Fin 96) (F : Furrow) (gd : Guard) (m : BitVec 8) (ret : Word) (c0 : Ctx) (a : Nat),
    Issues s g F → guardTrue F.ctx.view gd = true →
    let c := F.ctx.view
    let n := frameSize m
    let top := c.sp + nw (4 * n)
    bits c.sp 0 2 = 0#2 → Span s g F 7 c.sp (4 * n) 4 true false a →
    wordsAt (s.plotBytes (fieldOf g) a (4 * n)) 0 n = callFrame m ret c0 →
    (m.getLsbD 7 = true → c0.sp = top) →
    (m.getLsbD 4 = true → F.segOk (c0.segAt 4).image = true) → (m.getLsbD 5 = true → F.segOk (c0.segAt 5).image = true) →
    targetFault (c.segAt (pswCsel c.psw)) (pswPriv c.psw) ret = none →
    let seg4 := if m.getLsbD 4 then c.seg.set 4 (c0.segAt 4) else c.seg
    let seg := if m.getLsbD 5 then seg4.set 5 (c0.segAt 5) else seg4
    Completes (.retm g gd 0) s g F (jumpCtx F.ctx
      { c with
        a := if m.getLsbD 0 then c0.a else c.a
        x := if m.getLsbD 1 then c0.x else c.x
        y := if m.getLsbD 2 then c0.y else c.y
        p := if m.getLsbD 3 then c0.p &&& 0xFE#8 else c.p
        seg := seg
        psw := if m.getLsbD 6 then insertBits c.psw 0 (bits c0.psw 0 4 : BitVec 4) else c.psw
        sp := top } ret)) ∧
  (∀ (s : State) (g : Fin 96) (F : Furrow) (gd : Guard) (a : Nat),
    Issues s g F → guardTrue F.ctx.view gd = true → pswPriv F.ctx.view.psw = true →
    let c := F.ctx.view
    fieldN c.sp 0 3 = 0 → Span s g F 7 c.sp 48 4 true false a →
    let w (i : Nat) : Word := (wordsAt (s.plotBytes (fieldOf g) a 48) 0 12).getD i 0
    (w 1) &&& 0xFFF84880#32 = 0 → (w 9).getLsbD 7 = false →
    targetFault (c.segAt (pswCsel (w 1))) (pswPriv (w 1)) (w 0) = none →
    Completes (.retx g gd 0) s g F
      { c with
        pc := w 0, psw := w 1, a := w 2, x := w 3, y := w 4, p := (w 5).setWidth 8 &&& 0xFE#8, prog0 := w 6, prog1 := w 7
        ldv := if pswLdp (w 1) then w 10 else 0, sp := w 11, nosample := true }) ∧
  (∀ (s : State) (g : Fin 96) (F : Furrow) (gd : Guard) (x : BitVec 19),
    Issues s g F → guardTrue F.ctx.view gd = true →
    (okI x = true → bits x 5 12 = 0#12 →
      ∃ t e, exec (.trap g gd x) s = .next t ∧ WordDone s t g F (wordCtx F.ctx F.ctx.view none) s.engines[g].sheaf (.faulted e) ∧
        e.vector.toNat = 32 + fieldN x 0 5 ∧ e.pc = F.ctx.pc + 4) ∧
    (s.engines[g].ctl.brkHalt = false → ∃ t, exec (.brk g gd 0) s = .next t ∧ WordFaults s t g F 12) ∧
    (s.engines[g].ctl.brkHalt = true → s.dbg.xhalt = false →
      ∃ t, exec (.brk g gd 0) s = .next t ∧ t.engines[g].st = .halted ∧ t.engines[g].ctl.cause = 4#5 ∧ t.plot = s.plot))

/-- R153: SLD takes a 128-bit image that R109 allows; one to S7 suppresses sampling at the next boundary (R200). SST stores the image. Both
are for Supervisor mode.
R119, R207: MBAR completes when no report waits and no buffered store of the furrow is unacknowledged; with one it waits. R155: EVWAIT answers in A the
pending sources of its mask and clears those that are latched; with none pending the furrow waits with its registers as they were; a mask
of 0 gives up the turn. -/
def Obligations.SegmentAndWaitWords : Prop :=
  (∀ (s : State) (g : Fin 96) (F : Furrow) (gd : Guard) (x : BitVec 19) (k : Fin 8) (a : Nat),
    Issues s g F → guardTrue F.ctx.view gd = true → pswPriv F.ctx.view.psw = true → okMw x = true →
    let c := F.ctx.view
    (Names s g F x 16 true false a →
      let w := imageOf (s.plotBytes (fieldOf g) a 16)
      F.segOk w = true →
      Completes (.sld g gd k x) s g F
        { wordCtx F.ctx { c with seg := c.seg.set k (Seg.ofImage w) } none with nosample := k == 7 }) ∧
    (Names s g F x 16 false true a → wordOf a ∉ s.fields[fieldOf g].known → mapSorted s.plot →
      StoresAt (.sst g gd k x) s g F (wordCtx F.ctx c none) a (bytesOf (imageWords c.seg[k].image)))) ∧
  (∀ (s : State) (g : Fin 96) (F : Furrow) (gd : Guard) (x : BitVec 19),
    Issues s g F → guardTrue F.ctx.view gd = true →
    let c := F.ctx.view
    let m : BitVec 16 := bits x 0 16
    let got := s.sources F &&& m
    let waits (i : Instr) (G : Furrow) : Prop := ∃ t, exec i s = .next t ∧
      t.furrow? F.id = some { G with ctx := { F.ctx with nosample := false } } ∧ t.plot = s.plot ∧ t.fields = s.fields ∧
      (∀ id, id ≠ F.id → t.furrow? id = s.furrow? id) ∧ (∀ k : Fin 96, k ≠ g → t.engines[k] = s.engines[k])
    (F.ctx.rep8 = none → s.storesOut F.id = false → Completes (.mbar g gd 0) s g F (wordCtx F.ctx c none)) ∧
    (F.ctx.rep8 = none → s.storesOut F.id = true → waits (.mbar g gd 0) { F with mbar := true }) ∧
    (okI x = true → x.getLsbD 16 = false →
      (m = 0 → CompletesOn (s.updEngine g fun E => { E with sliceUp := true, order := E.order.filter (· ≠ F.id) ++ [F.id] })
        (.evwait g gd x) s g F (wordCtx F.ctx { c with a := 0 } none) s.engines[g].sheaf) ∧
      (got ≠ 0 → Completes (.evwait g gd x) s g F
        (wordCtx F.ctx { c with a := got.setWidth 32, latched := c.latched &&& ~~~(got &&& 0x0A00#16) } none)) ∧
      (m ≠ 0 → got = 0 → waits (.evwait g gd x) { F with waitMask := some m })))

/-- R156, R157, R129: AADD adds A to a word in Plot and ASWAP exchanges them, A taking the old word; a word that another engine holds is
not touched. R130: BANKHOLD takes port B of the bank and clears HB; where a hold is in force it breaks that hold, takes none and sets HB;
BANKFREE ends a hold. -/
def Obligations.AtomicsAndHolds : Prop :=
  ∀ (s : State) (g : Fin 96) (F : Furrow) (gd : Guard) (x : BitVec 19) (a : Nat),
    Issues s g F → guardTrue F.ctx.view gd = true →
    let c := F.ctx.view
    let old := s.plotWord (fieldOf g) a
    let held (b : Option (Fin 32)) : State := s.updEngine g fun E => { E with hold := b }
    (okMw x = true → Names s g F x 4 true true a → s.heldByOther g a = false → mapSorted s.plot →
      StoresAt (.aadd g gd x) s g F (wordCtx F.ctx { c with a := old } none) a (bytes32 (old + c.a)) ∧
      StoresAt (.aswap g gd x) s g F (wordCtx F.ctx { c with a := old } none) a (bytes32 c.a)) ∧
    (okMw x = true → Names s g F x 4 false true a →
      (s.engines[g].hold = none → CompletesOn (held (some (bankOf a))) (.bankhold g gd x) s g F
        (wordCtx F.ctx { c with psw := c.psw &&& 0xFFFFFFDF#32 } none) s.engines[g].sheaf) ∧
      (s.engines[g].hold ≠ none → CompletesOn (held none) (.bankhold g gd x) s g F
        (wordCtx F.ctx { c with psw := c.psw ||| 0x20#32 } none) s.engines[g].sheaf)) ∧
    CompletesOn (held none) (.bankfree g gd 0) s g F (wordCtx F.ctx c none) s.engines[g].sheaf

/-! Words of the Sheaf lane unit (R177-R191) -/

/-- R184: VCLR, VSPLAT, VEXT, VINS, VACC, VMFS, VMTS: the V registers, accumulators, SHST and SHSAVE that each writes, and nothing else.
R185: the twelve lane operations of VOP on the registers of [9:7] and [6:4] into that of [12:10]; a saturated lane sets SAT. -/
def Obligations.SheafRegistersAndLanes : Prop :=
  (∀ (s : State) (g : Fin 96) (F : Furrow) (gd : Guard) (x : BitVec 19),
    Issues s g F → guardTrue F.ctx.view gd = true →
    let c := F.ctx.view
    let h := s.engines[g].sheaf
    let w (d : Ctx) : Ctx := wordCtx F.ctx d none
    let d := vReg x 10
    let on := F.ctx.view.shsave.getLsbD 31
    (on = true → bits x 9 10 = 0#10 → CompletesOn s (.vclr g gd x) s g F (w c)
      { h with
        v := Vector.ofFn fun i => if x.getLsbD i.val then Vector.replicate 16 0 else h.v[i]
        acc := if x.getLsbD 8 then Vector.replicate 16 0 else h.acc, dirty := true }) ∧
    (on = true → bits x 13 6 = 0#6 → bits x 0 10 = 0#10 →
      CompletesOn s (.vsplat g gd x) s g F (w c) { h with v := h.v.set d (Vector.replicate 16 c.a), dirty := true }) ∧
    (on = true → bits x 13 6 = 0#6 → bits x 4 6 = 0#6 →
      CompletesOn s (.vext g gd x) s g F (w { c with a := h.v[d][laneNo x] }) h ∧
      CompletesOn s (.vins g gd x) s g F (w c) { h with v := h.v.set d (h.v[d].set (laneNo x) c.a), dirty := true }) ∧
    (on = true → bits x 13 6 = 0#6 → bits x 0 2 = 0#2 → fieldN x 3 2 ≠ 3 →
      let r (l : Fin 16) : Int := roundShift h.acc[l].toInt (fieldN x 5 5) (fieldN x 3 2)
      CompletesOn s (.vacc g gd x) s g F (w c)
        { v := h.v.set d (Vector.ofFn fun l => BitVec.ofInt 32 (max (-(2 ^ 31)) (min (2 ^ 31 - 1) (r l))))
          acc := if x.getLsbD 2 then Vector.replicate 16 0 else h.acc
          shst := if ∃ l, r l < -(2 ^ 31) ∨ 2 ^ 31 ≤ r l then h.shst ||| 1#32 else h.shst
          dirty := true }) ∧
    (bits x 1 18 = 0#18 →
      CompletesOn s (.vmfs g gd x) s g F (w { c with a := if x.getLsbD 0 then c.shsave else h.shst }) h ∧
      (x.getLsbD 0 = false → CompletesOn s (.vmts g gd x) s g F (w c)
        { h with shst := if fieldN c.a 2 2 = 3 then c.a &&& 0x1FB#32 else c.a &&& 0x1FF#32, dirty := true }) ∧
      (x.getLsbD 0 = true → pswPriv c.psw = true → shsaveOk F c.a = true →
        CompletesOn s (.vmts g gd x) s g F (w { c with shsave := c.a &&& 0x803FFFCF#32 }) { h with dirty := true }))) ∧
  (∀ (s : State) (g : Fin 96) (F : Furrow) (gd : Guard) (x : BitVec 19),
    Issues s g F → guardTrue F.ctx.view gd = true → F.ctx.view.shsave.getLsbD 31 = true → bits x 13 6 = 0#6 →
    let h := s.engines[g].sheaf
    let a (l : Fin 16) : Word := h.v[vReg x 7][l]
    let b (l : Fin 16) : Word := h.v[vReg x 4][l]
    let done (i : Instr) (r : Fin 16 → Word) (sat : Bool) : Prop :=
      CompletesOn s i s g F (wordCtx F.ctx F.ctx.view none)
        { h with v := h.v.set (vReg x 10) (Vector.ofFn r), shst := if sat then h.shst ||| 1#32 else h.shst, dirty := true }
    let sat (i : Instr) (r : Fin 16 → Int) : Prop :=
      done i (fun l => BitVec.ofInt 32 (max (-(2 ^ 31)) (min (2 ^ 31 - 1) (r l)))) (decide (∃ l, r l < -(2 ^ 31) ∨ 2 ^ 31 ≤ r l))
    sat (.vopAdds g gd x) (fun l => (a l).toInt + (b l).toInt) ∧
    sat (.vopSubs g gd x) (fun l => (a l).toInt - (b l).toInt) ∧
    done (.vopMin g gd x) (fun l => if (a l).toInt ≤ (b l).toInt then a l else b l) false ∧
    done (.vopMax g gd x) (fun l => if (a l).toInt ≤ (b l).toInt then b l else a l) false ∧
    sat (.vopMulq g gd x) (fun l => roundShift ((a l).toInt * (b l).toInt) 31 2) ∧
    done (.vopAnd g gd x) (fun l => a l &&& b l) false ∧ done (.vopOr g gd x) (fun l => a l ||| b l) false ∧
    done (.vopXor g gd x) (fun l => a l ^^^ b l) false ∧
    done (.vopAdd g gd x) (fun l => a l + b l) false ∧ done (.vopSub g gd x) (fun l => a l - b l) false ∧
    sat (.vopNeg g gd x) (fun l => -(a l).toInt) ∧
    sat (.vopAbs g gd x) (fun l => if (a l).toInt < 0 then -(a l).toInt else (a l).toInt))

/-! Long instructions (R163-R176, R186-R189) -/

/-- R173-R176: BFILL, BMOVE, BCMP, CRC32C over at most 64 elements of Plot from a clear PROG run to their end: the bytes stored (BMOVE: as the
source read before the word), X the elements not done, Y and A past the elements done, the flags of BCMP, the register of CRC-32C in A. -/
def Obligations.BlockInstructions : Prop :=
  ∀ (s : State) (g : Fin 96) (F : Furrow) (gd : Guard) (x : BitVec 19) (a b : Nat),
    Issues s g F → guardTrue F.ctx.view gd = true →
    let c := F.ctx.view
    let n := c.x.toNat
    let k := xEsize x
    let f := fieldOf g
    c.prog1.getLsbD 31 = false → n ≤ 64 → fieldN x 11 2 ≠ 3 → bits x 0 11 = 0#11 →
    let ended (d : Ctx) : Ctx := wordCtx F.ctx { d with prog0 := 0, prog1 := 0 } none
    (bits x 13 3 = 0#3 → mapSorted s.plot → Span s g F (xSd x) c.y (n * k) k false true a → a + n * k ≤ 4194304 →
      StoresAt (.bfill g gd x) s g F (ended { c with x := 0, y := c.y + nw (n * k) }) a
        (List.replicate n ((bytes32 c.a).take k)).flatten) ∧
    (mapSorted s.plot → Span s g F (xSd x) c.y (n * k) k false true a → Span s g F (xSs x) c.a (n * k) k true false b →
      a + n * k ≤ 4194304 → b + n * k ≤ 4194304 →
      StoresAt (.bmove g gd x) s g F (ended { c with x := 0, y := c.y + nw (n * k), a := c.a + nw (n * k) }) a
        (s.plotBytes f b (n * k))) ∧
    (Span s g F (xSd x) c.y (n * k) k true false a → Span s g F (xSs x) c.a (n * k) k true false b →
      let u (e : Nat) : Word := extend (s.plotBytes f (a + k * e) k) k false
      let v (e : Nat) : Word := extend (s.plotBytes f (b + k * e) k) k false
      ((∀ e, e < n → u e = v e) → Completes (.bcmp g gd x) s g F (ended { c with
        x := 0, y := c.y + nw (n * k), a := c.a + nw (n * k), psw := putFlags c.psw (some true) (some true) (some false) (some false) })) ∧
      (∀ e, e < n → (∀ i, i < e → u i = v i) → u e ≠ v e → Completes (.bcmp g gd x) s g F (ended { c with
        x := nw (n - e), y := c.y + nw (k * e), a := c.a + nw (k * e)
        psw := putFlags c.psw (some (decide ((v e).toNat ≤ (u e).toNat))) (some (u e - v e == 0)) (some (u e - v e).msb)
          (some (decide ((u e - v e).toInt ≠ (u e).toInt - (v e).toInt))) }))) ∧
    (bits x 0 16 = 0#16 → Span s g F (xSd x) c.y n 1 true false a →
      Completes (.crc32c g gd x) s g F (ended { c with
        x := 0, y := c.y + nw n, a := (s.plotBytes f a n).foldl crcByte c.a }))

/-- R183, R186: LOADV, STOREV, LOADACC, STOREACC on at most 64 vectors (16 accumulators) of Plot from a clear PROG: lanes in the format of
[6:5], V registers in turn; a lane that saturates in a store sets SAT.
R183, R186: CONVIN and CONVOUT between a format of [6:5] and lanes of 32 bits, on at most 64 vectors of Plot whose ranges do not meet,
from a clear PROG; the V register holds the last vector. -/
def Obligations.VectorTransfersAndConversions : Prop :=
  (∀ (s : State) (g : Fin 96) (F : Furrow) (gd : Guard) (x : BitVec 19) (a : Nat),
    Issues s g F → guardTrue F.ctx.view gd = true → F.ctx.view.shsave.getLsbD 31 = true → bits x 0 5 = 0#5 →
    let c := F.ctx.view
    let n := c.x.toNat
    let h := s.engines[g].sheaf
    let f := xFmt x
    let b := 16 * fmtBytes f
    let p := fieldOf g
    c.prog1.getLsbD 31 = false → n ≤ 64 →
    let ended (d : Ctx) : Ctx := wordCtx F.ctx { d with prog0 := 0, prog1 := 0 } none
    let lanes (e : Nat) : List Byte × Bool := vecStore f (shRnd h.shst) h.v[cyc (vReg x 10) e]
    (Span s g F (xSd x) c.y (n * b) (fmtAlign f) true false a →
      CompletesOn s (.loadv g gd x) s g F (ended { c with x := 0, y := c.y + nw (n * b) })
        ((List.range n).foldl (fun h e =>
          { h with v := h.v.set (cyc (vReg x 10) e) (vecLoad f (s.plotBytes p (a + b * e) b)), dirty := true }) h)) ∧
    (mapSorted s.plot → Span s g F (xSd x) c.y (n * b) (fmtAlign f) false true a → a + n * b ≤ 4194304 →
      StoresWith (.storev g gd x) s g F (ended { c with x := 0, y := c.y + nw (n * b) })
        (if (List.range n).any (fun e => (lanes e).2) then { h with shst := h.shst ||| 1#32, dirty := true } else h) a
        ((List.range n).flatMap fun e => (lanes e).1)) ∧
    (n ≤ 16 → Span s g F (xSd x) c.y (n * 8) 8 true false a →
      CompletesOn s (.loadacc g gd x) s g F (ended { c with x := 0, y := c.y + nw (8 * n) })
        ((List.range n).foldl (fun h e =>
          { h with acc := h.acc.set (accNo e) (le64 (s.plotBytes p (a + 8 * e) 8) 0), dirty := true }) h)) ∧
    (n ≤ 16 → mapSorted s.plot → Span s g F (xSd x) c.y (n * 8) 8 false true a → a + n * 8 ≤ 4194304 →
      StoresWith (.storeacc g gd x) s g F (ended { c with x := 0, y := c.y + nw (8 * n) }) h a
        ((List.range n).flatMap fun e => bytes64 h.acc[accNo e]))) ∧
  (∀ (s : State) (g : Fin 96) (F : Furrow) (gd : Guard) (x : BitVec 19) (a b : Nat),
    Issues s g F → guardTrue F.ctx.view gd = true → F.ctx.view.shsave.getLsbD 31 = true → bits x 0 5 = 0#5 →
    let c := F.ctx.view
    let n := c.x.toNat
    let h := s.engines[g].sheaf
    let f := xFmt x
    let k := 16 * fmtBytes f
    let p := fieldOf g
    c.prog1.getLsbD 31 = false → n ≤ 64 → mapSorted s.plot →
    let ended (d : Ctx) : Ctx := wordCtx F.ctx { d with prog0 := 0, prog1 := 0 } none
    let wide (e : Nat) : Vector Word 16 := vecLoad f (s.plotBytes p (b + k * e) k)
    let flat (e : Nat) : Vector Word 16 := vecLoad 0 (s.plotBytes p (b + 64 * e) 64)
    let out (e : Nat) : List Byte × Bool := vecStore f (shRnd h.shst) (flat e)
    let last (v : Nat → Vector Word 16) (h : Sheaf) : Sheaf :=
      if n = 0 then h else { h with v := h.v.set (vReg x 10) (v (n - 1)), dirty := true }
    (Span s g F (xSd x) c.y (n * 64) 4 false true a → Span s g F (xSs x) c.a (n * k) (fmtAlign f) true false b →
      a + n * 64 ≤ 4194304 → b + n * k ≤ 4194304 → (a + n * 64 ≤ b ∨ b + n * k ≤ a) →
      StoresWith (.convin g gd x) s g F (ended { c with x := 0, y := c.y + nw (64 * n), a := c.a + nw (n * k) }) (last wide h) a
        ((List.range n).flatMap fun e => (vecStore 0 0 (wide e)).1)) ∧
    (Span s g F (xSd x) c.y (n * k) (fmtAlign f) false true a → Span s g F (xSs x) c.a (n * 64) 4 true false b →
      a + n * k ≤ 4194304 → b + n * 64 ≤ 4194304 → (a + n * k ≤ b ∨ b + n * 64 ≤ a) →
      StoresWith (.convout g gd x) s g F (ended { c with x := 0, y := c.y + nw (n * k), a := c.a + nw (64 * n) })
        (last flat (if (List.range n).any (fun e => (out e).2) then { h with shst := h.shst ||| 1#32, dirty := true } else h)) a
        ((List.range n).flatMap fun e => (out e).1)))

/-- R181, R187-R189: VMAC, VMIX and VFIR accumulate products lane by lane on Plot data, at most 64 steps from a clear PROG; VFIR clears the
accumulators for each output vector and stores their readout, SAT noted. -/
def Obligations.MultiplyAccumulate : Prop :=
  ∀ (s : State) (g : Fin 96) (F : Furrow) (gd : Guard) (x : BitVec 19) (a b : Nat) (at_ : Nat → Nat),
    Issues s g F → guardTrue F.ctx.view gd = true → F.ctx.view.shsave.getLsbD 31 = true →
    let c := F.ctx.view
    let n := c.x.toNat
    let h := s.engines[g].sheaf
    let p := fieldOf g
    let m := xFmt x
    c.prog1.getLsbD 31 = false → n ≤ 64 →
    let ended (d : Ctx) : Ctx := wordCtx F.ctx { d with prog0 := 0, prog1 := 0 } none
    (bits x 13 3 = 0#3 → bits x 0 5 = 0#5 → m ≠ 3 → Span s g F (xSd x) c.y (n * 64) 4 true false a →
      CompletesOn s (.vmac g gd x) s g F (ended { c with x := 0, y := c.y + nw (64 * n) })
        ((List.range n).foldl (fun h e =>
          { h.mac m (fun i => h.v[cyc (vReg x 10) (e % (fieldN x 7 3 + 1))][i]) (fun i => le32 (s.plotBytes p (a + 64 * e) 64) (4 * i.val))
            with dirty := true }) h)) ∧
    (bits x 7 3 = 0#3 → bits x 0 5 = 0#5 → m ≠ 3 → n ≤ 16 * (8 - fieldN x 10 3) → Span s g F (xSs x) c.a (n * 4) 4 true false b →
      (∀ e, e < n → Span s g F (xSd x) (c.y + le32 (s.plotBytes p (b + 4 * e) 4) 0) 64 4 true false (at_ e)) →
      CompletesOn s (.vmix g gd x) s g F (ended { c with x := 0, a := c.a + nw (4 * n) })
        ((List.range n).foldl (fun h e =>
          { h.mac m (fun _ => h.v[cyc (vReg x 10) (e / 16)][accNo e]) (fun i => le32 (s.plotBytes p (at_ e) 64) (4 * i.val))
            with dirty := true }) h)) ∧
    (x.getLsbD 7 = false → mapSorted s.plot →
      let taps := fieldN x 0 7 + 1
      let stride := fieldN x 8 2 + 1
      let span := 4 * (stride * (16 * (n - 1) + 15) + taps)
      let one (e : Nat) (h : Sheaf) : Sheaf :=
        firTaps (vReg x 10) stride (s.plotBytes p (b + 64 * stride * e) (4 * (stride * 15 + taps)))
          { h with acc := Vector.replicate 16 0 } 0 taps
      let read (h : Sheaf) : Vector Word 16 × Bool := h.readAll (shOsh h.shst) (shRnd h.shst)
      let run (e : Nat) : Sheaf := (List.range e).foldl (fun h j =>
        { (one j h).noteSat (read (one j h)).2 with dirty := true }) h
      0 < n → n * taps ≤ 64 → Span s g F (xSs x) c.a (n * 64) 4 false true a → Span s g F (xSd x) c.y span 4 true false b →
      a + n * 64 ≤ 4194304 → b + span ≤ 4194304 → (a + n * 64 ≤ b ∨ b + span ≤ a) →
      StoresWith (.vfir g gd x) s g F (ended { c with x := 0, y := c.y + nw (64 * stride * n), a := c.a + nw (64 * n) }) (run n) a
        ((List.range n).flatMap fun e => bytesOf (read (one e (run e))).1.toList))

/-! Paired words, customer instructions, faults, operands and the load delay -/

/-- R133, R137, R159, R160: a paired word with a short operation in slot A and NOP in slot B, both guards true, does what R159 says, for every
operand byte: registers, flags, predicates, a branch, stack and S0/S7 accesses. A false guard leaves all but PC.
R140: both slots act on the registers at the start of the word, and where both write the flags those of slot B stand: LDI with YADD.
R141: slot B that reads what slot A writes raises vector 6. R134: bit 0 set, or a reserved short opcode, raises vector 1. -/
def Obligations.PairedWords : Prop :=
  (∀ (s : State) (g : Fin 96) (F : Furrow) (p : BitVec 2) (o : BitVec 8) (a : Nat),
    Issues s g F →
    let c := F.ctx.view
    let word (sop : BitVec 5) : Instr := .pairedWord g (p ++ sop ++ o ++ 0#15 ++ 0#1)
    let w (d : Ctx) : Ctx := wordCtx F.ctx d none
    let runs (sop : BitVec 5) (d : Ctx) : Prop := Completes (word sop) s g F (w d)
    let sx : Word := o.signExtend 32
    let zx : Word := o.setWidth 32
    let n := fieldN o 0 5
    let r := c.reg (o.extractLsb' 0 2)
    let zn (v : Word) : Ctx := { c with psw := putFlags c.psw none (some (v == 0)) (some v.msb) none }
    let sum (u v : Word) : Word := putFlags c.psw (some (decide (2 ^ 32 ≤ u.toNat + v.toNat))) (some (u + v == 0)) (some (u + v).msb)
      (some (decide ((u + v).toInt ≠ u.toInt + v.toInt)))
    let dif (u v : Word) : Word := putFlags c.psw (some (decide (v.toNat ≤ u.toNat))) (some (u - v == 0)) (some (u - v).msb)
      (some (decide ((u - v).toInt ≠ u.toInt - v.toInt)))
    let sh (v : Word) (k : Bool) : Ctx :=
      { c with a := v, psw := putFlags c.psw (if n = 0 then none else some k) (some (v == 0)) (some v.msb) none }
    let neg (v : Word) : Ctx :=
      { c with a := v, psw := putFlags c.psw none (some (v == 0)) (some v.msb) (some (c.a == 0x80000000#32)) }
    (c.pred ⟨p.toNat % 8, by omega⟩ = false → o.toNat < 4 → ∀ sop : BitVec 5, (sop = 0x01 ∨ sop = 0x0B ∨ sop = 0x1D) → runs sop c) ∧
    (c.pred ⟨p.toNat % 8, by omega⟩ = true →
      (o = 0 → runs 0x00 c) ∧ runs 0x01 { c with a := sx } ∧ runs 0x02 { c with a := c.a + sx, psw := sum c.a sx } ∧
      runs 0x03 { zn (c.a &&& zx) with a := c.a &&& zx } ∧ runs 0x04 { zn (c.a ||| zx) with a := c.a ||| zx } ∧
      runs 0x05 { zn (c.a ^^^ zx) with a := c.a ^^^ zx } ∧ runs 0x06 { c with psw := dif c.a sx } ∧
      (bits o 5 3 = 0#3 →
        runs 0x07 (sh (c.a <<< n) (c.a.getLsbD (32 - n))) ∧ runs 0x08 (sh (c.a >>> n) (c.a.getLsbD (n - 1))) ∧
        runs 0x09 (sh (c.a.sshiftRight n) (c.a.getLsbD (n - 1)))) ∧
      runs 0x0A { c with x := c.x + sx, psw := sum c.x sx } ∧ runs 0x0B { c with y := c.y + sx, psw := sum c.y sx } ∧
      runs 0x0C { c with sp := c.sp + 4 * sx } ∧ (bits o 4 4 = 0#4 → runs 0x0D (c.setReg (o.extractLsb' 2 2) r)) ∧
      (bits o 2 6 = 0#6 →
        runs 0x0E { c with a := c.a + r, psw := sum c.a r } ∧ runs 0x0F { c with a := c.a - r, psw := dif c.a r } ∧
        runs 0x10 { zn (c.a &&& r) with a := c.a &&& r } ∧ runs 0x11 { zn (c.a ||| r) with a := c.a ||| r } ∧
        runs 0x12 { zn (c.a ^^^ r) with a := c.a ^^^ r } ∧ runs 0x13 { c with psw := dif c.a r }) ∧
      (let d := predNo o 0
       let b := condHolds (bits o 3 4) c.psw
       let q := c.pred (predNo o 3)
       runs 0x14 (c.setPred d (if o.getLsbD 7 then c.pred d && b else b)) ∧
       runs 0x15 (c.setPred d (if fieldN o 6 2 = 0 then q else if fieldN o 6 2 = 1 then !q
         else if fieldN o 6 2 = 2 then c.pred d && q else c.pred d || q))) ∧
      (o = 0 → runs 0x1D (neg (-c.a))) ∧ (o = 1 → runs 0x1D { zn (~~~c.a) with a := ~~~c.a }) ∧
      (o = 2 → runs 0x1D (neg (if c.a.msb then -c.a else c.a))) ∧
      (o = 3 → runs 0x1D { zn (nw (clzFrom c.a 32)) with a := nw (clzFrom c.a 32) }) ∧
      (o = 4 → runs 0x1D (let v := bits c.a 0 8 ++ bits c.a 8 8 ++ bits c.a 16 8 ++ bits c.a 24 8; { zn v with a := v })) ∧
      (targetFault (c.segAt (pswCsel c.psw)) (pswPriv c.psw) (c.pc + 4 * sx) = none →
        Completes (word 0x1A) s g F (jumpCtx F.ctx c (c.pc + 4 * sx))) ∧
      (let off := c.sp + 4 * zx
       (Span s g F 7 off 4 4 true false a →
         Completes (word 0x16) s g F (wordCtx F.ctx c (some (0, le32 (s.plotBytes (fieldOf g) a 4) 0)))) ∧
       (mapSorted s.plot → Span s g F 7 off 4 4 false true a → StoresAt (word 0x17) s g F (w c) a (bytes32 c.a))) ∧
      (let off := c.y + 4 * zx
       (Span s g F 0 off 4 4 true false a →
         Completes (word 0x18) s g F (wordCtx F.ctx c (some (0, le32 (s.plotBytes (fieldOf g) a 4) 0)))) ∧
       (mapSorted s.plot → Span s g F 0 off 4 4 false true a → StoresAt (word 0x19) s g F (w c) a (bytes32 c.a))) ∧
      (bits c.sp 0 2 = 0#2 → mapSorted s.plot → Span s g F 7 (c.sp - 4) 4 4 false true a →
        let put (v : Word) : Prop := StoresAt (word 0x1B) s g F (w { c with sp := c.sp - 4 }) a (bytes32 v)
        (o = 0 → put c.a) ∧ (o = 1 → put c.x) ∧ (o = 2 → put c.y) ∧ (o = 3 → put ((c.p &&& 0xFE#8).setWidth 32)) ∧
        (o = 4 → put (c.psw &&& 0xF#32))) ∧
      (bits c.sp 0 2 = 0#2 → Span s g F 7 c.sp 4 4 true false a →
        let v := le32 (s.plotBytes (fieldOf g) a 4) 0
        let up : Ctx := { c with sp := c.sp + 4 }
        (o.toNat < 3 → Completes (word 0x1C) s g F (wordCtx F.ctx up (some (o.extractLsb' 0 2, v)))) ∧
        (o = 3 → runs 0x1C { up with p := v.setWidth 8 &&& 0xFE#8 }) ∧
        (o = 4 → runs 0x1C { up with psw := insertBits c.psw 0 (v.setWidth 4) })))) ∧
  (∀ (s : State) (g : Fin 96) (F : Furrow) (o q : BitVec 8) (w : BitVec 31),
    Issues s g F →
    let c := F.ctx.view
    let sx (v : BitVec 8) : Word := v.signExtend 32
    Completes (.pairedWord g (0#2 ++ 0x01#5 ++ o ++ 0#2 ++ 0x0B#5 ++ q ++ 0#1)) s g F
      (wordCtx F.ctx { c with
        a := sx o, y := c.y + sx q
        psw := putFlags c.psw (some (decide (2 ^ 32 ≤ c.y.toNat + (sx q).toNat))) (some (c.y + sx q == 0)) (some (c.y + sx q).msb)
          (some (decide ((c.y + sx q).toInt ≠ c.y.toInt + (sx q).toInt))) } none) ∧
    (∃ t, exec (.pairedWord g (0#2 ++ 0x01#5 ++ o ++ 0#2 ++ 0x02#5 ++ q ++ 0#1)) s = .next t ∧ WordFaults s t g F 6) ∧
    (w.getLsbD 0 = true ∨ w.extractLsb' 24 5 = 0x1E#5 ∨ w.extractLsb' 24 5 = 0x1F#5 →
      ∃ t, exec (.pairedWord g w) s = .next t ∧ WordFaults s t g F 1))

/-- R162, R219-R233: a customer instruction runs the routine of its dispatch entry: one microword that adds A and a literal, writes a register
under DEST, flags under FLAGW, and ends; a Supervisor entry needs Supervisor mode; a false guard leaves all but PC; without an enabled entry the
word raises vector 1. R134, R158, R161: a reserved opcode, whose entry is disabled, raises vector 1. -/
def Obligations.CustomerInstructionRuns : Prop :=
  ∀ (s : State) (g : Fin 96) (F : Furrow) (gd : Guard) (op : BitVec 5) (v : BitVec 8) (x : BitVec 19) (e : BitVec 16) (m : MWord),
    Issues s g F → s.engines[g].micro = none →
    let c := F.ctx.view
    let o : BitVec 8 := 7#3 ++ op
    let i : Instr := .customerInstruction g gd o x
    let r := c.a + m.lit
    let C := some (decide (2 ^ 32 ≤ c.a.toNat + m.lit.toNat))
    let V := some (decide (r.toInt ≠ c.a.toInt + m.lit.toInt))
    (s.customerEntry g o = none → ∃ t, exec i s = .next t ∧ WordFaults s t g F 1) ∧
    (v.toNat < 0xE0 → vendorOp v.toNat = false → ∃ t, exec (.customerInstruction g gd v x) s = .next t ∧ WordFaults s t g F 1) ∧
    (s.customerEntry g o = some e → e.getLsbD 13 = true → pswPriv c.psw = false → ∃ t, exec i s = .next t ∧ WordFaults s t g F 2) ∧
    (s.customerEntry g o = some e → (e.getLsbD 13 = true → pswPriv c.psw = true) → guardTrue c gd = false →
      Completes i s g F (wordCtx F.ctx c none)) ∧
    (s.customerEntry g o = some e → (e.getLsbD 13 = true → pswPriv c.psw = true) → guardTrue c gd = true →
      mapFind (bits e 0 13 : BitVec 13).toNat (s.custOf g).words = some m →
      m.customerOk = true → m.asrc = 1 → m.bsrc = 8 → m.aluop = 2 → m.mop = 0 → m.sopc = 0 → m.pwr = 0 → m.fault = 0 → m.trace = 0 →
      m.tally = 0 → m.dest ≤ 4 → 6 ≤ m.seq →
      let d : Ctx := if m.dest = 1 then { c with a := r } else if m.dest = 2 then { c with x := r } else if m.dest = 3 then { c with y := r }
        else if m.dest = 4 then { c with sp := r } else c
      let z := some (r == 0)
      let n := some r.msb
      let psw := if m.flagw = 0 then c.psw else if m.flagw = 1 then putFlags c.psw none z n none
        else if m.flagw = 2 then putFlags c.psw C z n V else putFlags c.psw C z n none
      CompletesOn { s with freeCtr := s.freeCtr + 6 } i s g F
        (wordCtx F.ctx { d with psw := psw, prog0 := 0, prog1 := 0 } none) s.engines[g].sheaf)

/-- R134, R106, R138: a long word whose [18:0] is not a legal layout raises vector 1, a Supervisor word in User mode vector 2, each with the registers as they were; a long word whose guard is false changes nothing but PC.
R110, R111, R118: an access that its segment does not allow raises vector 4, a misaligned one vector 5, one beyond the limit vector 3, in this
order, and nothing is stored; a bank of another engine raises vector 15. -/
def Obligations.FaultingWords : Prop :=
  (∀ (s : State) (g : Fin 96) (F : Furrow) (gd : Guard) (x : BitVec 19) (k : Fin 8),
    Issues s g F →
    let faults (i : Instr) (v : Nat) : Prop := ∃ t, exec i s = .next t ∧ WordFaults s t g F v
    (xMode x ≠ 0 → xSize x = 3 → faults (.add g gd x) 1 ∧ faults (.lda g gd x) 1 ∧ faults (.sta g gd x) 1) ∧
    (x ≠ 0 → faults (.retm g gd x) 1 ∧ faults (.mbar g gd x) 1 ∧ faults (.bankfree g gd x) 1) ∧
    (F.ctx.view.shsave.getLsbD 31 = false → faults (.vclr g gd x) 1 ∧ faults (.vmac g gd x) 1) ∧
    (pswPriv F.ctx.view.psw = false →
      faults (.retx g gd 0) 2 ∧ (okMw x = true → faults (.sld g gd k x) 2 ∧ faults (.sst g gd k x) 2) ∧
      (okI x = true → bits x 1 16 = 0#16 → faults (.rdprog g gd x) 2 ∧ faults (.wrprog g gd x) 2)) ∧
    (guardTrue F.ctx.view gd = false → okIM x = true →
      Completes (.add g gd x) s g F (wordCtx F.ctx F.ctx.view none) ∧ Completes (.lda g gd x) s g F (wordCtx F.ctx F.ctx.view none))) ∧
  (∀ (s : State) (g : Fin 96) (F : Furrow) (gd : Guard) (x : BitVec 19) (a : Nat),
    Issues s g F → guardTrue F.ctx.view gd = true → okMw x = true →
    let c := F.ctx.view
    let q := c.segAt (xSeg x)
    let off := memOffset c x 4
    let faults (i : Instr) (v : Nat) : Prop := ∃ t, exec i s = .next t ∧ WordFaults s t g F v
    let denied (allowed : Bool) : Prop := allowed = false ∨ (q.sup = true ∧ pswPriv c.psw = false)
    place F.extents q off.toNat = .plot a →
    (denied q.r → faults (.lda g gd x) 4) ∧ (denied q.w → faults (.sta g gd x) 4) ∧
    (¬denied q.r → a % 4 ≠ 0 → faults (.lda g gd x) 5) ∧ (¬denied q.w → a % 4 ≠ 0 → faults (.sta g gd x) 5) ∧
    (¬denied q.r → a % 4 = 0 → q.limit.toNat < off.toNat + 4 → faults (.lda g gd x) 3) ∧
    (¬denied q.w → a % 4 = 0 → q.limit.toNat < off.toNat + 4 → faults (.sta g gd x) 3) ∧
    (a % 4 = 0 → off.toNat + 4 ≤ q.limit.toNat → s.handed g a = false → s.owns g a = false →
      (¬denied q.r → faults (.lda g gd x) 15) ∧ (¬denied q.w → faults (.sta g gd x) 15)))

/-- R120, R121, R123: after a load the register holds the loaded value at the boundary, LDP and LDD name it and the old value is kept; the next
word reads the old value; its own write of that register is replaced by the loaded value, and LDP is clear after it. -/
def Obligations.LoadDelay : Prop :=
  ∀ (o w : Ctx) (r : BitVec 2) (v : Word),
    pswLdp o.psw = false →
    let b := wordCtx o w (some (r, v))
    b.reg r = v ∧ pswLdp b.psw = true ∧ pswLdd b.psw = r ∧ b.ldv = w.reg r ∧ b.pc = o.pc + 4 ∧
    b.view.reg r = w.reg r ∧ (∀ k, k ≠ r → b.view.reg k = w.reg k) ∧
    (∀ d : Ctx, (wordCtx b d none).reg r = v ∧ pswLdp (wordCtx b d none).psw = false ∧
      ∀ k, k ≠ r → (wordCtx b d none).reg k = d.reg k)

/-! Commands of a mailbox and their transport (R36-R73, R239-R241, R382, R420, R434-R441, R470, R485) -/

/-- R53, R420: IDENTIFY, VERSIONS, CERT_READ and ATTEST complete with their results and answers; R441: a report has its magic number, its
nonce, its build and the digests at their bytes. R59, R61: IMAGE_QUERY, STATUS_READ, TALLY_READ, POWER_READ complete. Nothing but the
mailbox changes, but that a read of group 8 sets PEAK to LAST in every Field (R473). The layouts that the manual leaves open stay open (logs 20, 21, 23). -/
def Obligations.IdentityAndReports : Prop :=
  ∀ (s : State) (mb : Fin 16) (k : BitVec 16) (op : Nat) (c : ActiveCmd) (rest : List ActiveCmd),
    Runs s mb k op c rest →
    let flag (b : Bool) (n : Nat) : Nat := if b then 2 ^ n else 0
    let a : Nat := c.args[0].toNat
    (op = 0x0101 → EndsAlone (.identify mb k) s mb c rest 0
      [Config.devId.setWidth 32, (Config.devId >>> 32).setWidth 32
      , nw (s.pins.strapCode.toNat + flag s.sealed 4 + flag s.inFallow 5 + flag s.sup.firstCommit 6 + s.sup.fallow % 16 * 256 +
          flag s.sup.passThrough 12)
      , s.sup.build.setWidth 32]) ∧
    (op = 0x0102 → 64 ≤ c.bufLen → ∃ l, l.length = 64 ∧ Answers (.versions mb k 0) s mb c rest l 0 0 0) ∧
    (op = 0x0103 → 4096 ≤ c.bufLen → Answers (.certRead mb k 0) s mb c rest (Config.certChain.take 4096)
      (nw (min 4096 Config.certChain.length)) 0 0) ∧
    (op = 0x0104 → 1024 ≤ c.bufLen → ∃ l, Answers (.attest mb k 0) s mb c rest l 624 0 0 ∧ l.length = 624 ∧
      le32 l 0 = 0x0096AE01#32 ∧ le16 l 4 = 1#16 ∧ le16 l 6 = 624#16 ∧ le64 l 8 = Config.devId ∧
      (∀ i : Fin 8, le32 l (16 + 4 * i) = c.args[i.val]) ∧ le64 l 48 = s.now ∧
      le16 l 64 = (if s.inFallow then Config.romVersion else s.sup.build) ∧ le16 l 66 = s.seed.floor ∧
      le32 l 68 = s.host.sealAct ∧ le32 l 72 = s.host.sealLast ∧ (byteAt l 79).getLsbD 7 = s.sealMatch ∧
      (∀ (i : Fin 8) (j : Fin 48), byteAt l (80 + 48 * i + j) = s.sup.meas[i].extractLsb' (8 * (47 - j)) 8) ∧
      (∀ (f : Fin 4) (w : Fin 4), le32 l (464 + 16 * f + 4 * w) = if s.fieldGone f then 0 else s.csVer f w)) ∧
    (op = 0x0502 → a < 2 → ∃ r0 r1 r2 r3, EndsAlone (.imageQuery mb k) s mb c rest 0 [r0, r1, r2, r3]) ∧
    (op = 0x0502 → 2 ≤ a → EndsAlone (.imageQuery mb k) s mb c rest 9 []) ∧
    (op = 0x0701 → 256 ≤ c.bufLen → ∃ l, l.length = 256 ∧ Answers (.statusRead mb k 0) s mb c rest l 0 0 0) ∧
    (op = 0x0702 → a < 10 → a ≠ 8 → (s.snapshot a 0).length ≤ c.bufLen →
      Answers (.tallyRead mb k 0) s mb c rest (s.snapshot a 0) (nw (s.snapshot a 0).length) 0 0) ∧
    (op = 0x0702 → a = 8 → (s.snapshot a 0).length ≤ c.bufLen → ∃ t, exec (.tallyRead mb k 0) s = .next t ∧
      Ends s t mb c rest 0 [nw (s.snapshot a 0).length, 0, 0, crc32cOf (s.snapshot a 0)] none ∧
      t.mailboxes[mb].bufOut = s.snapshot a 0 ∧ t = { s with mailboxes := t.mailboxes, fields := t.fields } ∧
      ∀ f : Fin 4, t.fields[f] =
        { s.fields[f] with ports := { s.fields[f].ports with peakWindow := s.fields[f].ports.lastWindow } }) ∧
    (op = 0x0702 → 10 ≤ a → EndsAlone (.tallyRead mb k 0) s mb c rest 9 []) ∧
    (op = 0x0703 → ∃ r0 r1 r2 r3, EndsAlone (.powerRead mb k) s mb c rest 0 [r0, r1, r2, r3])

/-- R470: a snapshot holds its group, the counter count, the time and SEQ, then the counters, then the CRC-32C of all before it, then zeros up
to a multiple of 64 bytes; R469: group 7 holds three counters.
R61, R382, R383: LEDGER_READ answers the records from a sequence number on that the buffer holds, 32 bytes each, and its completion sets
LEDGER_FILL to 0. -/
def Obligations.SnapshotsAndLedgerReads : Prop :=
  (∀ (s : State) (k : Nat) (seq : Word),
    k < 9 →
    let l := s.snapshot k seq
    let v := s.groupValues k
    let n := 16 + 8 * v.length
    v.length = [40, 24, 864, 20, 12, 192, 768, 3, 48].getD k 0 ∧
    byteAt l 0 = BitVec.ofNat 8 k ∧ byteAt l 1 = 0 ∧ (le16 l 2).toNat = v.length ∧ le64 l 4 = s.now ∧ le32 l 12 = seq ∧
    (∀ i : Nat, i < v.length → le64 l (16 + 8 * i) = (v.getD i 0).setWidth 64) ∧
    le32 l n = crc32cOf (l.take n) ∧ l.length % 64 = 0 ∧ n + 4 ≤ l.length ∧ l.length < n + 68 ∧
    (∀ i, n + 4 ≤ i → byteAt l i = 0)) ∧
  (∀ (s : State) (mb : Fin 16) (k : BitVec 16) (c : ActiveCmd) (rest : List ActiveCmd),
    Runs s mb k 0x0601 c rest → 32 ≤ c.bufLen →
    let held := s.ledger.ring.filter fun r => decide (0 ≤ (r.seq - c.args[0]).toInt)
    let l := held.take (c.bufLen / 32)
    let r1 := match l.reverse with
      | r :: _ => r.seq + 1
      | [] => s.ledger.nextSeq
    let r2 := match s.ledger.ring with
      | r :: _ => r.seq
      | [] => s.ledger.nextSeq
    ∃ t image, exec (.ledgerRead mb k 0) s = .next t ∧
      Ends s t mb c rest 0 [nw l.length, r1, r2, crc32cOf image] none ∧ t.mailboxes[mb].bufOut = image ∧
      image.length = 32 * l.length ∧
      (∀ i r, l[i]? = some r → le32 image (32 * i) = r.seq ∧ le64 image (32 * i + 4) = r.time ∧
        byteAt image (32 * i + 12) = BitVec.ofNat 8 r.source ∧ byteAt image (32 * i + 13) = r.item.field ∧
        le16 image (32 * i + 16) = r.item.event ∧ le16 image (32 * i + 18) = r.item.obj ∧ le32 image (32 * i + 20) = r.item.arg1 ∧
        le32 image (32 * i + 24) = r.item.arg2 ∧ le32 image (32 * i + 28) = crc32cOf (bytesAt image (32 * i) 28)) ∧
      t.ledger = { s.ledger with fill := 0 } ∧
      t = { s with mailboxes := t.mailboxes, ledger := t.ledger, sup := { s.sup with ledgerMark := false } })

/-- R62: EVENT_WAIT stays in execution from its start on, and ends with the event, its Field and its Ledger sequence once its event has come,
or with E_EXPIRED when its time has passed without one. R43, R63: MAILBOX_GRANT gives a mailbox but MB00 the rights and Fields of its
arguments, IDENT always. R45: MAILBOX_REVOKE of a mailbox with no command in execution but an EVENT_WAIT ends that with E_ABORTED, leaves the
rights of reset, gives its furrows to MB00 and drops its session; both end with E_ARG for MB00 and for no mailbox. R65: RESET of cold and of
warm reach ends with its record marked with the reset that follows it; a reach that is none ends with E_ARG. -/
def Obligations.EventsAndRights : Prop :=
  ∀ (s : State) (mb : Fin 16) (k : BitVec 16) (op : Nat) (c : ActiveCmd) (rest : List ActiveCmd) (m : Fin 16),
    Runs s mb k op c rest →
    let code : Nat := c.args[0].toNat
    let resets (i : Instr) (cold : Bool) : Prop :=
      ∃ t, exec i s = .next t ∧ Ends s t mb c rest 0 [] (some cold) ∧ t = { s with mailboxes := t.mailboxes }
    (op = 0x0605 → GoesOn (.eventWait mb k) s mb k
      fun x => { x with started := true, since := if x.started then x.since else s.now }) ∧
    (op = 0x0605 → ∀ ev f seq, c.hit = some (ev, f, seq) →
      EndsAlone (.eventWaitCompletion mb k) s mb c rest 0 [nw ev, nw f, seq]) ∧
    (op = 0x0605 → c.started = true → c.hit = none → c.args[1] ≠ 0 → c.args[1].toNat * 1000000 ≤ s.since c.since →
      EndsAlone (.eventWaitTimeout mb k) s mb c rest 0x15 []) ∧
    (op = 0x0801 → code = m.val → m ≠ 0 →
      let rights : BitVec 20 := 1#20 ||| ((c.args[1] &&& 0x1FE#32).setWidth 20) ||| ((c.args[2] &&& 0xF#32).setWidth 20 <<< 16)
      ∃ t, exec (.mailboxGrant mb k) s = .next t ∧
        Ends (s.updMailbox m fun M => { M with rights := rights }) t mb c rest 0 [] none ∧ t = { s with mailboxes := t.mailboxes }) ∧
    (op = 0x0802 → code = m.val → m ≠ 0 → mb ≠ m →
      let M := s.mailboxes[m]
      (M.active = [] ∨ c.started = false ∧ ∃ d, M.active = [d] ∧ d.opcode = opEventWait) →
      ∃ t, exec (.mailboxRevoke mb k) s = .next t ∧ t.mailboxes[m].rights = 3#20 ∧ t.mailboxes[m].active = [] ∧
        (M.active = [] → t.mailboxes[m] = { M with rights := 3#20 }) ∧
        (∀ d, M.active = [d] → t.mailboxes[m].records = M.records ++ [cplOf d.tag 0x14 d.k d.opcode [] none]) ∧
        t.mailboxes[mb].active = rest ∧
        t.mailboxes[mb].records = s.mailboxes[mb].records ++ [cplOf c.tag 0 c.k c.opcode [] none] ∧
        (∀ n : Fin 16, n ≠ m → n ≠ mb → t.mailboxes[n] = s.mailboxes[n]) ∧
        t.furrows = (s.furrows.map fun F => if F.owner = m then { F with owner := 0 } else F) ∧
        t.sup = { s.sup with sessions := t.sup.sessions } ∧ (∀ x, x ∈ t.sup.sessions ↔ x ∈ s.sup.sessions ∧ x.mb ≠ m) ∧
        t = { s with mailboxes := t.mailboxes, furrows := t.furrows, sup := t.sup, ledger := t.ledger, tally := t.tally }) ∧
    ((op = 0x0801 ∨ op = 0x0802) → (code = 0 ∨ 16 ≤ code) →
      (op = 0x0801 → EndsAlone (.mailboxGrant mb k) s mb c rest 9 []) ∧
      (op = 0x0802 → EndsAlone (.mailboxRevoke mb k) s mb c rest 9 [])) ∧
    (op = 0x0808 → code = 0 → resets (.resetColdCommand mb k) true) ∧
    (op = 0x0808 → code = 1 → resets (.resetWarmCommand mb k) false) ∧
    (op = 0x0808 → 3 ≤ code → EndsAlone (.resetColdCommand mb k) s mb c rest 9 [] ∧ EndsAlone (.resetWarmCommand mb k) s mb c rest 9 [] ∧
      EndsAlone (.resetFieldCommand mb k) s mb c rest 9 [])

/-- R36, R42, R71: the registers of a mailbox page: the CMD_TAIL doorbell, which also leaves Dormant; EN set with valid sizes empties the
mailbox and enables it, and with sizes that are not valid it stays 0 and the Ledger takes a record; EN cleared stops it, ends an EVENT_WAIT
with E_ABORTED, and ENABLED falls once no command has its record to write; a CPL_HEAD write frees the records before it and asks for a further
message where the condition still holds; HOLDOFF has passed once the oldest pending record has waited it. -/
def Obligations.MailboxRegisters : Prop :=
  ∀ (s : State) (rid : Rid) (mb : Fin 16) (n : BitVec 16) (v : Word),
    let M := s.mailboxes[mb]
    let put (N : Mailbox) : State := { s with mailboxes := s.mailboxes.set mb N }
    let cmd : BitVec 4 := v.extractLsb' 4 4
    let cpl : BitVec 4 := v.extractLsb' 8 4
    (s.pins.dormantAck = false → exec (.cmdTailDoorbell rid mb n) s = .next (put { M with cmdTail := n })) ∧
    (s.pins.dormantAck = true → ∃ t, exec (.cmdTailDoorbell rid mb n) s = .next t ∧ t.mailboxes = s.mailboxes.set mb { M with cmdTail := n } ∧
      t.pins = { s.pins with dormantAck := false } ∧ t = { s with mailboxes := t.mailboxes, pins := t.pins, almanac := t.almanac }) ∧
    (M.enabled = false → M.enReq = false →
      (4 ≤ cmd.toNat → cmd.toNat ≤ cpl.toNat → cmd.toNat ≤ 10 → cpl.toNat ≤ 11 →
        exec (.mailboxEnable rid mb v) s = .next (put
          { M with
            cmdLog2 := cmd, cplLog2 := cpl, enReq := true, enabled := true, cmdHead := 0, cmdTail := 0, cplHead := 0, cplTail := 0
            recent := [], pendAt := [], holdoffUp := false })) ∧
      (cmd.toNat < 4 ∨ cpl.toNat < cmd.toNat ∨ 10 < cmd.toNat ∨ 11 < cpl.toNat →
        ∃ t, exec (.mailboxEnable rid mb v) s = .next t ∧ t.mailboxes = (put { M with cmdLog2 := cmd, cplLog2 := cpl }).mailboxes ∧
          t = { s with mailboxes := t.mailboxes, ledger := t.ledger, tally := t.tally })) ∧
    (M.enReq = true → M.enabled = true → cmd = M.cmdLog2 → cpl = M.cplLog2 →
      (M.active = [] → M.records = [] → exec (.mailboxDisable rid mb v) s = .next (put
        { M with enReq := false, enabled := false, retryFetch := false, retryWrite := false })) ∧
      (∀ c, M.active = [c] → c.opcode = opEventWait → M.retryWrite = false →
        ∃ t r, exec (.mailboxDisable rid mb v) s = .next t ∧ t = put t.mailboxes[mb] ∧ t.mailboxes[mb].enReq = false ∧
          t.mailboxes[mb].enabled = true ∧ t.mailboxes[mb].active = [] ∧ t.mailboxes[mb].records = M.records ++ [r] ∧ r.tag = c.tag ∧
          r.status = 0x14#16 ∧ r.index = c.k)) ∧
    (let p := M.pendAt.drop (M.pendAt.length - (M.cplTail - n).toNat)
     let u : Bool := match p with
       | [] => false
       | x :: _ => decide (M.irqHoldoff.toNat * 1000 ≤ s.since x)
     ∃ t, exec (.cplHeadWrite rid mb n) s = .next t ∧ t = { put { M with cplHead := n, pendAt := p, holdoffUp := u } with host := t.host } ∧
      t.host = { s.host with msgDue := t.host.msgDue, msgHeld := t.host.msgHeld } ∧
      (t.host.msgDue[mbSource mb] = true ↔ t.mailboxes[mb].irq = true)) ∧
    (∀ x l, M.cplTail ≠ M.cplHead → M.pendAt = x :: l →
      (M.irqHoldoff.toNat * 1000 ≤ s.since x → exec (.mailboxHoldoffExpiry mb) s = .next (put { M with holdoffUp := true })) ∧
      (s.since x < M.irqHoldoff.toNat * 1000 → exec (.mailboxHoldoffExpiry mb) s = .next s)) ∧
    ((put { M with holdoffUp := true }).mailboxes[mb].irq = true ↔ M.irqEn = true ∧ M.cplTail ≠ M.cplHead)

/-- R48, R71, R73: a fetch reads the descriptor of the mailbox whose turn it is: one that passes every check joins the commands in execution
with its arguments, and begins where nothing holds it back; one that fails completes with the code, and a bad CRC is reported without entering
the table; a descriptor with RETRY whose TAG is in the table gets a copy of its record. R38, R40: a faulted fetch is repeated. Nothing but the
mailbox, the turn and the count of starts changes; commands that have waited behind others may begin. R32, R33, R34, R39: the request reads the
64 bytes of the descriptor's slot, with SSV 1 and the mailbox's number in SSID.
R48: the order of the checks: VERSION, OPCODE, reserved fields, the Fallow subset, rights and FIELDS, availability, arguments. -/
def Obligations.DescriptorsFetchedAndChecked : Prop :=
  (∀ (s : State) (mb : Fin 16) (l : List Byte) (e : Nat) (w : Word),
    s.supServes = true → l.length = 64 →
    let M := s.mailboxes[mb]
    let slot : DWord := M.cmdBase + BitVec.ofNat 64 (64 * (M.cmdHead.toNat % 2 ^ M.cmdLog2.toNat))
    s.supBlocked false slot 64 = false →
    let bare (l : List ActiveCmd) : List ActiveCmd := l.map fun c => { c with begun := false, ord := 0 }
    let tag := le32 l 4
    let op := le16 l 0
    let retry := (byteAt l 2).getLsbD 1
    let hit := M.recent.find? fun r => r.tag == tag
    let crcOk := crc32cOf (l.take 60) = le32 l 60
    let reads (q : MbTraffic) : Prop := ∃ r, q.last = [r] ∧ r.write = false ∧ r.addr = slot ∧ r.len = 64 ∧ r.ssv = true ∧ r.ssid = BitVec.ofNat 5 mb.val
    let put (b : Bool) (n : Nat) (N : Mailbox) : State :=
      { s with
        mailboxes := s.mailboxes.set mb N
        sup := { s.sup with rrMailbox := if b then mb.val else s.sup.rrMailbox, starts := n } }
    let ends (i : Instr) (b : Bool) (h : Mailbox → Mailbox) : Prop :=
      ∃ l q n, exec i s = .next (put b n (h { M with
          active := l, cmdHead := M.cmdHead + 1, ringFault := false, retryFetch := false, reqs := q })) ∧ reads q ∧ bare l = bare M.active ∧
        ((∀ d ∈ M.active, d.going = true) → l = M.active ∧ n = s.sup.starts)
    let does (i : Instr) (b : Bool) : Prop :=
      (crcOk → (retry = true → hit = none ∧ ∀ c ∈ M.active, c.tag ≠ tag) → s.checkDesc mb l = (0, w) → (∀ c ∈ M.active, c.k ≠ M.cmdHead) →
        ∃ a c q n, exec i s = .next (put b n { M with
            active := a ++ [c], cmdHead := M.cmdHead + 1, ringFault := false, retryFetch := false, reqs := q }) ∧ reads q ∧
          bare a = bare M.active ∧ c.k = M.cmdHead ∧ c.opcode = op ∧ c.tag = tag ∧ c.fence = (byteAt l 2).getLsbD 0 ∧ c.bufAddr = le64 l 8 ∧
          c.bufLen = (le32 l 16).toNat ∧ c.started = false ∧ (M.active = [] → c.begun = true ∧ n = s.sup.starts + 1) ∧
          ∀ a : Fin 10, c.args[a] = le32 l (20 + 4 * a)) ∧
      (crcOk → (retry = true → hit = none ∧ ∀ c ∈ M.active, c.tag ≠ tag) → s.checkDesc mb l = (e, w) → e ≠ 0 →
        let r := cplOf tag e M.cmdHead op [w] none
        ends i b fun N => { N with records := M.records ++ [r], recent := (r :: M.recent).take 64 }) ∧
      (crcOk → retry = true → ∀ r, hit = some r →
        ends i b fun N => { N with records := M.records ++ [{ r with index := M.cmdHead, reset := none }] }) ∧
      (¬crcOk → ends i b fun N => { N with records := M.records ++ [cplOf tag 1 M.cmdHead op [] none] })
    (s.nextMailbox = some mb →
      does (.descriptorFetch (.ok l)) true ∧
      (∀ r, ∃ q, exec (.descriptorFetch (.bad r)) s = .next (put true s.sup.starts
        { M with ringFault := true, retryFetch := true, reqs := q }) ∧ reads q)) ∧
    (M.retryWrite = false → M.retryFetch = true → M.fetchable = true → M.room = true → does (.ringAccessRetry mb (.ok l)) false)) ∧
  (∀ (s : State) (mb : Fin 16) (l : List Byte),
    let op := le16 l 0
    let code := (s.checkDesc mb l).1
    let a := descArgs l
    let r := s.rightsOf mb
    (byteAt l 3 ≠ 1 → code = 2) ∧
    (byteAt l 3 = 1 →
      (cmdSpec op = none → code = 4) ∧
      (∀ p, cmdSpec op = some p →
        let reserved := byteAt l 2 &&& 0xFC = 0 ∧ ∀ i : Fin 10, a[i] &&& ~~~(p.args.getD i.val 0) = 0
        let subset := s.inFallow = true → p.fallow = true ∧ inFallowSet op a = true
        let allowed := r.getLsbD p.right = true ∧ s.fieldsNamed mb op a &&& ~~~(r.extractLsb' 16 4 : BitVec 4) = 0
        (¬reserved → code = 3) ∧ (reserved → ¬subset → code = 5) ∧ (reserved → subset → ¬allowed → code = 6) ∧
        (reserved → subset → allowed → s.availError p.avail a ≠ 0 → code = s.availError p.avail a) ∧
        (reserved → subset → allowed → s.availError p.avail a = 0 →
          ((le64 l 8).toNat % 64 ≠ 0 ∨ 16777216 < (le32 l 16).toNat ∨ (le32 l 16).toNat < p.buf → code = 9)) ∧
        (code = 0 → reserved ∧ subset ∧ allowed ∧ s.availError p.avail a = 0 ∧ p.buf ≤ (le32 l 16).toNat))))

/-- R49, R50, R36: the record at the front is written with PHASE 1 on the first pass through the ring and 0 on the second, and its CRC; CPL_TAIL
advances; an EN that has been cleared ends ENABLED with the last record. R40: a faulted write is kept and written at the retry. R32, R33, R34,
R39: the request writes the 32 bytes of the record's slot, with SSV 1 and the mailbox's number in SSID. -/
def Obligations.RecordsWritten : Prop :=
  ∀ (s : State) (mb : Fin 16) (r : CplRecord) (rest : List CplRecord) (resp : BitVec 3) (b : List Byte),
    let M := s.mailboxes[mb]
    let slot : DWord := M.cplBase + BitVec.ofNat 64 (32 * (M.cplTail.toNat % 2 ^ M.cplLog2.toNat))
    let on : Bool := M.enabled && (M.enReq || !M.active.isEmpty || !rest.isEmpty)
    let record (l : List Byte) : Prop :=
      l.length = 32 ∧ le32 l 0 = r.tag ∧ le16 l 4 = r.status ∧
        byteAt l 6 = (if M.cplTail.toNat / 2 ^ M.cplLog2.toNat % 2 = 0 then 1 else 0) ∧ byteAt l 7 = 0 ∧ le16 l 8 = r.index ∧
        le16 l 10 = r.opcode ∧ le32 l 12 = r.r0 ∧ le32 l 16 = r.r1 ∧ le32 l 20 = r.r2 ∧ le32 l 24 = r.r3 ∧
        le32 l 28 = crc32cOf (l.take 28)
    let writes (q : MbTraffic) (l : List Byte) : Prop :=
      ∃ x, q.last = [x] ∧ x.write = true ∧ x.addr = slot ∧ x.bytes = l ∧ x.ssv = true ∧ x.ssid = BitVec.ofNat 5 mb.val
    let written (i : Instr) : Prop :=
      ∃ l q, exec i s = .next { s with mailboxes := s.mailboxes.set mb { M with
          records := rest, recOut := l, cplTail := M.cplTail + 1, pendAt := M.pendAt ++ [s.now], ringFault := false, retryWrite := false
          enabled := on, reqs := q } } ∧ record l ∧ writes q l
    s.supServes = true → M.records = r :: rest → r.reset = none → s.supBlocked true slot 32 = false →
    (M.retryWrite = false → written (.completionRecordWrite mb 0)) ∧
    (M.retryWrite = true → written (.ringAccessRetry mb (.ok b))) ∧
    (M.retryWrite = false → resp ≠ 0 → ∃ l q, exec (.completionRecordWrite mb resp) s =
      .next { s with mailboxes := s.mailboxes.set mb { M with ringFault := true, retryWrite := true, reqs := q } } ∧ record l ∧ writes q l)

/-! Resets and start (R20-R28, R371, R402-R423) -/

/-- R402, R404, R405, R406: every source of cold reach clears everything to its reset value and loses Plot; the Seed store, the island and the
inputs stand; the cause waits for release and in the Ledger's first record. While a cold reset is in force a further source only adds its
record; a pulse of BLK_RST_N below 20 ns does nothing.
R402, R405, R406, R407, R419: every source of warm reach stops the engines, the movers and the supervisor, resets the mailboxes, timers and
drills, and takes every furrow off its engine; Plot, the time base, the seal registers, the Ledger, the Seed store and the configuration of the
retained region stand. -/
def Obligations.BlockResets : Prop :=
  (∀ (s : State) (rid : Rid) (ns : Nat) (cause : BitVec 4),
    let zeroed (t : State) : Prop :=
      t.mailboxes = State.reset.mailboxes ∧ t.host = State.reset.host ∧ t.engines = State.reset.engines ∧ t.sup = State.reset.sup ∧
      t.almanac = State.reset.almanac ∧ t.sower = State.reset.sower ∧ t.dbg = State.reset.dbg ∧ t.furrows = [] ∧ t.plot = [] ∧
      t.tally = []
    let fieldsOf (t : State) : Prop :=
      ∀ f : Fin 4, t.fields[f].st = .resetting ∧ t.fields[f].prog = [] ∧ t.fields[f].queueTab = [] ∧ t.fields[f].cust = Customer.none ∧
        t.fields[f].pinsLive = false ∧ t.fields[f].drills = State.reset.fields[f].drills ∧ t.fields[f].pwrOk = s.fields[f].pwrOk ∧
        (∀ b : Fin 32, t.fields[f].banks[b].epoch % 2 = 1 ∧ s.fields[f].banks[b].epoch < t.fields[f].banks[b].epoch ∧
          (t.fields[f].banks[b].st = .retired ↔ bankKey f b ∈ s.seed.retiredBanks) ∧
          (t.fields[f].banks[b].st ≠ .retired → t.fields[f].banks[b].st = .free))
    let firstRecord (t : State) (c : BitVec 4) : Prop :=
      t.ledger.ring = [] ∧ t.ledger.nextSeq = 0 ∧ t.ledger.fill = 0 ∧
      t.ledger.queues[(0 : Fin 15)] = [{ field := 0xFF, event := 1, obj := 0, arg1 := c.setWidth 32, arg2 := 0, lost := 0 }] ∧
      ∀ n : Fin 15, n ≠ 0 → t.ledger.queues[n] = []
    let cold (i : Instr) (c : BitVec 4) (brn : Bool) : Prop :=
      s.reset?.any BlockReset.cold = false →
        ∃ t, exec i s = .next t ∧ t.reset? = some { cold := true, cause := c, step := 0, failed := false } ∧ zeroed t ∧ fieldsOf t ∧
          firstRecord t c ∧ t.seed = s.seed ∧ t.island = s.island ∧ t.pending = s.pending ∧ t.freeCtr = s.freeCtr ∧
          t.pins = { s.pins with memKeepAck := false, dormantAck := false, brnout := brn }
    let old := s.pins.brnout
    cold (.coldReset cause) cause old ∧ cold .powerOnDetect 0 old ∧ (100 ≤ ns → cold (.blkRstNAssert ns) 1 old) ∧
    cold (.socBrnoutAssert true) 2 true ∧ (s.unlocked rid = true → cold (.swResetCold rid) 3 old) ∧
    (s.pins.clkFault.getLsbD 9 = false → s.debugWrite = 0x1F#5 → cold .debugResetCold 5 old) ∧
    (ns < 20 → exec (.blkRstNAssert ns) s = .next s) ∧
    (s.reset?.any BlockReset.cold = true → ∃ t, exec (.coldReset cause) s = .next t ∧
      t = { s with ledger := t.ledger, tally := t.tally } ∧ t.ledger.ring = s.ledger.ring)) ∧
  (∀ (s : State) (rid : Rid) (kind : Fin 3) (cause : BitVec 4),
    let kept (t : State) : Prop :=
      t.plot = s.plot ∧ (∀ f a, t.plotByte f a = s.plotByte f a) ∧ t.seed = s.seed ∧ t.island = s.island ∧
      t.almanac.tb = s.almanac.tb ∧ t.host.sealRef = s.host.sealRef ∧ t.host.sealAct = s.host.sealAct ∧
      t.host.sealLast = s.host.sealLast ∧ t.ledger.ring = s.ledger.ring ∧ t.ledger.nextSeq = s.ledger.nextSeq ∧
      t.sup.conf = s.sup.conf ∧ t.sup.firstCommit = s.sup.firstCommit ∧ t.pending = s.pending
    let stopped (t : State) : Prop :=
      t.mailboxes = State.reset.mailboxes ∧ t.host.unlocks = [] ∧ t.dbg.session = none ∧ t.sup.released = false ∧
      t.sup.running = false ∧ t.almanac.timers = State.reset.almanac.timers ∧
      (∀ g : Fin 96, t.engines[g].cur = none ∧ t.engines[g].order = [] ∧ t.engines[g].resetHeld = true ∧ t.engines[g].st = .doze) ∧
      t.furrows.map Furrow.id = s.furrows.map Furrow.id ∧
      (∀ F ∈ t.furrows, F.engine = none ∧ (F.st = .unplaced ∨ F.st = .failed)) ∧
      (∀ f : Fin 4, (s.fields[f].st = .off → t.fields[f].st = .off) ∧
        (s.fields[f].st ≠ .off → t.fields[f].st = .resetting ∧ t.fields[f].padHold = true ∧ t.fields[f].ports.jobs = [] ∧
          (t.fields[f].draining = true ↔ s.fields[f].ports.txns ≠ []) ∧
          ∀ d : Fin 16, t.fields[f].drills[d] = State.reset.fields[f].drills[d]))
    let warm (i : Instr) (c : BitVec 4) : Prop :=
      s.reset? = none →
        ∃ t, exec i s = .next t ∧ kept t ∧ stopped t ∧
          t.reset? = some
            { cold := false, cause := c, step := 0
              failed := s.sup.released && !s.sup.started && decide (6 ≤ c.toNat ∧ c.toNat ≤ 10) }
    warm (.warmReset cause) cause ∧ (s.unlocked rid = true → warm (.swResetWarm rid) 3) ∧
    (s.pins.clkFault.getLsbD 9 = false → s.debugWrite = 0x1F#5 → warm .debugResetWarm 5) ∧
    (s.sup.released = true → warm (.supervisorCriticalError kind) (BitVec.ofNat 4 (7 + kind.val))) ∧
    (s.almanac.wds.running = true → s.almanac.wds.en = true → s.almanac.wds.frozen = false → s.almanac.wds.remain = 0 →
      warm .wdsExpiry 6) ∧
    (s.almanac.deadline = some 0 → s.sup.started = false → s.sup.fallow = 0 →
      warm .startDeadlineExpiry 10))

/-- R28, R101, R371, R402, R403, R406, R477: every source of a Field reset puts the Field into Resetting: its drills idle, its program memory and
queues empty, its banks unowned, pads held, its engines reset, its furrows lost; the Seed store stands, and Plot where no descriptor crosses the
bridge and no furrow changes Field. RESET of a Field stays in execution until the Field is Out (R65).
R402, R403, R406: an engine reset takes every furrow off the engine and leaves the engine in engine reset with its registers at their reset
values; Plot stands. A Field that is Off or Resetting takes none. -/
def Obligations.FieldAndEngineResets : Prop :=
  (∀ (s : State) (f : Fin 4) (cause : BitVec 4) (mb : Fin 16) (k : BitVec 16) (c : ActiveCmd) (rest : List ActiveCmd),
    let own : Fin 10 := ⟨f.val, by omega⟩
    let field (t : State) : Prop :=
      t.fields[f].st = .resetting ∧ t.fields[f].padHold = true ∧ t.fields[f].pinsLive = false ∧ t.fields[f].prog = [] ∧
      t.fields[f].queueTab = [] ∧ t.fields[f].cust = Customer.none ∧ t.fields[f].ports.jobs = [] ∧ t.fields[f].units = State.reset.fields[f].units ∧
      (∀ d : Fin 16, t.fields[f].drills[d] = State.reset.fields[f].drills[d]) ∧
      (∀ b : Fin 32, t.fields[f].banks[b].owner = 0 ∧ t.fields[f].banks[b].shared = false ∧
        t.fields[f].banks[b].st = if bankKey f b ∈ s.seed.retiredBanks then .retired else .free)
    let engines (t : State) : Prop :=
      ∀ e : Fin 24, t.engines[globalOf f e].cur = none ∧ t.engines[globalOf f e].order = [] ∧ t.engines[globalOf f e].phase = .ready ∧
        t.engines[globalOf f e].resetHeld = true ∧ t.engines[globalOf f e].sheaf = Sheaf.zero
    let rest' (t : State) : Prop :=
      ((∀ h : Fin 4, ∀ j ∈ s.fields[h].ports.jobs, j.bridge = none) → (∀ m ∈ s.sower.migs, fieldOf m.dst = fieldOf m.src) → t.plot = s.plot) ∧
      t.seed = s.seed ∧ t.almanac.tb = s.almanac.tb ∧ t.pending = s.pending ∧
      t.furrows.map Furrow.id = s.furrows.map Furrow.id ∧
      (∀ F ∈ t.furrows, F.home = some f → F.extents ≠ [] → F.st = .unplaced ∨ F.st = .failed)
    let resets (i : Instr) : Prop :=
      s.reset? = none → s.fields[f].st ≠ .off → s.fields[f].st ≠ .resetting →
        ∃ t, exec i s = .next t ∧ field t ∧ engines t ∧ rest' t ∧
          (s.sealed = false → s.sup.committedFields.getLsbD f.val = true → t.sup.reapply.getLsbD f.val = true)
    resets (.fieldReset f cause) ∧ (s.pins.clkFault.getLsbD 9 = false → s.debugWrite.getLsbD f.val = true → resets (.debugResetField f)) ∧
    (s.almanac.wdf[f].running = true → s.almanac.wdf[f].en = true → s.almanac.wdf[f].frozen = false → s.almanac.wdf[f].remain = 0 →
      resets (.wdfExpiry f)) ∧
    (s.pins.clkFault.getLsbD f.val = false → s.mayStop own = false → resets (.clockFault own)) ∧
    (s.pins.clkFault.getLsbD f.val = false → resets (.fieldUndervoltage f)) ∧
    (s.pins.clkFault.getLsbD f.val = false → (s.fields[f].st = .out → s.fields[f].pwrReq = true) → resets (.pwrEngOkChange f false)) ∧
    (Runs s mb k 0x0808 c rest → c.args[0] = 2 → c.args[1].toNat = f.val → c.started = false → s.fieldHeld (some (mb, k)) f.val = false →
      resets (.resetFieldCommand mb k) ∧
      (s.reset? = none → s.fields[f].st = .inService → ∃ t, exec (.resetFieldCommand mb k) s = .next t ∧
        ∃ d ∈ t.mailboxes[mb].active, d.k = k ∧ d.opcode = c.opcode ∧ d.started = true))) ∧
  (∀ (s : State) (g : Fin 96) (cause : BitVec 4),
    let resets (i : Instr) : Prop :=
      (s.reset? = none → s.fields[fieldOf g].st ≠ .off → s.fields[fieldOf g].st ≠ .resetting →
        ∃ t, exec i s = .next t ∧ t.engines[g].cur = none ∧ t.engines[g].order = [] ∧ t.engines[g].phase = .ready ∧
          t.engines[g].resetHeld = true ∧ t.engines[g].sheaf = Sheaf.zero ∧ t.engines[g].hold = none ∧
          (∀ F ∈ t.furrows, F.engine ≠ some g) ∧ t.plot = s.plot ∧ t.seed = s.seed ∧ t.pending = s.pending) ∧
      (s.fields[fieldOf g].st = .off ∨ s.fields[fieldOf g].st = .resetting →
        ∃ t, exec i s = .next t ∧ t = { s with ledger := t.ledger, tally := t.tally })
    resets (.engineReset g cause) ∧ (s.pins.clkFault.getLsbD 9 = false → s.debugWrite.getLsbD (fieldOf g).val = true → resets (.debugResetEngine g)))

/-- R28, R476, R477: a clock fault sets its bit; the Almanac clock's puts it into LF mode, and the FAB clock's ends every fabric transaction;
recovery clears the bit. PWR_ENG_OK takes a Field between Out, Off and Resetting; the contents of Plot are lost without retention (R23).
R408, R409, R412, R479, R483, R490: memory-keep, program-pulse and drain completions; the heartbeat kicks a Field's watchdog when every engine
lets it pass; Dormant and its end; the island's loss. -/
def Obligations.ClocksSuppliesHeartbeats : Prop :=
  (∀ (s : State) (c : Fin 10) (f : Fin 4),
    let with_ (p : Pins) (t : State) : Prop := t = { s with pins := p, ledger := t.ledger, tally := t.tally }
    let mask : BitVec 10 := BitVec.ofNat 10 (2 ^ c.val)
    (s.pins.clkFault.getLsbD c.val = false → s.mayStop c = false →
      (c = 4 ∨ c = 6 ∨ c = 8 ∨ c = 9 → ∃ t, exec (.clockFault c) s = .next t ∧ with_ { s.pins with clkFault := s.pins.clkFault ||| mask } t) ∧
      (c = 7 → s.pins.clkFault.getLsbD 8 = false → ∃ t, exec (.clockFault c) s = .next t ∧ t.almanac = { s.almanac with lf := true } ∧
        t = { s with pins := { s.pins with clkFault := s.pins.clkFault ||| mask }, almanac := t.almanac, ledger := t.ledger, tally := t.tally }) ∧
      (c = 5 → (∀ h : Fin 4, s.fields[h].ports.txns = []) →
        ∃ t, exec (.clockFault c) s = .next t ∧ with_ { s.pins with clkFault := s.pins.clkFault ||| mask } t)) ∧
    (s.pins.clkFault.getLsbD c.val = true → ∃ t, exec (.clockRecovery c) s = .next t ∧
      with_ { s.pins with clkFault := s.pins.clkFault &&& ~~~mask } t) ∧
    (s.pins.clkFault.getLsbD c.val = true ∨ s.mayStop c = true → exec (.clockFault c) s = .next s) ∧
    (s.fields[f].st = .out → s.fields[f].pwrReq = false → ∃ t, exec (.pwrEngOkChange f false) s = .next t ∧
      t.fields[f].st = .off ∧ t.fields[f].pwrOk = false ∧ t.fields[f].chg = s.fields[f].chg + 1 ∧ t.plot = s.plot ∧
      (∀ h : Fin 4, h ≠ f → t.fields[h] = s.fields[h]) ∧ t.engines = s.engines ∧ t.furrows = s.furrows) ∧
    (s.fields[f].st = .off → s.fields[f].pwrReq = true → ∃ t, exec (.pwrEngOkChange f true) s = .next t ∧
      t.fields[f].st = .resetting ∧ t.fields[f].pwrOk = true ∧ (∀ h : Fin 4, h ≠ f → t.fields[h] = s.fields[h]) ∧
      t.furrows = s.furrows ∧ (∀ e : Fin 24, t.engines[globalOf f e].resetHeld = true) ∧
      (s.fields[f].retain = true → t.plot = s.plot) ∧
      (s.fields[f].retain = false → ∀ b : Fin 32, s.fields[f].banks[b].epoch < t.fields[f].banks[b].epoch ∧
        t.fields[f].banks[b].epoch % 2 = 1))) ∧
  (∀ (s : State) (f : Fin 4),
    let w : Watchdog := { s.almanac.wdf[f] with remain := s.almanac.wdf[f].period.toNat * 98304 }
    let kicked : Prop :=
      ∃ t, exec (.fieldHeartbeat f) s = .next t ∧ t.almanac = { s.almanac with wdf := s.almanac.wdf.set f w } ∧
        (∀ e : Fin 24, t.engines[globalOf f e] = { s.engines[globalOf f e] with beat := false }) ∧
        (∀ g : Fin 96, fieldOf g ≠ f → t.engines[g] = s.engines[g]) ∧
        t = { s with almanac := t.almanac, engines := t.engines }
    (s.memKeepReq = true → exec .memKeepAckRise s = .next { s with pins := { s.pins with memKeepAck := true } }) ∧
    (exec .seedProgramPulseCompletion s = .next { s with seed := { s.seed with pulse := false } }) ∧
    (s.fields[f].ports.txns = [] → s.fields[f].draining = true → ∃ t, exec (.fabricDrainCompletion f) s = .next t ∧
      t = { s with fields := t.fields } ∧
      t.fields[f] = { s.fields[f] with draining := false, ports := { s.fields[f].ports with quarantine := [] } } ∧ ∀ h : Fin 4, h ≠ f → t.fields[h] = s.fields[h]) ∧
    (s.supAlive = true → s.fields[f].st = .inService → s.almanac.wdf[f].frozen = false →
      (∀ e : Fin 24, s.beatOk (globalOf f e) = true) → kicked) ∧
    (s.supAlive = true → s.fields[f].st = .inService → (∃ e : Fin 24, s.beatOk (globalOf f e) = false) →
      ∃ t, exec (.fieldHeartbeat f) s = .next t ∧ t.almanac = s.almanac) ∧
    (s.sealed = false → s.supAlive = true → s.reset? = none → s.pins.clkFault.getLsbD 8 = false → s.fields[(0 : Fin 4)].st = .out →
      (∀ h : Fin 4, h ≠ 0 → s.fields[h].st = .off) → (∀ e : Fin 24, s.engines[globalOf 0 e].st = .doze) →
      (∀ m : Fin 16, s.mailboxes[m].active = []) → s.dbg.session = none →
      let w := { s.almanac.wds with running := false }
      let P := { s.fields[(0 : Fin 4)].ports with credits := 0, txOpen := none, rxOpen := none, rxSkip := false, inHeld := 0 }
      ∃ t, exec .dormantEntry s = .next t ∧ t.fields[(0 : Fin 4)] = { s.fields[(0 : Fin 4)] with ports := P } ∧
        (∀ h : Fin 4, h ≠ 0 → t.fields[h] = s.fields[h]) ∧
        t = { s with
          pins := { s.pins with dormantAck := true }, almanac := { s.almanac with lf := true, wds := w }, fields := t.fields }) ∧
    (s.pins.dormantAck = true →
      let w := { s.almanac.wds with remain := s.almanac.wds.period.toNat * 98304, running := true }
      exec .dormantExit s = .next { s with pins := { s.pins with dormantAck := false }, almanac := { s.almanac with wds := w } }) ∧
    (exec .vbakLoss s = .next { s with island := { coldResets := 0, cause := 0, failedStarts := 0 } }))

/-- R408, R410, R412, R416, R417: the steps of release: the island counts and takes the cause, a cold reset samples the strap over four
conversions, the supervisor is released with its measurement and its deadline, the Fields follow in turn; a Field or an engine leaves its own
reset by itself, a Field whose start test has run without a second one. Nothing moves while a source, a program pulse or a fabric drain holds the reset. -/
def Obligations.ReleaseSteps : Prop :=
  ∀ (s : State) (r : BlockReset) (conv : List (BitVec 6)) (defects : List (Nat × List Nat)) (f : Fin 4) (g : Fin 96),
    let go : Prop := s.pins.brnout = false ∧ s.seed.pulse = false ∧ ∀ h : Fin 4, s.fields[h].draining = false
    let i : Instr := .resetRelease .block conv defects
    let at_ (n : Nat) : Option BlockReset := some { r with step := n }
    let one := s.island
    let cold : Island := { one with coldResets := if one.coldResets = 0xFFFF then 0xFFFF else one.coldResets + 1, cause := r.cause }
    let fails : BitVec 3 := if r.failed = true ∧ one.failedStarts ≠ 7 then one.failedStarts + 1 else one.failedStarts
    (s.reset? = some r → go →
      (r.step = 0 → r.cold = true → exec i s = .next { s with island := cold, reset? := at_ 1 }) ∧
      (r.step = 0 → r.cold = false →
        exec i s = .next { s with island := { one with cause := r.cause, failedStarts := fails }, reset? := at_ 2 }) ∧
      (r.step = 1 → conv.length = 4 → ∃ t, exec i s = .next t ∧ t.reset? = at_ 2 ∧
        (∀ c : BitVec 4, (∀ x ∈ conv, (x.extractLsb' 2 4 : BitVec 4) = c) → t.pins.strapCode = c ∧ t.pins.strapAgreed = true) ∧
        (∀ x ∈ conv, ∀ y ∈ conv, (x.extractLsb' 2 4 : BitVec 4) ≠ y.extractLsb' 2 4 →
          t.pins.strapCode = 0xE#4 ∧ t.pins.strapAgreed = false) ∧
        t.plot = s.plot ∧ t.engines = s.engines ∧ t.sup = s.sup) ∧
      (r.step = 2 → (r.cold = true ∨ s.pins.memKeepAck = true) → ∃ t, exec i s = .next t ∧ t.reset? = at_ 3 ∧
        t.sup = { s.sup with released := true, meas := s.sup.meas.set 0 (extendMeas s.sup.meas[(0 : Fin 8)] Config.romDigest) } ∧
        t.almanac.wds.running = true ∧ t.almanac.wds.remain = s.almanac.wds.period.toNat * 98304 ∧
        t.almanac.deadline = some (2000 * almPerMs) ∧
        t = { s with sup := t.sup, almanac := t.almanac, reset? := t.reset? }) ∧
      (r.step = f.val + 3 → s.fields[f].tested = true → s.supAlive = false → ∃ t, exec i s = .next t ∧
        t.reset? = (if f = 3 then none else at_ (f.val + 4)) ∧
        (s.mayRelease f = true → t.fields[f].relStep = 1) ∧ (s.mayRelease f = false → t.fields = s.fields) ∧
        (∀ h : Fin 4, h ≠ f → t.fields[h] = s.fields[h]) ∧ t = { s with fields := t.fields, reset? := t.reset? })) ∧
    (s.reset? = some r → ¬go → exec i s = .next s) ∧
    (s.reset? = none → s.seed.pulse = false → s.mayRelease f = true → s.supAlive = true → s.inFallow = false →
      s.fields[f].tested = true →
      ∃ t, exec (.resetRelease (.field f) conv defects) s = .next t ∧ t.fields[f].st = .out ∧ t.fields[f].relStep = 1 ∧
        (∀ e : Fin 24, t.engines[globalOf f e].resetHeld = false ∧ t.engines[globalOf f e].csErr = [] ∧
          t.engines[globalOf f e].st = if globalOf f e ∈ s.seed.retiredEngines then .retired else .awake) ∧
        t.plot = s.plot ∧ (∀ h : Fin 4, h ≠ f → t.fields[h] = s.fields[h])) ∧
    (s.reset? = none → s.seed.pulse = false → s.engines[g].resetHeld = true → s.fields[fieldOf g].st = .inService → s.inFallow = false →
      ∃ t, exec (.resetRelease (.engine g) conv defects) s = .next t ∧ t = { s with engines := t.engines } ∧
        t.engines[g].resetHeld = false ∧ (t.engines[g].st = if g ∈ s.seed.retiredEngines then .retired else .awake) ∧ ∀ k : Fin 96, k ≠ g → t.engines[k] = s.engines[k])

/-- R415, R416, R420, R421: the boot ROM enters Fallow mode with the reason that R415 gives, or runs the image of its slot: the slot on trial or
else the active one; an image that fails its checks is not run; a read that fails is repeated. -/
def Obligations.BootRunsImage : Prop :=
  ∀ (s : State) (l : List Byte) (e : BitVec 3) (slot : Bool),
    s.bootReady = true →
    let fallow (i : Instr) (why : Nat) : Prop :=
      ∃ t, exec i s = .next t ∧ t.sup.fallow = why ∧ t.sup.running = true ∧ t.sup.build = 0 ∧ t.almanac.deadline = none ∧
        t.plot = s.plot ∧ t.engines = s.engines ∧
        (∀ f : Fin 4, s.fields[f].st = .resetting → s.fields[f].relStep ≠ 0 → t.fields[f].st = .out)
    let i : Instr := .supervisorBoot (.ok l)
    let fine : Prop := fwHeaderOk l = true ∧ fwSigned l = true
    let known (slot : Bool) : Prop := s.seed.blank = true ∨ fwDigest l = s.seed.slotDigest[slotIx slot]
    let runs (i : Instr) (slot : Bool) : Prop :=
      (¬fine → fallow i 3) ∧ (fine → ¬known slot → fallow i 4) ∧
      (fine → known slot → (le16 l 8).toNat < s.seed.floor.toNat → fallow i 5) ∧
      (fine → known slot → s.seed.floor.toNat ≤ (le16 l 8).toNat → s.sup.fallow = 0 →
        ∃ t, exec i s = .next t ∧ t.sup.running = true ∧ t.sup.build = le16 l 8 ∧ t.sup.digest = fwDigest l ∧
          t.sup.vbuild = le16 l 10 ∧ t.sup.slotUsed = some slot ∧ t.sup.fallow = 0 ∧
          t.sup.meas = (s.sup.meas.set 1 (extendMeas s.sup.meas[(1 : Fin 8)] (fwDigest l))).set 2
            (extendMeas s.sup.meas[(2 : Fin 8)] (Config.sha384 (fwMicrocode l))) ∧
          t.plot = s.plot ∧ t.seed = s.seed ∧
          (∀ f : Fin 4, s.fields[f].st = .resetting → s.fields[f].relStep ≠ 0 → t.fields[f].st = .out ∧
            ∀ x : Fin 24, t.engines[globalOf f x].resetHeld = false))
    (s.sup.slotUsed = none →
      (s.pins.strapAgreed = false → fallow i 6) ∧
      (s.pins.strapAgreed = true → s.pins.strapCode.getLsbD 0 = false → fallow i 1) ∧
      (s.pins.strapAgreed = true → s.pins.strapCode.getLsbD 0 = true → s.seed.unreadable = true → s.seed.blank = false → fallow i 7) ∧
      (s.pins.strapAgreed = true → s.pins.strapCode.getLsbD 0 = true → s.seed.unreadable = false →
        (3 ≤ s.island.failedStarts.toNat → fallow i 2) ∧
        (s.island.failedStarts.toNat < 3 → s.seed.pending = none →
          (s.seed.trial = some slot → (s.island.cause.toNat < 6 ∨ 10 < s.island.cause.toNat) → runs i slot) ∧
          (s.seed.trial = none → slot = s.seed.active → runs i slot ∧
            exec (.supervisorBoot (.bad e)) s = .next { s with sup := { s.sup with slotUsed := some slot } })))) ∧
    (s.sup.slotUsed = some slot → runs (.bootReadRetry (.ok l)) slot)

/-- R412, R417: START_OK sets STARTED, clears the failed starts and the deadline, and turns TRIAL into ACTIVE with its build as the floor; a
blank record takes the slot that runs. R419: a Field whose retained configuration matches the seal returns to In service; one that does not stays
Out.
R422, R423: the pass-through loads the Fallow set into Field 0, takes its engine F0.E00 out of reset, and starts the drills; a packet's
samples join the buffers of its drills, most significant byte first, CTRL lowest. -/
def Obligations.StartAndFallow : Prop :=
  (∀ (s : State) (f : Fin 4) (t0 : Bool),
    let started (d : Seed) : Prop :=
      exec .startOk s = .next
        { s with
          sup := { s.sup with started := true }, island := { s.island with failedStarts := 0 }
          almanac := { s.almanac with deadline := none }, seed := d }
    let d := s.seed
    let mask : BitVec 4 := BitVec.ofNat 4 (2 ^ f.val)
    let left := { s.sup with reapply := s.sup.reapply &&& ~~~mask }
    (s.mayStartOk = true → d.blank = false →
      (d.trial = none → started d) ∧
      (d.trial = some t0 → started { d with active := t0, trial := none, floor := d.slotBuild[slotIx t0], pulse := true })) ∧
    (s.mayStartOk = true → d.blank = true → d.trial = none → s.sup.slotUsed = some t0 → started
      { d with
        blank := false, active := t0, pulse := true, slotDigest := d.slotDigest.set (slotIx t0) s.sup.digest
        slotBuild := d.slotBuild.set (slotIx t0) s.sup.build, slotValid := d.slotValid.set (slotIx t0) true }) ∧
    (s.supAlive = true → s.inFallow = false → s.fields[f].st = .out → s.sup.reapply.getLsbD f.val = true →
      (s.sup.confErr.getLsbD f.val = false → s.retainedSeal f = s.host.sealAct → s.sup.custErr.getLsbD f.val = false →
        ∃ t, exec (.retainedConfigApply f) s = .next t ∧ t.fields[f].st = .inService ∧ t.sup.committed = true ∧
          t.sup.reapply.getLsbD f.val = false ∧ t.plot = s.plot ∧ t.seed = s.seed ∧ t.host.sealAct = s.host.sealAct) ∧
      (s.sup.confErr.getLsbD f.val = true ∨ s.retainedSeal f ≠ s.host.sealAct →
        ∃ t, exec (.retainedConfigApply f) s = .next t ∧ t = { s with sup := left, ledger := t.ledger, tally := t.tally }))) ∧
  (∀ (s : State) (x : Item) (l : List Item) (data : List Byte) (d : Fin 16),
    s.seed.fallowSet = some (x :: l) →
    let ds := le16 x.body 6
    let c := (byteAt x.body 2).toNat
    let off := (le16 x.body 4).toNat
    (s.inFallow = true → s.supAlive = true → s.sup.passThrough = false → s.fields[(0 : Fin 4)].st = .out →
      ∃ t, exec .fallowPassThroughStart s = .next t ∧ t.sup.passThrough = true ∧ t.engines[(0 : Fin 96)].st = .awake ∧
        t.engines[(0 : Fin 96)].resetHeld = false ∧ t.fields[(0 : Fin 4)].pinsLive = true ∧
        t.fields[(0 : Fin 4)].queueTab = ((l.filter fun y => y.ty == 0x0010).map Item.body) ∧
        (∀ f : Fin 4, f ≠ 0 → t.fields[f] = s.fields[f]) ∧ (∀ g : Fin 96, g ≠ 0 → t.engines[g] = s.engines[g]) ∧ t.plot = s.plot) ∧
    (s.sup.passThrough = true → byteAt x.body 1 = 1 → c = 1 → ds.getLsbD d.val = true → data.length = off + 6 →
      s.fields[(0 : Fin 4)].drills[d].feed = [] →
      ∃ t, exec (.fallowPassThroughPacket data) s = .next t ∧
        t.fields[(0 : Fin 4)].drills[d].feed =
          [byteAt data off ++ byteAt data (off + 1) ++ byteAt data (off + 2) ++ byteAt x.body 3
          , byteAt data (off + 3) ++ byteAt data (off + 4) ++ byteAt data (off + 5) ++ byteAt x.body 3] ∧
        (∀ k : Fin 16, ds.getLsbD k.val = false → t.fields[(0 : Fin 4)].drills[k] = s.fields[(0 : Fin 4)].drills[k]) ∧
        t = { s with fields := t.fields } ∧ ∀ f : Fin 4, f ≠ 0 → t.fields[f] = s.fields[f]) ∧
    (s.sup.passThrough = true → byteAt x.body 1 = 0 → c = 1 → ds.getLsbD d.val = true → data.length = off + 2 →
      s.fields[(0 : Fin 4)].drills[d].feed = [] →
      ∃ t, exec (.fallowPassThroughPacket data) s = .next t ∧
        t.fields[(0 : Fin 4)].drills[d].feed = [byteAt data off ++ byteAt data (off + 1) ++ 0#8 ++ byteAt x.body 3]))

/-! Drills and streams (R86, R270-R297, R300-R325) -/

/-- R312, R314-R316: STOP keeps everything; RESUME goes back to the state it stopped from and is refused after a write of DWIN or DMODE; CLEAN
and PARK empty the FIFOs and shifters and load the counters, CLEAN starts at word 0, PARK ends in IDLE; a command that the state refuses is only
recorded. Nothing but the drill changes.
R310, R314, R320: writes of the run registers in IDLE and STOPPED; in Sealed mode after the first commit, and in the other states, they are
refused. A read of DRX_DATA pops, or sets RXUND; a write of DTX_DATA pushes, or is dropped with TXOVR. R302: a reported program word is
rewritten. -/
def Obligations.DrillCommandsAndRegisters : Prop :=
  (∀ (s : State) (g : Fin 96) (d : Fin 16) (f : Fin 4) (m : BitVec 16),
    s.drillReach (.furrow g) = some (f, m) → m.getLsbD d.val = true →
    let D := s.fields[f].drills[d]
    let runs : Prop := D.st = .running ∨ D.st = .waiting ∨ D.st = .stalled
    let field (E : Drill) : Field := { s.fields[f] with drills := s.fields[f].drills.set d E }
    let put (E : Drill) : State := { s with fields := s.fields.set f (field E) }
    let w := DrillWriter.furrow g
    let n0 : Nat := if fieldN D.dcnt 0 16 = 0 then 65536 else fieldN D.dcnt 0 16
    let n1 : Nat := if fieldN D.dcnt 16 16 = 0 then 65536 else fieldN D.dcnt 16 16
    let cleared (E : Drill) : Prop :=
      E.txFifo = [] ∧ E.rxFifo = [] ∧ E.txSh = Vector.replicate 8 0 ∧ E.rxSh = Vector.replicate 8 0 ∧ E.bits = 0 ∧ E.pc = 0 ∧
      E.c0 = n0 ∧ E.c1 = n1 ∧ E.y = D.dmode.getLsbD 22 ∧ E.perr = false ∧ E.dwin = D.dwin ∧ E.dmode = D.dmode ∧ E.ddiv = D.ddiv ∧
      E.dcnt = D.dcnt ∧ E.dTrim = D.dTrim
    let refused (i : Instr) : Prop := ∃ t, exec i s = .next t ∧ t = { s with ledger := t.ledger, tally := t.tally }
    (runs → exec (.stop w d 0) s = .next (put { D with st := .stopped, stoppedFrom := D.st, changed := false }) ∧
      refused (.resume w d 0) ∧ refused (.clean w d 0) ∧ refused (.park w d 0)) ∧
    (D.st = .stopped →
      exec (.stop w d 0) s = .next s ∧
      (D.changed = false → exec (.resume w d 0) s =
        .next (put { D with st := D.stoppedFrom, acc := 0, seen := false, txund := false, txovr := false, rxovr := false, rxund := false })) ∧
      (D.changed = true → refused (.resume w d 0)) ∧
      (∃ t E, exec (.park w d 0) s = .next t ∧ E.st = .idle ∧ cleared E ∧ E.txund = D.txund ∧ E.rxund = D.rxund ∧
        t = { s with fields := s.fields.set f { field E with padOut := t.fields[f].padOut, padOe := t.fields[f].padOe } })) ∧
    (D.st = .idle ∨ D.st = .stopped → ∃ E, exec (.clean w d 0) s = .next (put E) ∧ E.st = .running ∧ cleared E ∧
      E.txund = false ∧ E.txovr = false ∧ E.rxovr = false ∧ E.rxund = false) ∧
    (D.st = .idle → refused (.stop w d 0) ∧ refused (.resume w d 0))) ∧
  (∀ (s : State) (g : Fin 96) (d : Fin 16) (f : Fin 4) (m : BitVec 16) (v : Word) (a : Fin 1024),
    s.drillReach (.furrow g) = some (f, m) → m.getLsbD d.val = true →
    let D := s.fields[f].drills[d]
    let field (E : Drill) : Field := { s.fields[f] with drills := s.fields[f].drills.set d E }
    let put (E : Drill) : State := { s with fields := s.fields.set f (field E) }
    let w := DrillWriter.furrow g
    (s.sealedCommitted = false → D.st = .idle ∨ D.st = .stopped →
      (fieldN v 0 10 + fieldN v 10 5 ≤ 1023 →
        exec (.drillRunRegisterWrite w d .dwin v) s = .next (put { D with dwin := v &&& 0x7FFF#32, changed := true })) ∧
      (1023 < fieldN v 0 10 + fieldN v 10 5 → ∃ t, exec (.drillRunRegisterWrite w d .dwin v) s = .next t ∧ t.fields = s.fields) ∧
      (exec (.drillRunRegisterWrite w d .dcnt v) s = .next (put { D with dcnt := v })) ∧
      (fieldN v 20 12 ≠ 0 → D.dmode.getLsbD 21 = false →
        exec (.drillRunRegisterWrite w d .ddiv v) s = .next (put { D with ddiv := v })) ∧
      (runValueBad s.fields[f] d .dmode v = false → v.getLsbD 21 = false →
        exec (.drillRunRegisterWrite w d .dmode v) s = .next (put { D with dmode := v &&& 0xFF7FFFFF#32, changed := true }))) ∧
    (s.sealedCommitted = true ∨ (D.st ≠ .idle ∧ D.st ≠ .stopped) → ∀ r : RunReg, ∃ t,
      exec (.drillRunRegisterWrite w d r v) s = .next t ∧ t = { s with ledger := t.ledger, tally := t.tally }) ∧
    (D.dmode.getLsbD 19 = false →
      (∀ x l, D.rxFifo = x :: l → exec (.drxDataRead w d) s = .next (put { D with rxFifo := l })) ∧
      (D.rxFifo = [] → exec (.drxDataRead w d) s = .next (put { D with rxund := true })) ∧
      (D.txFifo.length < 32 → exec (.dtxDataWrite w d v) s = .next (put { D with txFifo := D.txFifo ++ [v] })) ∧
      (32 ≤ D.txFifo.length → exec (.dtxDataWrite w d v) s = .next (put { D with txovr := true }))) ∧
    (mapSorted s.fields[f].progErr → ∃ t, exec (.drillProgramRewrite f a) s = .next t ∧
      mapFind a.val t.fields[f].progErr = none ∧ (∀ n, n ≠ a.val → mapFind n t.fields[f].progErr = mapFind n s.fields[f].progErr) ∧
      t.fields[f].prog = s.fields[f].prog ∧ t = { s with fields := t.fields } ∧ ∀ h : Fin 4, h ≠ f → t.fields[h] = s.fields[h]))

/-- R302, R304, R306, R319: a program word in error stops the drill with PERR; a WAIT waits until its condition holds; FLOW chooses the next
word, by the loop counters or to TGT, and END stops; a FETCH that finds too few words, or a STASH that finds no room, stalls a drill with
STALL 1, and the end of the stall goes on.
R305, R307, R315, R316: a word that does not pass whole keeps its place in BITS and goes on from there; K runs on while a drill waits.
R324: with FEED 1, words of the frame in progress enter the TX FIFO four at a time while it has room for four, and HIDX passes the descriptor with
the frame's last word; the RX feeder moves the RX FIFO into the RX ring and passes HIDX over each word, while the ring has room. -/
def Obligations.DrillProgramAndFeeders : Prop :=
  (∀ (s : State) (f : Fin 4) (d : Fin 16) (pins : List Word),
    s.drlRuns f = true →
    let D := s.fields[f].drills[d]
    let a := D.base + D.pc.toNat
    let w := mapGet 0 a s.fields[f].prog
    let flow := fieldN w 29 3
    let next : BitVec 5 := if D.pc.toNat = D.last then 0 else D.pc + 1
    let tgt : BitVec 5 := w.extractLsb' 24 5
    let n0 : Nat := if fieldN D.dcnt 0 16 = 0 then 65536 else fieldN D.dcnt 0 16
    let n1 : Nat := if fieldN D.dcnt 16 16 = 0 then 65536 else fieldN D.dcnt 16 16
    let after (i : Instr) (p : State → Drill → Prop) : Prop := ∃ t, exec i s = .next t ∧ p t t.fields[f].drills[d]
    let word : Instr := .drillWord f d pins
    let whole : Prop := max (fieldN w 18 6) 1 ≤ max pins.length 1 + D.bits.toNat
    let goes (E : Drill) : Prop :=
      (flow = 0 ∨ flow = 4 → E.pc = next ∧ E.st = .running) ∧ (flow = 1 → E.pc = tgt ∧ E.st = .running) ∧
      (flow = 2 → 1 < D.c0 → E.pc = tgt ∧ E.c0 = D.c0 - 1) ∧ (flow = 2 → D.c0 ≤ 1 → E.pc = next ∧ E.c0 = n0) ∧
      (flow = 3 → 1 < D.c1 → E.pc = tgt ∧ E.c1 = D.c1 - 1) ∧ (flow = 3 → D.c1 ≤ 1 → E.pc = next ∧ E.c1 = n1) ∧
      (flow = 5 → E.pc = next ∧ E.st = .stopped ∧ E.stoppedFrom = .running)
    (D.st = .running → mapFind a s.fields[f].progErr = none →
      D.bits = 0 →
      (wordBad w D.last = true → after word fun t E => E.st = .stopped ∧ E.perr = true ∧ E.pc = D.pc ∧ t.plot = s.plot) ∧
      (wordBad w D.last = false →
        (flow = 4 → D.waited = false → after word fun t E => E.st = .waiting ∧ E.pc = D.pc ∧ t.plot = s.plot) ∧
        (flow ≠ 4 ∨ D.waited = true → s.sup.passThrough = false →
          (w.getLsbD 15 = false → max pins.length 1 < fieldN w 18 6 → after word fun t E =>
            E.st = .running ∧ E.pc = D.pc ∧ E.bits = BitVec.ofNat 6 (max pins.length 1) ∧ E.txFifo = D.txFifo ∧ E.rxFifo = D.rxFifo ∧ t.plot = s.plot) ∧
          (w.getLsbD 15 = false → w.getLsbD 14 = false → whole → after word fun t E =>
            goes E ∧ E.txFifo = D.txFifo ∧ E.rxFifo = D.rxFifo ∧ E.bits = 0 ∧ t.plot = s.plot ∧ t.engines = s.engines) ∧
          (w.getLsbD 15 = true → D.txFifo.length < lanes D.txMask → D.dmode.getLsbD 20 = true → after word fun _ E =>
            E.st = .stalled ∧ E.txund = true ∧ E.retry = some false ∧ E.txFifo = D.txFifo ∧ E.pc = D.pc) ∧
          (w.getLsbD 15 = true → w.getLsbD 14 = false → whole → lanes D.txMask ≤ D.txFifo.length → after word fun _ E =>
            goes E ∧ E.txFifo = D.txFifo.drop (lanes D.txMask)) ∧
          (w.getLsbD 15 = false → w.getLsbD 14 = true → whole → D.rxFifo.length + lanes D.rxMask ≤ 32 → after word fun _ E =>
            goes E ∧ E.rxFifo.length = D.rxFifo.length + lanes D.rxMask ∧ E.rxFifo.take D.rxFifo.length = D.rxFifo)))) ∧
    (D.st = .running → D.bits ≠ 0 → w.getLsbD 14 = false → whole → after word fun t E =>
      goes E ∧ E.txFifo = D.txFifo ∧ E.rxFifo = D.rxFifo ∧ E.bits = 0 ∧ t.plot = s.plot) ∧
    (D.st = .waiting → after word fun t E => E.st = .waiting ∧ E.pc = D.pc ∧ E.txFifo = D.txFifo ∧ t.plot = s.plot ∧
      E.k = (if D.dmode.getLsbD 16 then D.k != (max pins.length 1 % 2 == 1) else !D.dmode.getLsbD 17)) ∧
    (D.st = .waiting → D.waitHolds w = true → after (.drillWaitCompletion f d) fun t E => E.st = .running ∧ E.waited = true ∧
      E.pc = D.pc ∧ (∀ n : Nat, ¬(fieldN w 5 2 = 1 ∧ n = fieldN w 0 5) → E.ticks.getLsbD n = D.ticks.getLsbD n) ∧
      (fieldN w 5 2 = 1 → E.ticks.getLsbD (fieldN w 0 5) = false) ∧ t.plot = s.plot) ∧
    (D.st = .stalled → D.retry = some false → lanes D.txMask ≤ D.txFifo.length → after (.drillStallEnd f d) fun t E =>
      E = { D with st := .running, retry := none, waited := true } ∧ t.plot = s.plot) ∧
    (D.st = .stalled → D.retry = some true → D.rxFifo.length + lanes D.rxMask ≤ 32 → w.getLsbD 14 = true →
      after (.drillStallEnd f d) fun _ E => goes E ∧ E.rxFifo.length = D.rxFifo.length + lanes D.rxMask)) ∧
  (∀ (s : State) (f : Fin 4) (d : Fin 16) (F : Furrow) (r : Ring) (a : Nat) (w : Word),
    s.drillFurrow f d = some F → s.furrow? F.id = some F →
    let D := s.fields[f].drills[d]
    D.dmode.getLsbD 19 = true →
    let tx := 9 + d.val
    let rx := 25 + d.val
    (F.ring? tx = some r → r.closing = false → D.feed ≠ [] → D.feedChosen = false → D.txFifo.length + 4 ≤ 32 →
      (D.feed.length ≤ 4 → ∃ t, exec (.txFeederFrame f d) s = .next t ∧ t.fields[f].drills[d].txFifo = D.txFifo ++ D.feed ∧
        t.fields[f].drills[d].feed = [] ∧ t.plot = (s.putHeader F tx 4 (s.hidx F tx + 1)).plot ∧ t.engines = s.engines) ∧
      (4 < D.feed.length → D.txFifo.length + 8 > 32 → ∃ t, exec (.txFeederFrame f d) s = .next t ∧
        t.fields[f].drills[d].txFifo = D.txFifo ++ D.feed.take 4 ∧ t.fields[f].drills[d].feed = D.feed.drop 4 ∧
        t.plot = s.plot ∧ t.furrows = s.furrows ∧ t = { s with fields := t.fields })) ∧
    (F.ring? rx = some r → F.plotAddr r.ext r.off = some a → s.rangeOk F a (2 ^ r.size) = true → D.rxFifo = [w] →
      let h := s.hidx F rx
      ((h - s.fidx F rx).toNat + 16 ≤ 2 ^ r.size → ∃ t, exec (.rxFeederTransfer f d) s = .next t ∧
        t.fields[f].drills[d].rxFifo = [] ∧
        t.plot = ((s.plotWrite f (a + h.toNat % 2 ^ r.size) (bytes32 w)).putHeader F rx 4 (h + 4)).plot ∧ t.engines = s.engines) ∧
      (2 ^ r.size < (h - s.fidx F rx).toNat + 16 → exec (.rxFeederTransfer f d) s = .next s)))

/-- R86, R283, R325: the selector's table; a decision that finds only a remote copy chooses it and turns the selector REMOTE, one that finds neither
chooses zeros for a drill and nothing for a stream. R13, R283: a copy that has crossed the bridge whole, in its turn, leaves the mover and takes its
place in the remote area and among the records. -/
def Obligations.TwinSelection : Prop :=
  ∀ (s : State) (f : Fin 4) (h : Fin 41) (fid : Nat) (F : Furrow) (r : Ring),
    s.furrow? fid = some F → F.home = some f → s.twinRing F h = true → F.ring? h = some r → (isEgress h = true ∨ isTx h = true) →
    let x := F.selOf h
    let takes (t : State) (y : Selector) : Prop :=
      t.furrow? fid = some { F with sels := F.sels.filter (fun z => z.hdr != y.hdr) ++ [y] } ∧
      ∀ id, id ≠ fid → t.furrow? id = s.furrow? id
    (∀ (remote here far : Bool) (n : Nat),
      selectorChoice remote here far n =
        if here && (!remote || decide (16 ≤ n)) then (0, false) else if far then (1, true) else (2, remote)) ∧
    (s.carries f = true → s.frameAt F h r.fetched = none →
      (∀ c, x.far = [c] → s.decideNow F c.due = true → x.past c.fseq = false →
        let y : Selector :=
          { x with
            remote := true, streak := 0, lastSeq := some c.fseq, noneRun := false
            chosen := x.chosen ++ [{ c with own := false }] }
        ∃ t, exec (.twinSelectorDecision f h fid) s = .next t ∧ takes t y ∧ t.plot = s.plot ∧ t.fields = s.fields ∧
          (x.remote = true → t.ledger = s.ledger)) ∧
      (∀ n, x.far = [] → x.lastSeq = some n →
        let len := s.lastFed f h
        let y : Selector :=
          { x with
            streak := 0, lastSeq := some (n + 1), noneRun := true
            chosen := x.chosen ++ if isTx h && decide (0 < len) then [zeroFrame (n + 1) len] else [] }
        ∃ t, exec (.twinSelectorDecision f h fid) s = .next t ∧ takes t y ∧ t.plot = s.plot ∧ t.fields = s.fields)) ∧
    (∀ (src : Fin 4) (ord : Nat) (o : OwnJob) (a base : Nat),
      let own := s.fields[src].ports.own
      own.find? (fun p => p.ord == ord && s.fields[src].ports.copyDone f fid h p) = some o →
      let desc := o.data.take 32
      let data := o.data.drop 32
      let l := recordBytes (bytesAt desc 0 32) data
      r.rsize ≠ 0 → farPlace x.far (2 ^ r.rsize) l.length = some a → F.plotAddr r.rext r.roff = some base →
      s.rangeOk F base (2 ^ r.rsize) = true →
        let c : TwinFrame :=
          { own := false, fseq := frameSeq h desc, due := frameDue h desc, place := a, desc := bytesAt desc 0 32, data := data, err := none }
        ∃ t, exec (.remoteTwinCopyArrival f fid h src ord) s = .next t ∧ takes t { x with far := x.far ++ [c] } ∧
          (t.fields[src].ports.own = own.filter fun p => p.ord != ord) ∧ t.plot = (s.plotWrite f (base + a) l).plot ∧ t.engines = s.engines)

/-- R270-R272, R274, R278, R279: beats are taken one after the other; one beat opens or continues a packet, and with EOP the packet counts on its
queue and becomes a record in the ring of the furrow that names the queue, HIDX behind it; a packet without a binding, a ring or room, one too
long, one with an NB not 0 before EOP and one whose beat finds the 128-beat buffer full is dropped and counted. A credit is worth one beat, up to
1,023, and goes to the frame on its way.
R277, R281, R282: the frame of a queue whose turn has come is read and sent against its credits, waiting for more where they do not suffice, and
HIDX passes its descriptor; a chosen twin frame frees the remote records up to it (R283); a descriptor that does not resolve is discarded. A
doorbell that changes EN to 1 opens a ring as its header describes it, and writes STATUS 1 or 2; one with EN still 1 publishes work; one that
changes EN to 0 ends the ring, once no frame of it is on its way. -/
def Obligations.StreamPorts : Prop :=
  (∀ (s : State) (f : Fin 4) (bt : Beat) (more : List Beat) (p0 p : RxPacket) (b : List Byte) (F : Furrow) (k : Nat) (r : Ring) (a : Nat),
    let q := p.queue.toNat
    let n := p.data.length
    let P := s.fields[f].ports
    let up : Prop := s.spUp f = true ∧ s.strmRuns = true ∧ s.carries f = true
    let lists : Prop := mapSorted P.counts ∧ mapSorted P.drops ∧ mapSorted s.tally
    let counted (t : State) : Prop :=
      t.fields[f].ports.arrivals q = P.arrivals q + 1 ∧ t.engines = s.engines ∧ t.almanac = s.almanac ∧
      (s.fields[f].freezeWin = false → t.tallyGet 0 (f.val * 10) = s.tallyGet 0 (f.val * 10) + 1 ∧
        t.tallyGet 0 (f.val * 10 + 1) = s.tallyGet 0 (f.val * 10 + 1) + BitVec.ofNat 48 n)
    let dropped (t : State) : Prop :=
      counted t ∧ t.plot = s.plot ∧ t.furrows = s.furrows ∧ t.fields[f].ports.rxOpen = none ∧
      t.fields[f].ports.dropsOf q = if P.dropsOf q = 0xFFFFFFFF#32 then P.dropsOf q else P.dropsOf q + 1
    let joins : Prop :=
      ((bt.sop = true ∧ P.rxOpen = none ∧ p0 = { queue := bt.queue, ts := bt.ts, data := [] }) ∨ (bt.sop = false ∧ P.rxOpen = some p0)) ∧
      p = { p0 with data := p0.data ++ bytesAt bt.data 0 (if bt.eop = true ∧ bt.nb ≠ 0 then bt.nb.toNat else 64) } ∧
      P.inHeld - bt.freed < 128
    let bound : Prop := s.fields[f].binding q 0 = some b ∧ bindMerge b = false ∧ s.fields[f].primaryOf q = q
    let size := 2 ^ r.size
    let hidx := s.hidx F k
    let need := (32 + bindMax b + 63) / 64 * 64
    let rec_ := recordBytes (packetHeader p bt.err false false (P.arrivals q + 1) (P.dropsOf q)) p.data
    let arrives : Instr := .ingressPacket f { beats := [bt] }
    (∀ t, up → exec arrives s = .next t → t.spUp f = true → t.strmRuns = true →
      exec (.ingressPacket f { beats := bt :: more }) s = exec (.ingressPacket f { beats := more }) t) ∧
    (up → lists → joins →
      (bt.eop = false → bt.nb = 0 → ∃ t, exec arrives s = .next t ∧ t.fields[f].ports.rxOpen = some p ∧
        t.fields[f].ports.inHeld = P.inHeld - bt.freed + 1 ∧ t = { s with fields := t.fields } ∧ ∀ h : Fin 4, h ≠ f → t.fields[h] = s.fields[h]) ∧
      (bt.eop = false → bt.nb ≠ 0 → ∃ t, exec arrives s = .next t ∧ dropped t) ∧
      (bt.eop = true → 9216 < n ∨ (bound ∧ bindMax b < n) → ∃ t, exec arrives s = .next t ∧ dropped t) ∧
      (bt.eop = true → n ≤ 9216 → s.fields[f].binding q 0 = none → ∃ t, exec arrives s = .next t ∧ dropped t) ∧
      (bt.eop = true → n ≤ 9216 → bound → n ≤ bindMax b → s.ingressOf f q = some (F, k) → s.ringsStopped F.id = false → F.ring? k = some r →
        (need ≤ size - (hidx - s.fidx F k).toNat → need ≤ size - hidx.toNat % size → F.keyAddr (extKey r.ext r.off) = some (f, a) →
          s.rangeOk F a size = true → ∃ t, exec arrives s = .next t ∧ counted t ∧ t.fields[f].ports.dropsOf q = 0 ∧
            t.plot = ((s.plotWrite f (a + hidx.toNat % size) rec_).putHeader F k 4 (hidx + nw rec_.length)).plot) ∧
        (size - (hidx - s.fidx F k).toNat < need → ∃ t, exec arrives s = .next t ∧ dropped t))) ∧
    (up → lists → bt.sop = true → p = { queue := bt.queue, ts := bt.ts, data := [] } → 128 ≤ P.inHeld - bt.freed →
      ∃ t, exec arrives s = .next t ∧ dropped t) ∧
    (s.spUp f = true →
      let c := min 1023 (P.credits + 1)
      let grants (N : Ports) : Prop :=
        ∃ t, exec (.egressCreditGrant f) s = .next t ∧ t.fields[f] = { s.fields[f] with ports := N } ∧ t = { s with fields := t.fields } ∧
          ∀ h : Fin 4, h ≠ f → t.fields[h] = s.fields[h]
      (P.txOpen = none → grants { P with credits := c }) ∧
      (∀ x, P.txOpen = some x → c < x.beats → grants { P with credits := 0, txOpen := some { x with beats := x.beats - c } }))) ∧
  (∀ (s : State) (f : Fin 4) (q : BitVec 8) (F : Furrow) (h : Nat) (r : Ring) (b : Doorbell) (d : List Byte) (a : Nat) (hd : Fin 41)
    (rest : List Doorbell) (n : Ring),
    s.furrow? F.id = some F →
    let P := s.fields[f].ports
    let serves : Prop :=
      s.spUp f = true ∧ s.strmRuns = true ∧ s.carries f = true ∧ s.egressOf f q.toNat = some (F, h) ∧ F.ring? h = some r ∧
      r.closing = false ∧ P.txOpen = none
    let turn : Prop := s.nextQueue f = some q.toNat ∧ P.credits ≠ 0 ∧ ∀ l ∈ P.left, l.queue ≠ q.toNat
    let sends : Instr := .egressFrameSend f q
    let len := frameLen h d
    let gone (t : State) : Prop := t.plot = (s.putHeader F h 4 (s.hidx F h + 1)).plot ∧ t.engines = s.engines
    let bell : Instr := .ringDoorbell F.id hd
    let is (t : State) (G : Furrow) : Prop := t.furrow? F.id = some G ∧ ∀ id, id ≠ F.id → t.furrow? id = s.furrow? id
    (serves → turn →
      (∀ c, s.egressNext F h = some (.inl c) → c.own = false →
        let beats := (c.data.length + 63) / 64
        (beats ≤ P.credits → ∃ t head, exec sends s = .next t ∧
          t.fields[f].ports = { P with credits := P.credits - beats, sent := [head, c.data], rrQueue := q.toNat } ∧ t.plot = s.plot ∧
          is t { F with
            sels := updWhere (fun x => x.hdr == h) (fun x => { x with
              chosen := x.chosen.drop 1
              far := x.far.filter fun z => !(z.fseq == c.fseq || seqBefore z.fseq c.fseq) }) F.sels }) ∧
        (P.credits < beats → ∃ t x, exec sends s = .next t ∧ x.beats = beats - P.credits ∧ x.data = c.data ∧ x.src = some (F.id, h) ∧
          t.fields[f].ports = { P with credits := 0, txOpen := some x, rrQueue := q.toNat } ∧ t.plot = s.plot ∧ t.furrows = s.furrows)) ∧
      (s.egressNext F h = some (.inr (b, d)) → isTx h = false → s.noteDesc f F h (s.hidx F h) = (s, false) →
        F.framePlace h b d = some a → frameSound h (s.frameTop F h) d = true → s.rangeOk F a len = true →
        (∀ j, j < len → s.eccAt f (a + j) = none) → (len + 63) / 64 ≤ P.credits → ∃ t head, exec sends s = .next t ∧ gone t ∧
          t.fields[f].ports.credits = P.credits - (len + 63) / 64 ∧ t.fields[f].ports.sent = [head, s.plotBytes f a len] ∧
          t.fields[f].ports.rrQueue = q.toNat)) ∧
    (serves → s.egressNext F h = some (.inr (b, d)) → isTx h = false → s.noteDesc f F h (s.hidx F h) = (s, false) →
      F.framePlace h b d = none → ∃ t, exec sends s = .next t ∧ gone t ∧ t.fields[f].ports = P) ∧
    (takeFirst (fun x => x.hdr == hd.val) F.doorbells = some (b, rest) → F.home = some f → b.hdr = hd.val → F.ownsHeader hd = true →
      let others := F.enSeen.filter (· ≠ hd.val)
      (b.words[0].getLsbD 0 = true → hd.val ∉ F.enSeen →
        let G := { F with doorbells := rest, enSeen := others ++ [hd.val] }
        (resolveRing hd b (s.hidx F hd) = some n → ∃ t, exec bell s = .next t ∧
          is t { G with rings := F.rings.filter (fun x => x.hdr != hd.val) ++ [n] } ∧ t.plot = (s.putHeader F hd 5 1).plot ∧
          t.engines = s.engines) ∧
        (resolveRing hd b (s.hidx F hd) = none → ∃ t, exec bell s = .next t ∧ is t G ∧ t.plot = (s.putHeader F hd 5 2).plot)) ∧
      (b.words[0].getLsbD 0 = true → hd.val ∈ F.enSeen → F.ring? hd = some r → ∃ t, exec bell s = .next t ∧
        is t { F with
          doorbells := rest, enSeen := others ++ [hd.val]
          rings := updWhere (fun x => x.hdr == hd.val) (fun x => { x with
            pubs := (x.pubs.filter fun p => decide (0 < (p.words[2] - s.hidx F hd).toInt)) ++ [b] }) F.rings } ∧
        t.plot = s.plot ∧ t.engines = s.engines) ∧
      (F.ring? hd = some r → b.words[0].getLsbD 0 = false →
        (s.ringBusy f F.id hd = false → ∃ t, exec bell s = .next t ∧
          is t { F with
            doorbells := rest, enSeen := others, rings := F.rings.filter (fun x => x.hdr != hd.val)
            sels := F.sels.filter fun x => x.hdr != hd.val } ∧
          t.plot = (s.putHeader F hd 5 0).plot) ∧
        (s.ringBusy f F.id hd = true → ∃ t, exec bell s = .next t ∧
          is t { F with
            doorbells := rest, enSeen := others
            rings := updWhere (fun x => x.hdr == hd.val) (fun x => { x with closing := true }) F.rings } ∧ t.plot = s.plot)) ∧
      (F.ring? hd = none → b.words[0].getLsbD 0 = false → ∃ t, exec bell s = .next t ∧
        is t { F with doorbells := rest, enSeen := others } ∧ t.plot = s.plot ∧ t.fields = s.fields)))

/-- R206, R287-R289: a response ends its transaction: mover data enter their destination, a failed buffered store becomes the furrow's pending
report or raises its count; a timeout ends it with code 6 and keeps its ID out of use until the late response; a response without a transaction is
only recorded. -/
def Obligations.FabricResponses : Prop :=
  ∀ (s : State) (f : Fin 4) (id : BitVec 10) (x : Txn) (resp : BitVec 3) (data : List Byte),
    let P := s.fields[f].ports
    let still : Prop :=
      (∀ (e : Fin 24) (w : Word), s.engines[globalOf f e].phase ≠ .stalled w) ∧ (f = 0 → s.dbg.dumpOut = [])
    let left (t : State) : Prop := t.fields[f].ports.txns = P.txns.filter fun u => u.id ≠ id
    still →
    (P.txns.find? (fun u => u.id == id && u.write == true) = some x → x.write = true → P.jobs = [] →
      (∀ F fid off seg n, x.owner = .engineStore fid off seg n → s.furrow? fid = some F →
        (exec (.fabricWriteResponse f id 0) s = .next (s.updPorts f fun P => { P with txns := P.txns.filter fun u => u.id ≠ id })) ∧
        (resp ≠ 0 → F.ctx.rep8 = none → ∃ t, exec (.fabricWriteResponse f id resp) s = .next t ∧ left t ∧ t.plot = s.plot ∧
          t.furrow? fid = some { F with ctx := { F.ctx with rep8 := some { off := off, seg := seg, seq := n, more := 0 } } }) ∧
        (∀ r, resp ≠ 0 → F.ctx.rep8 = some r → ∃ t, exec (.fabricWriteResponse f id resp) s = .next t ∧ left t ∧
          (t.furrow? fid).map (fun G => G.ctx.rep8) = some (some { r with more := if r.more = 7 then 7 else r.more + 1 }))) ∧
      (∀ c, x.owner = .message c → ∃ t, exec (.fabricWriteResponse f id 0) s = .next t ∧ left t ∧
        t.host = { s.host with msgFlight := s.host.msgFlight.set c false })) ∧
    (P.txns.find? (fun u => u.id == id) = some x → 1000000 ≤ s.since x.issued → P.jobs = [] → ∀ F fid off seg n, x.owner = .engineStore fid off seg n →
      s.furrow? fid = some F → F.ctx.rep8 = none → ∃ t, exec (.fabricTimeout f id) s = .next t ∧ left t ∧
        t.fields[f].ports.quarantine = P.quarantine ++ [id] ∧ t.plot = s.plot ∧
        t.furrow? fid = some { F with ctx := { F.ctx with rep8 := some { off := off, seg := seg, seq := n, more := 0 } } }) ∧
    (∀ j F key a, P.txns.find? (fun u => u.id == id && u.write == false) = some x → x.write = false → P.jobs = [j] →
      x.owner = .mover j.fid j.idx j.moved → s.furrow? j.fid = some F → j.status = 0 → j.op = 0 → j.src.1 = true → j.dst = (false, key) →
      j.moved + x.len = j.len → 0 < x.len → F.keyAddr (key + j.moved) = some (f, a) → s.rangeOk F a x.len = true → s.keyHeld F (key + j.moved) x.len = false →
      (∃ t, exec (.fabricReadResponse f id (.ok data)) s = .next t ∧ left t ∧
        t.plot = (s.portStore F f a (bytesAt data 0 x.len)).plot ∧ t.fields[f].ports.jobs = [{ j with waiting := 0, moved := j.len, got := [] }]) ∧
      (∃ t, exec (.fabricReadResponse f id (.bad resp)) s = .next t ∧ left t ∧ t.plot = s.plot ∧
        t.fields[f].ports.jobs = [{ j with waiting := 0, status := 6, resp := if resp = 7 then 4 else resp }])) ∧
    (P.txns = [] → P.jobs = [] → id ∈ P.quarantine → exec (.fabricWriteResponse f id resp) s =
      .next (s.updPorts f fun P => { P with quarantine := P.quarantine.filter fun u => u ≠ id })) ∧
    (P.txns = [] → id ∉ P.quarantine → ∃ t, exec (.fabricWriteResponse f id resp) s = .next t ∧
      t = { s with ledger := t.ledger, tally := t.tally })

/-- R292-R294: a fetched descriptor takes a slot, HIDX passes it, and the mover takes its next unit: a valid FILL of a Plot range writes its
pattern, a descriptor that fails its checks keeps its code with nothing done. A descriptor whose work has ended is completed in its turn, in its
slot, with DONE, the code, MOVED and the time, and leaves the mover; a SEND first delivers its record (R296); where it fails after it has begun
to write, its Plot destination beyond MOVED takes any bytes (a free value, log 9). R12, R13: the bridge grants one unit of the next sending
Field, of its earliest transfer that may go: of a SEND, of a twin copy, or of a furrow's move. -/
def Obligations.MoverAndBridge : Prop :=
  ∀ (s : State) (f : Fin 4) (F : Furrow) (r : Ring) (d : Doorbell) (l : List Byte) (key a ad ord : Nat) (j : Job) (o : OwnJob),
    s.furrow? F.id = some F → F.home = some f →
    let idx := r.fetched
    let slot := extKey r.ext (r.off + idx.toNat % 2 ^ r.size * 64)
    let P := s.fields[f].ports
    let new := { s.jobOf F d idx slot l with ord := P.bridgeSeq }
    let passed := s.putHeader F 8 4 (idx + 1)
    let starts : Instr := .moverDescriptorStart F.id
    (F.ring? 8 = some r → r.pubOf idx = some d → s.moverRead F slot 64 = (s, l, 0) → l.length = 64 → s.moverSlot f F.engine = true →
      s.keyHeld F slot 64 = false → (byteAt l 1).getLsbD 1 = false →
      (∃ t, exec starts s = .next t ∧ t.fields[f].ports.jobs.length = P.jobs.length + 1 ∧
        (∃ k ∈ t.fields[f].ports.jobs, k.fid = F.id ∧ k.idx = idx ∧ k.ord = P.bridgeSeq) ∧
        ((t.furrow? F.id).bind fun G => G.ring? 8) = some { r with fetched := idx + 1 }) ∧
      (P.jobs = [] → new.status ≠ 0 → ∃ t, exec starts s = .next t ∧ t.plot = passed.plot ∧ t.fields[f].ports.jobs = [new] ∧
        t.engines = s.engines) ∧
      (P.jobs = [] → new.status = 0 → new.op = 1 → new.len ≤ 4096 → new.dst = (false, key) → F.keyAddr key = some (f, a) →
        s.rangeOk F a new.len = true → s.keyHeld F key new.len = false → ∃ t, exec starts s = .next t ∧
          t.plot = (passed.portStore F f a (patternBytes new.pattern 0 new.len)).plot ∧
          t.fields[f].ports.jobs = [{ new with moved := new.len }])) ∧
    (s.job? f F.id j.idx = some j → (∀ h : Fin 4, h ≠ f → s.job? h F.id j.idx = none) → j.waiting = 0 → P.inOrder j = true →
      s.keyHeld F (j.slotAddr + 48) 16 = false → F.keyAddr (j.slotAddr + 48) = some (f, a) → s.rangeOk F a 16 = true →
      let ends : Instr := .moverCompletion F.id j.idx
      let slotIs (c : List Byte) (status moved : Nat) (now : DWord) : Prop :=
        c.length = 16 ∧ byteAt c 0 = BitVec.ofNat 8 status ∧ byteAt c 1 = (if status = 6 then 0x80#8 ||| j.resp.setWidth 8 else 0x80#8) ∧
        le32 c 4 = nw moved ∧ le64 c 8 = now
      let gone (t : State) : Prop :=
        t.fields[f].ports.jobs = P.jobs.filter fun k => !(k.fid == F.id && k.idx == j.idx)
      (j.status ≠ 0 ∨ (j.op ≠ 2 ∧ j.len ≤ j.moved) → j.spoils = false →
        ∃ t c, exec ends s = .next t ∧ t.plot = (s.portStore F f a c).plot ∧ slotIs c j.status j.moved s.now ∧ gone t ∧
          (t.furrow? F.id) = some (if j.event then
            { F with ctx := { F.ctx with latched := F.ctx.latched ||| 0x200#16 } } else F)) ∧
      (j.spoils = true → j.moved < j.len → F.keyAddr (j.dst.2 + j.moved) = some (f, ad) → s.rangeOk F ad (j.len - j.moved) = true →
        ∃ t c x, exec ends s = .next t ∧ x.length = j.len - j.moved ∧ t.plot = ((s.portStore F f ad x).portStore F f a c).plot ∧
          slotIs c j.status j.moved s.now ∧ gone t) ∧
      (∀ u st, j.status = 0 → j.op = 2 → j.len ≤ j.moved → s.bridgeFor f j = j.bridge → s.deliver F j = some (u, st) →
        u.rangeOk F a 16 = true → ∃ t c, exec ends s = .next t ∧ t.plot = (u.portStore F f a c).plot ∧
          slotIs c st (if st = 0 then j.len else 0) u.now ∧ gone t)) ∧
    (nextField s.bridgeRr (fun h => s.fabRuns && s.fields[h].ports.nextUnit.isSome) = some f → P.nextUnit = some ord →
      let grants (t : State) : Prop :=
        exec .bridgeGrant s = .next t ∧ t.bridgeRr = f.val ∧ t.engines = s.engines ∧ t.furrows = s.furrows
      let mine := P.jobs.find? fun k => k.ord == ord && P.grantsJob k
      (mine = some j → (∀ k ∈ P.jobs, k.fid = j.fid → k.idx = j.idx → k = j) →
        ∃ t, grants t ∧ t.plot = s.plot ∧ { j with moved := j.moved + min 4096 (j.len - j.moved) } ∈ t.fields[f].ports.jobs ∧
          t.fields[f].ports.jobs.length = P.jobs.length ∧ ∀ h : Fin 4, h ≠ f → t.fields[h] = s.fields[h]) ∧
      (mine = none → P.own.find? (fun p => p.ord == ord) = some o →
        let n := min 4096 (o.len - o.moved)
        ∃ t, grants t ∧
          t.fields[f].ports.own = updWhere (fun p => p.ord == ord) (fun p => { p with moved := p.moved + n }) P.own ∧
          t.plot = if o.copy then s.plot else (s.moveUnit o.fid o.moved n).plot))

/-! Staging, plans, furrows and images (R52-R58, R74-R98, R239-R241, R344, R389-R392, R434, R435, R492) -/

/-- R52, R54, R55, R389-R392: a staging session is opened for Fields that are Out, takes records, answers and drops them; a record is its type,
its length, the CRC-32C of its body, its body; SEAL_GET answers the seal of the configuration as it would be committed.
R52, R68: a record that stands whole in a buffer is read with its type and body; one whose CRC does not fit is refused with E_BUF_CRC, one with
a bad length with E_ARG, RESULT0 its offset. -/
def Obligations.StagingAndRecords : Prop :=
  (∀ (s : State) (mb : Fin 16) (k : BitVec 16) (op : Nat) (c : ActiveCmd) (rest : List ActiveCmd) (x : Session) (l : List Byte),
    Runs s mb k op c rest →
    let mask : BitVec 4 := c.args[0].setWidth 4
    let held := s.sup.sessions.filter fun y => y.mb != mb
    let n := s.sup.sessionNum + 1
    let free : Prop := s.sessionHeld (some (mb, k)) mb = false
    let opens (i : Instr) (e : Nat) : Prop := op = 0x0201 → EndsAlone i s mb c rest e []
    let put (y : Session) (k : Word) : State := { s with sup := { s.sup with sessions := held ++ [y], sessionNum := k } }
    (mask = 0 → opens (.stageOpen mb k) 9) ∧
    (mask ≠ 0 → s.foreignMask mb &&& mask ≠ 0 → opens (.stageOpen mb k) 0xD) ∧
    (mask ≠ 0 → s.foreignMask mb &&& mask = 0 → op = 0x0201 →
      free → (∀ f : Fin 4, mask.getLsbD f.val = true → s.fields[f].st = .out ∧ s.fieldHeld (some (mb, k)) f.val = false) →
        (s.session? mb = none → EndsOn (put { mb := mb, mask := mask, num := n, items := [] } n) (.stageOpen mb k) s mb c rest 0 [n]) ∧
        (s.session? mb = some x →
          EndsOn (put { x with mask := x.mask ||| mask } s.sup.sessionNum) (.stageOpen mb k) s mb c rest 0 [x.num])) ∧
    (op = 0x0202 → free → s.session? mb = some x → ∀ rs items, parseRecords (bytesAt l 0 c.bufLen) 0 (c.bufLen / 8 + 1) = .ok rs →
      s.stageAll mb x.mask x.items rs = .ok items →
        EndsOn (put { x with items := items } s.sup.sessionNum) (.stageWrite mb k (.ok l)) s mb c rest 0 [nw rs.length]) ∧
    (op = 0x0203 → c.args[0].toNat < 0xF0 →
      (∀ y, s.stagedOr mb c.args[0].toNat c.args[1] = some y → y.record.length ≤ c.bufLen →
        Answers (.stageRead mb k 0) s mb c rest y.record 0 0 0) ∧
      (s.stagedOr mb c.args[0].toNat c.args[1] = none → EndsAlone (.stageRead mb k 0) s mb c rest 9 [])) ∧
    (op = 0x0204 → free → EndsOn { s with sup := { s.sup with sessions := held } } (.stageAbort mb k) s mb c rest 0 []) ∧
    (op = 0x0205 → free → EndsAlone (.sealGet mb k) s mb c rest 0 [(confSeal (s.asCommitted mb mask)).1])) ∧
  (∀ (x : Item) (l : List Byte) (n : Nat),
    x.ok = true → x.ty < 65536 → x.body.length < 65528 →
    let r := x.record
    r.length = 8 + x.body.length ∧ (le16 r 0).toNat = x.ty ∧ (le16 r 2).toNat = r.length ∧ le32 r 4 = crc32cOf x.body ∧
    parseRecords r 0 (n + 1) = .ok [(0, x)] ∧
    (8 ≤ l.length → (le16 l 2).toNat = l.length → crc32cOf (bytesAt l 8 (l.length - 8)) ≠ le32 l 4 →
      parseRecords l 0 (n + 1) = .error (0xB, 0)) ∧
    (0 < l.length → (l.length < 8 ∨ (le16 l 2).toNat < 8 ∨ l.length < (le16 l 2).toNat) → parseRecords l 0 (n + 1) = .error (9, 0)))

/-- R54-R56, R392, R416: a COMMIT whose seal equals SEAL_REF puts every Field of its mask In service, sets SEAL_ACT to the seal and the
configuration as committed, extends MEAS7 and closes the session; with another seal it fails with E_SEAL_REF and changes nothing. -/
def Obligations.CommitTakesEffect : Prop :=
  ∀ (s : State) (mb : Fin 16) (k : BitVec 16) (c : ActiveCmd) (rest : List ActiveCmd),
    Runs s mb k 0x0206 c rest →
    let mask : BitVec 4 := c.args[0].setWidth 4
    let l := s.asCommitted mb mask
    let total := (confSeal l).1
    let fields (p : Fin 4 → Prop) : Prop := ∀ f : Fin 4, mask.getLsbD f.val = true → p f
    mask ≠ 0 → (s.sealed = true → mask = 0xF#4) →
    (s.sessionError mb mask ≠ 0 → EndsAlone (.commit mb k) s mb c rest (s.sessionError mb mask) []) ∧
    (s.sessionError mb mask = 0 → s.sessionHeld (some (mb, k)) mb = false →
      fields (fun f => s.fieldHeld (some (mb, k)) f.val = false ∧ s.fields[f].st = .out ∧ s.sup.custErr.getLsbD f.val = false) →
      (∀ e w, s.commitError l mask = some (e, w) → EndsAlone (.commit mb k) s mb c rest e [w]) ∧
      (s.commitError l mask = none → total ≠ s.host.sealRef → EndsAlone (.commit mb k) s mb c rest 0x12 []) ∧
      (s.commitError l mask = none → total = s.host.sealRef → ∃ t, exec (.commit mb k) s = .next t ∧
        fields (fun f => t.fields[f].st = .inService) ∧ t.host.sealAct = total ∧ t.host.sealActParts = (confSeal l).2 ∧
        (∀ y ∈ t.sup.sessions, y.mb ≠ mb) ∧ t.sup.conf = l ∧ t.sup.committed = true ∧ t.sup.firstCommit = true ∧
        t.sup.committedFields = s.sup.committedFields ||| mask ∧
        t.sup.meas[(7 : Fin 8)] = extendMeas s.sup.meas[(7 : Fin 8)] (sealDigest total) ∧
        (∃ r, t.mailboxes[mb].records = s.mailboxes[mb].records ++ [r] ∧ r.tag = c.tag ∧ r.index = c.k ∧ r.status = 0 ∧ r.r0 = total)))

/-- R58, R64, R81, R88-R91: PLAN_WRITE keeps a table whose CRC and values are in order, PLAN_READ answers it, PLAN_STATUS tells the active plan
and the transitions; POLICY_SET sets headroom and packing; RATE_DECLARE keeps a rate in range. -/
def Obligations.PlansAndPolicy : Prop :=
  ∀ (s : State) (mb : Fin 16) (k : BitVec 16) (op : Nat) (c : ActiveCmd) (rest : List ActiveCmd) (l : List Byte),
    Runs s mb k op c rest →
    let n := c.args[0].toNat
    let v := c.args[1].toNat
    let len := planLen l
    let t := bytesAt l 0 len
    let onSower (w : Sower) : State := { s with sower := w }
    (op = 0x0401 → n < 16 → 68 ≤ c.bufLen → len ≤ c.bufLen →
      (crc32cOf (t.take (len - 4)) ≠ le32 t (len - 4) → EndsOn s (.planWrite mb k (.ok l)) s mb c rest 0xB []) ∧
      (crc32cOf (t.take (len - 4)) = le32 t (len - 4) → (∀ r ∈ planRanges n t, r.2 = true) → s.sessionError mb 0xF = 0 →
        EndsOn (onSower { s.sower with plans := mapPut n (some t) s.sower.plans }) (.planWrite mb k (.ok l)) s mb c rest 0 [])) ∧
    (op = 0x0401 → 16 ≤ n → EndsAlone (.planWrite mb k (.ok l)) s mb c rest 9 []) ∧
    (op = 0x0402 → ∀ p, mapFind n s.sower.plans = some p → p.length ≤ c.bufLen → Answers (.planRead mb k 0) s mb c rest p 0 0 0) ∧
    (op = 0x0402 → mapFind n s.sower.plans = none → EndsAlone (.planRead mb k 0) s mb c rest 9 []) ∧
    (op = 0x0403 → EndsAlone (.planStatus mb k) s mb c rest 0 [nw s.sower.activePlan, s.sower.transitions, s.sower.lastTransSeq]) ∧
    (op = 0x0404 → 5 ≤ n → n ≤ 50 → c.args[1] = 1 →
      EndsOn (onSower { s.sower with headroom := n, packing := true }) (.policySet mb k) s mb c rest 0 []) ∧
    (op = 0x0404 → 5 ≤ n → n ≤ 50 → c.args[1] = 0 → s.sealed = false → ∃ t, exec (.policySet mb k) s = .next t ∧
      t.sower = { s.sower with headroom := n, packing := false } ∧ t.plot = s.plot ∧ t.furrows = s.furrows ∧
      ∀ g : Fin 96, s.fields[fieldOf g].st = .inService → s.usable g = true → t.engines[g].st = .awake) ∧
    (op = 0x0404 → n < 5 ∨ 50 < n → EndsAlone (.policySet mb k) s mb c rest 9 []) ∧
    (op = 0x0803 → ∀ d : Fin 5, n = d.val →
      (d.val < 4 → 400000 ≤ v → v ≤ 2000000 → (∀ f : Fin 4, f.val = d.val →
          s.fieldHeld (some (mb, k)) f.val = false ∧ (s.fields[f].st = .out ∨ s.fields[f].st = .off)) →
        EndsOn (onSower { s.sower with rates := s.sower.rates.set d v, ratesDeclared := s.sower.ratesDeclared.set d true })
          (.rateDeclare mb k) s mb c rest 0 []) ∧
      (d.val = 4 → 800000 ≤ v → v ≤ 1600000 →
        EndsOn (onSower { s.sower with rates := s.sower.rates.set d v, ratesDeclared := s.sower.ratesDeclared.set d true })
          (.rateDeclare mb k) s mb c rest 0 []) ∧
      (v < 400000 ∨ 2000000 < v → EndsAlone (.rateDeclare mb k) s mb c rest 9 [])) ∧
    (op = 0x0803 → 5 ≤ n → EndsAlone (.rateDeclare mb k) s mb c rest 9 [])

/-- R75, R77, R78, R88, R127, R492: FURROW_CREATE makes a CREATED furrow of the lowest free ID; FURROW_START resumes a stopped furrow, marks a
created one in Sealed mode, and in Rolling mode places it, writes its firmware and puts it at ENTRY; FURROW_STOP and FURROW_DESTROY follow R492;
FURROW_QUERY tells state, MOVING while a migration of the furrow stands (R98), and place. -/
def Obligations.FurrowCommands : Prop :=
  ∀ (s : State) (mb : Fin 16) (k : BitVec 16) (op : Nat) (c : ActiveCmd) (rest : List ActiveCmd) (F : Furrow) (l : List Byte)
    (f : Fin 4) (id : Nat) (r : Reply),
    Runs s mb k op c rest →
    let becomes (st : FurrowSt) : State := (s.updFurrow F.id fun G => { G with st := st }).updFurrow F.id fun G => { G with run := none }
    let named : Prop := s.named mb c false = .ok F ∧ s.named mb c true = .ok F
    let code := bytesAt l 0 F.desc.codeLen
    let u := s.readCode F
    let marked : Furrow := { F with runAtCommit := true, fetched := code }
    (op = 0x0301 → 128 ≤ c.bufLen → s.createCheck mb l = .ok (f, id) → (descOf l).twinOf = 0xFFFF →
      s.furrow? id = none ∧ (∀ j, j < id → s.furrow? j ≠ none) ∧ id < 4096 ∧
      EndsOn { s with furrows := s.furrows ++ [newFurrow id mb (descOf l) f] } (.furrowCreate mb k (.ok l)) s mb c rest 0 [nw id]) ∧
    (op = 0x0301 → 128 ≤ c.bufLen → crc32cOf (bytesAt l 0 124) ≠ le32 l 124 →
      EndsOn s (.furrowCreate mb k (.ok l)) s mb c rest 0xB [0]) ∧
    (op = 0x0302 → named →
      (F.st = .stopped → EndsOn (becomes .running) (.furrowStart mb k r) s mb c rest 0 []) ∧
      (F.st = .running → EndsAlone (.furrowStart mb k r) s mb c rest 0 []) ∧
      (F.st = .unplaced → EndsAlone (.furrowStart mb k r) s mb c rest 0xC []) ∧
      (F.st = .failed → s.sealed = true → EndsAlone (.furrowStart mb k r) s mb c rest 0xC []) ∧
      (F.st = .created → s.bindings F ≠ 0 → (s.twinStart F).1 = true → s.codeWaits F = false →
        (crc32cOf code ≠ F.desc.codeCrc → EndsOn u (.furrowStart mb k (.ok l)) s mb c rest 0xB []) ∧
        (crc32cOf code = F.desc.codeCrc → F.blockCanFit = false → EndsOn u (.furrowStart mb k (.ok l)) s mb c rest 9 []) ∧
        (crc32cOf code = F.desc.codeCrc → F.blockCanFit = true → s.sealed = true → ∃ t, exec (.furrowStart mb k (.ok l)) s = .next t ∧
          t.furrow? F.id = some marked ∧ t.plot = s.plot ∧ Ends u t mb c rest 0 [] none) ∧
        (crc32cOf code = F.desc.codeCrc → F.blockCanFit = true → s.sealed = false → u.bindings F = 2 → (u.twinStart F).2 = false →
          ∀ g b a, u.choose F (fun _ => true) = some (g, b) → u.alloc g F none none = some a → F.blockFits a.extents = true →
            ∃ t, exec (.furrowStart mb k (.ok l)) s = .next t ∧ Ends u t mb c rest 0 [] none ∧
              ∃ G, t.furrow? F.id = some G ∧ G.st = .running ∧ G.engine = some g ∧ G.home = some (fieldOf g) ∧ G.extents = a.extents ∧
                G.ctx.pc = nw F.desc.entry ∧ G.ctx.psw = 0x00068700#32 ∧ G.desc = F.desc ∧ G.restarts = F.restarts))) ∧
    (op = 0x0303 → named →
      (F.st = .running → EndsOn (becomes .stopped) (.furrowStop mb k) s mb c rest 0 []) ∧
      (F.st = .stopped → EndsAlone (.furrowStop mb k) s mb c rest 0 []) ∧
      (F.st = .unplaced ∨ F.st = .failed → EndsAlone (.furrowStop mb k) s mb c rest 0xC [])) ∧
    (op = 0x0304 → named →
      (F.st = .running → EndsAlone (.furrowDestroy mb k) s mb c rest 0xC []) ∧
      (F.st = .stopped ∨ F.st = .failed ∨ F.st = .created → ∃ t, exec (.furrowDestroy mb k) s = .next t ∧
        t.furrow? F.id = none ∧ t.plot = s.plot ∧ t.seed = s.seed ∧ t.host = s.host ∧ Ends s t mb c rest 0 [] none ∧
        (∀ i, i ≠ F.id → (t.furrow? i).map Furrow.desc = (s.furrow? i).map Furrow.desc))) ∧
    (op = 0x0305 → s.named mb c true = .ok F →
      let st : Nat := match F.st with
        | .created => 0
        | .running => 1
        | .stopped => 2
        | .moving => 3
        | .unplaced => 4
        | .failed => 5
      let moves := s.sower.migs.any fun m => m.fid == F.id
      ∀ g : Fin 96, F.engine = some g → ∃ w, EndsAlone (.furrowQuery mb k) s mb c rest 0
        [nw (if moves then 3 else st), nw (g.val + 256 * (g.val / 24)), w, nw F.migrations]) ∧
    ((op = 0x0302 ∨ op = 0x0303 ∨ op = 0x0304) → ∀ e, s.named mb c false = .error e →
      (op = 0x0302 → EndsAlone (.furrowStart mb k r) s mb c rest e []) ∧
      (op = 0x0303 → EndsAlone (.furrowStop mb k) s mb c rest e []) ∧
      (op = 0x0304 → EndsAlone (.furrowDestroy mb k) s mb c rest e []))

/-- R57, R98, R344, R492: FURROW_SIGNAL puts its 32 bytes into the control queue of a running furrow once, and ends with the furrow's
answer; RESTORE ends with the acceptance code of R344 and, where it accepts, takes BREAK and the B drive off the zone's lines that are changed
over. -/
def Obligations.SignalAndRestore : Prop :=
  ∀ (s : State) (mb : Fin 16) (k : BitVec 16) (c : ActiveCmd) (rest : List ActiveCmd) (F : Furrow) (w : Word) (f : Fin 4),
    Runs s mb k 0x0306 c rest → s.named mb c true = .ok F →
    let words : List Word := c.args.toList.drop 1 |>.take 8
    let code := s.restoreCode f c
    let zone := c.args[2].toNat
    let answered (i : Instr) (code : Word) (p : State → Prop) : Prop :=
      ∃ t, exec i s = .next t ∧ Ends s t mb c rest 0 [code] none ∧ t.furrow? F.id = some { F with ctlq := F.ctlq.drop 1 } ∧
        t.plot = s.plot ∧ t.engines = s.engines ∧ p t
    (F.st = .running → c.started = false → ∃ t, exec (.furrowSignal mb k none) s = .next t ∧
      t.furrow? F.id = some { F with ctlq := F.ctlq ++ [words] } ∧ t.plot = s.plot ∧ t.fields = s.fields ∧
      (∃ d ∈ t.mailboxes[mb].active, d.k = k ∧ d.started = true) ∧ t.mailboxes[mb].records = s.mailboxes[mb].records) ∧
    (F.st = .running → c.started = true →
      exec (.furrowSignal mb k none) s = .next s ∧ answered (.furrowSignal mb k (some w)) w fun t => t.sup = s.sup) ∧
    (F.st = .stopped ∨ F.st = .failed ∨ F.st = .unplaced → c.started = false →
      EndsAlone (.furrowSignal mb k (some w)) s mb c rest 0xC [] ∧ EndsAlone (.restore mb k (some w)) s mb c rest 0xC []) ∧
    (F.st = .running → c.started = true → F.home = some f →
      (code ≠ 0 → answered (.restore mb k (some w)) (nw code) fun t => t.sup = s.sup) ∧
      (code = 0 → answered (.restore mb k (some w)) 0 fun t =>
        t.sup = { s.sup with judged := t.sup.judged } ∧ t.sup.judged.length = s.sup.judged.length ∧
        ∀ (i : Nat) (x : LineSt), s.sup.judged[i]? = some x →
          (x.zone = zone ∧ x.field = f ∧ x.crossed = true →
            ∃ y, t.sup.judged[i]? = some y ∧ y.crossed = false ∧ y.bdrv = false ∧ y.b.faults.getLsbD 4 = false ∧ y.owed = true ∧
              y.zone = x.zone ∧ y.line = x.line) ∧
          (¬(x.zone = zone ∧ x.field = f ∧ x.crossed = true) → t.sup.judged[i]? = some x)))

/-- R60, R218, R239-R241, R412, R434, R435: customer microcode that passes its checks is loaded into the Fields of its mask and kept for their
resets, and is measured; a retired or dozing engine is skipped. A supervisor image that passes its checks waits in the slot that is not active, and the
failed starts are forgotten. A failed readback ends with E_HW; a failed check changes nothing. -/
def Obligations.ImageLoads : Prop :=
  ∀ (s : State) (mb : Fin 16) (k : BitVec 16) (c : ActiveCmd) (rest : List ActiveCmd) (l : List Byte) (e : Nat) (w : Word),
    Runs s mb k 0x0501 c rest →
    let mask : BitVec 4 := c.args[1].setWidth 4
    let b := bytesAt l 0 c.bufLen
    let slot := !s.seed.active
    let ix := slotIx slot
    let cust (r : Bool) : Instr := .imageLoadCustomerMicrocode mb k (.ok l) r
    let sup (r : Bool) : Instr := .imageLoadSupervisorFirmware mb k (.ok l) r
    (c.args[0] = 0 → mask ≠ 0 → s.sessionError mb mask = 0 →
      (∀ f : Fin 4, mask.getLsbD f.val = true → s.fieldHeld (some (mb, k)) f.val = false ∧ s.fields[f].st = .out) →
      (s.custError b c.bufLen = some (e, w) → EndsOn s (cust true) s mb c rest e [w]) ∧
      (s.custError b c.bufLen = none →
        (∃ t, exec (cust true) s = .next t ∧ Ends s t mb c rest 0 [le32 (digestBytes (custOf b).digest) 0] none ∧ t.plot = s.plot ∧
          t.seed = s.seed ∧
          (∀ f : Fin 4,
            (mask.getLsbD f.val = true → t.fields[f] = { s.fields[f] with cust := custOf b, keptCust := some (custOf b) } ∧
              t.sup.meas[3 + f.val] = extendMeas s.sup.meas[3 + f.val] (custOf b).digest) ∧
            (mask.getLsbD f.val = false → t.fields[f] = s.fields[f])) ∧
          ∀ g : Fin 96,
            (mask.getLsbD (fieldOf g).val = false → t.engines[g] = s.engines[g]) ∧
            (mask.getLsbD (fieldOf g).val = true →
              t.custOf g = (if s.engines[g].st = .retired ∨ s.engines[g].st = .doze then s.custOf g else custOf b) ∧
              t.engines[g].cur = s.engines[g].cur ∧ t.engines[g].st = s.engines[g].st)) ∧
        (∃ t, exec (cust false) s = .next t ∧ Ends s t mb c rest 0x17 [] none ∧
          ∀ f : Fin 4, mask.getLsbD f.val = true → t.fields[f].cust = Customer.none))) ∧
    (c.args[0] = 1 →
      (s.fwError b c.bufLen = some (e, w) → EndsOn s (sup true) s mb c rest e [w]) ∧
      (s.fwError b c.bufLen = none → EndsOn s (sup false) s mb c rest 0x17 [] ∧
        ∃ t, exec (sup true) s = .next t ∧ Ends s t mb c rest 0 [le32 (digestBytes (fwDigest b)) 0] none ∧
          t.seed.pending = some slot ∧ t.seed.slotDigest = s.seed.slotDigest.set ix (fwDigest b) ∧
          t.seed.slotBuild = s.seed.slotBuild.set ix (le16 b 8) ∧ t.seed.active = s.seed.active ∧ t.seed.floor = s.seed.floor ∧
          t.island = { s.island with failedStarts := 0 } ∧ t.fields = s.fields ∧ t.sup = s.sup))

/-! Service commands, moves, walks and debug sessions (R20, R21, R57, R61, R63, R64, R66, R98, R243, R261-R268, R348, R349, R402, R449, R476, R492) -/

/-- R20, R57, R64, R100, R261-R263, R267, R402, R476: FIELD_DRAIN takes a Field out of service, at once when no furrow runs there; FIELD_POWER
asks for the supply and holds the pads; HARROW_RUN and BANK_REPAIR test and retire a bank; ENGINE_TEST and ENGINE_RETIRE keep the retirement map. -/
def Obligations.ServiceCommands : Prop :=
  ∀ (s : State) (mb : Fin 16) (k : BitVec 16) (op : Nat) (c : ActiveCmd) (rest : List ActiveCmd) (f : Fin 4) (b : Fin 32) (g : Fin 96)
    (l : List Nat) (again pass : Bool) (w : Word),
    Runs s mb k op c rest →
    let arg (i : Fin 10) : Nat := c.args[i].toNat
    let there (F : Furrow) : Prop := F.engine.map fieldOf = some f
    let stays (t : State) : Prop := ∃ d ∈ t.mailboxes[mb].active, d.k = k ∧ d.started = true
    let ended (t : State) (r : List Word) : Prop :=
      t.mailboxes[mb].records = s.mailboxes[mb].records ++ [cplOf c.tag 0 k c.opcode r none]
    let gone : Prop := s.fields[f].st = .off ∨ s.fields[f].st = .resetting
    let bank (t : State) : Bank := t.fields[f].banks[b]
    (op = 0x0804 → c.started = false → arg 0 = f.val → s.fieldHeld (some (mb, k)) f.val = false → (∀ h : Fin 4, s.fields[h].st = .inService) →
      ((∀ F ∈ s.furrows, ¬there F) → ∃ t, exec (.fieldDrain mb k) s = .next t ∧
        t.fields[f].st = .out ∧ t.fields[f].queueTab = [] ∧ ended t [nw c.num] ∧ t.furrows = s.furrows ∧
        ((∀ h : Fin 4, ∀ j ∈ s.fields[h].ports.jobs, j.bridge = none) → t.plot = s.plot)) ∧
      (∀ u, s.drainMoves f = some u → (∃ F ∈ s.furrows, there F) → (∀ F ∈ s.furrows, there F → s.hasRefuge F f = true) →
        ∃ t, exec (.fieldDrain mb k) s = .next t ∧
          t.fields[f].st = .draining ∧ t.sower.migs = u.sower.migs ∧ stays t ∧ t.furrows = s.furrows ∧ t.plot = s.plot)) ∧
    (op = 0x0805 → arg 0 = f.val →
      let others (t : State) : Prop := t.engines = s.engines ∧ ∀ h : Fin 4, h ≠ f → t.fields[h] = s.fields[h]
      (c.started = false → s.fieldHeld (some (mb, k)) f.val = false →
        (arg 1 = 0 → f ≠ 0 → s.fields[f].st = .out → ∃ t, exec (.fieldPowerOff mb k) s = .next t ∧ stays t ∧ others t ∧
          t.fields[f].st = .out ∧ t.fields[f].padHold = true ∧ t.fields[f].retain = false ∧ t.fields[f].pwrReq = false) ∧
        (arg 1 = 1 → f ≠ 0 → s.fields[f].st = .out → ∃ t, exec (.fieldPowerOffRetained mb k) s = .next t ∧ stays t ∧ others t ∧
          t.fields[f] = { s.fields[f] with padHold := true, retain := true, pwrReq := false } ∧ t.plot = s.plot) ∧
        (arg 1 = 2 → s.fields[f].st = .off → ∃ t, exec (.fieldPowerOn mb k) s = .next t ∧ stays t ∧ others t ∧
          t.fields[f] = { s.fields[f] with pwrReq := true } ∧ t.plot = s.plot)) ∧
      (c.started = true → 10000000 ≤ s.since c.since → ∃ t, exec (.fieldPowerTimeout mb k) s = .next t ∧ others t ∧
        Ends s t mb c rest 0x17 [] none ∧ t.fields[f].st = s.fields[f].st ∧
        t.fields[f].pwrReq = decide (s.fields[f].st ≠ .off) ∧ t.plot = s.plot)) ∧
    (c.started = false → arg 0 = f.val → arg 1 = b.val → s.bankHeld (some (mb, k)) f.val b.val = false →
      s.fieldHeld (some (mb, k)) f.val = false → ¬gone →
      (op = 0x0602 → arg 2 = 1 ∨ arg 2 = 2 → (bank s).st ≠ .harrow → (bank s).st ≠ .retired →
        exec (.harrowRunPreserving mb k) s = .next (s.start mb k)) ∧
      (op = 0x0602 → arg 2 = 0x10 ∨ arg 2 = 0x11 → (bank s).st = .free → s.sup.firstCommit = true →
        (∃ t, exec (.harrowRunDestructive mb k [] again) s = .next t ∧ Ends s t mb c rest 0 [0, 0xFFFFFFFF] none ∧
          (bank t).st = .free ∧ ∀ a, bankOf a = b → t.plotByte f a = 0) ∧
        (l ≠ [] → ∃ t, exec (.harrowRunDestructive mb k l true) s = .next t ∧ Ends s t mb c rest 0 [1, firstFailing l] none ∧
          (bank t).st = .retired ∧ bankKey f b ∈ t.seed.retiredBanks)) ∧
      (op = 0x0807 → (bank s).st = .free →
        (arg 2 = 0 → ∃ t, exec (.bankRepairRetire mb k) s = .next t ∧ Ends s t mb c rest 0 [] none ∧
          (bank t).st = .retired ∧ bankKey f b ∈ t.seed.retiredBanks ∧ t.plot = s.plot ∧ t.engines = s.engines) ∧
        (arg 2 = 1 → s.sup.firstCommit = true → (s.flaggedRows f b).length ≤ (bank s).freeSpares.length →
          ∃ t, exec (.bankRepairRemap mb k [] again) s = .next t ∧ Ends s t mb c rest 0 [] none ∧
            (bank t).st = .free ∧ bankKey f b ∉ t.seed.retiredBanks ∧ t.engines = s.engines))) ∧
    (arg 0 = g.val → s.engineHeld (some (mb, k)) g.val = false → s.fieldHeld (some (mb, k)) (fieldOf g).val = false → s.fields[fieldOf g].st = .inService →
      s.residents g = [] →
      (op = 0x0603 → s.isTarget g = false → ∃ t, exec (.engineTest mb k w pass) s = .next t ∧
        Ends s t mb c rest 0 [w] none ∧ t.plot = s.plot ∧ (∀ h : Fin 96, h ≠ g → t.engines[h] = s.engines[h]) ∧
        (pass = true → g ∉ t.seed.retiredEngines ∧ (s.reset? = none → t.engines[g].st = .doze)) ∧
        (pass = false → t.seed.retiredEngines = s.seed.retiredEngines)) ∧
      (op = 0x0806 → c.started = false → s.engines[g].st ≠ .retired → ∃ t, exec (.engineRetire mb k) s = .next t ∧
        ended t [nw c.num] ∧ t.engines[g].st = .retired ∧ g ∈ t.seed.retiredEngines ∧ t.plot = s.plot ∧ t.furrows = s.furrows))

/-- R57, R61, R63, R66, R243, R348, R349, R449, R492: FURROW_MOVE puts a furrow into the migration sequencer; FIELD_WALK starts a walk of a range;
LINE_READ answers the zones of a range; DEBUG_CHALLENGE answers a nonce, DEBUG_OPEN opens the one session with a signed answer, DEBUG_CLOSE ends it. -/
def Obligations.MoveWalkDebugCommands : Prop :=
  ∀ (s : State) (mb : Fin 16) (k : BitVec 16) (op : Nat) (c : ActiveCmd) (rest : List ActiveCmd) (F : Furrow) (f : Fin 4) (x : Fin 24)
    (src : Fin 96) (r : Reply) (r' : BitVec 3) (l : List Byte),
    Runs s mb k op c rest →
    let arg (i : Fin 10) : Nat := c.args[i].toNat
    let g := globalOf f x
    let stays (t : State) : Prop := ∃ d ∈ t.mailboxes[mb].active, d.k = k ∧ d.started = true
    (op = 0x0307 → c.started = false → s.named mb c false = .ok F → F.st = .running ∨ F.st = .stopped → F.engine = some src → arg 1 = f.val → arg 2 = x.val →
      g ≠ src → F.desc.fieldMask.getLsbD f.val = true → s.fields[f].st = .inService →
      (some f = F.home ∨ (s.csVer f 1, s.csVer f 2) = F.verAtStart) → s.usable g = true → s.fieldOk F f = true → s.slotFor F g = true →
      (s.migAlloc F g).isSome = true → ∃ t m, exec (.furrowMove mb k) s = .next t ∧ t.sower = { s.sower with migs := s.sower.migs ++ [m] } ∧
        m.fid = F.id ∧ m.src = src ∧ m.dst = g ∧ m.st = .prepare ∧ m.cmd = some (mb, k) ∧ stays t ∧
        t.engines = s.engines ∧ t.furrows = s.furrows ∧ t.plot = s.plot) ∧
    (op = 0x0604 → c.started = false → s.furrowsHeld (some (mb, k)) (s.walkFields (arg 0) (arg 1)) = false → fieldN s.now 32 32 < arg 2 →
      let walk : Walk := { mb := mb, k := k, fields := s.walkFields (arg 0) (arg 1), begun := false, todo := [], now := [], done := 0, faults := 0 }
      ∃ t, exec (.fieldWalk mb k) s = .next t ∧ t.sup = { s.sup with walks := s.sup.walks ++ [walk] } ∧ stays t ∧
        t = { s with sup := t.sup, mailboxes := t.mailboxes }) ∧
    (op = 0x0604 → c.started = false → s.furrowsHeld (some (mb, k)) (s.walkFields (arg 0) (arg 1)) = false → arg 2 ≤ fieldN s.now 32 32 →
      s.walk? mb k = none → s.zonesToWalk (arg 0) (arg 1) = [] → ∃ t, exec (.fieldWalk mb k) s = .next t ∧
        t.mailboxes[mb].records = s.mailboxes[mb].records ++ [cplOf c.tag 0 k c.opcode [0, 0] none] ∧ t.sup = s.sup ∧ t.plot = s.plot) ∧
    (op = 0x0704 → arg 0 + arg 1 ≤ 4095 →
      let image := (List.range (arg 1)).flatMap fun i => s.zoneImage (arg 0 + i)
      image.length ≤ c.bufLen → Answers (.lineRead mb k 0) s mb c rest image 0 0 0) ∧
    (op = 0x0704 → 4095 < arg 0 + arg 1 → EndsAlone (.lineRead mb k 0) s mb c rest 9 []) ∧
    (op = 0x0901 → 32 ≤ c.bufLen →
      let n := bytesAt (Config.nonce s.dbg.challenges) 0 32
      ∃ t, exec (.debugChallenge mb k 0) s = .next t ∧ Ends s t mb c rest 0 [0, 0, 0, crc32cOf n] none ∧ t.mailboxes[mb].bufOut = n ∧
        t.dbg = { s.dbg with nonce := some (n, s.now), challenges := s.dbg.challenges + 1 } ∧
        t = { s with dbg := t.dbg, mailboxes := t.mailboxes }) ∧
    (op = 0x0902 → (s.sealed = false ∧ s.dbgAuth = false) ∨ 96 ≤ c.bufLen → s.dbg.session.isSome = true → EndsAlone (.debugOpen mb k r) s mb c rest 0xC []) ∧
    (op = 0x0902 → s.dbg.session = none →
      let opened (i : Instr) : Prop := ∃ t, exec i s = .next t ∧ Ends s t mb c rest 0 [s.dbg.sessions + 1] none ∧
        t.dbg.session = some (c.args[0].setWidth 7) ∧ t.dbg.sessions = s.dbg.sessions + 1 ∧ t.fields = s.fields ∧ t.engines = s.engines
      (s.sealed = false → s.dbgAuth = false → opened (.debugOpen mb k r)) ∧
      (s.sealed = true ∨ s.dbgAuth = true → 96 ≤ c.bufLen →
        (s.openError c l = 0 → opened (.debugOpen mb k (.ok l))) ∧
        (s.openError c l ≠ 0 → EndsOn { s with dbg := { s.dbg with nonce := none } } (.debugOpen mb k (.ok l)) s mb c rest
          (s.openError c l) []) ∧
        EndsOn s (.debugOpen mb k (.bad r')) s mb c rest 0xA []) ∧
      (s.sealed = true ∨ s.dbgAuth = true → c.bufLen < 96 → EndsAlone (.debugOpen mb k r) s mb c rest 9 [96])) ∧
    (op = 0x0903 → s.dbg.session = none → EndsAlone (.debugClose mb k) s mb c rest 0xC []) ∧
    (op = 0x0903 → s.dbg.session.isSome = true → ∃ t, exec (.debugClose mb k) s = .next t ∧ Ends s t mb c rest 0 [] none ∧
      t.dbg.session = none ∧ t.plot = s.plot ∧ t.furrows = s.furrows)

/-! The host window and the Almanac (R7, R29, R355-R374, R375-R379, R386-R401) -/

/-- R7, R359, R367, R375, R379, R386, R391, R394-R399, R401: the guard key unlocks RG registers for its requester for 1 ms and one write; the
indirect pairs address, read and write; acknowledgements, interrupt messages, sampling reads; an access of a wrong size or alignment, and one of the debug port while DBG_CLK is at fault, gets an error response and
does nothing else (the latter: log 73, the model's choice). -/
def Obligations.HostRegisters : Prop :=
  ∀ (s u : State) (rid : Rid) (v w : Word) (p : Fin 4) (i : Fin 7) (src : Fin 22) (id : BitVec 10) (a : BitVec 24) (party : AlmParty) (n : Fin 32)
    (addr : BitVec 20) (size : Nat) (m : Fin 16),
    let host (h : HostWin) : State := { s with host := h }
    let H := s.host
    let live := H.unlocks.filter fun e => e.1 != rid && decide (s.since e.2 < 1000000)
    let x := idxAddrOf H.idxAddr[p]
    let next := if H.idxAddr[p].getLsbD 24 then insertBits H.idxAddr[p] 0 (BitVec.ofNat 24 (idxNext x)) else H.idxAddr[p]
    (v = 0x0000C5A9 → ∃ t, exec (.guardKeyWrite rid v) s = .next t ∧ t.unlocked rid = true ∧
      t.host = { H with unlocks := (if live.length < 16 then live else live.drop 1) ++ [(rid, s.now)] }) ∧
    (v ≠ 0x0000C5A9 → ∃ t, exec (.guardKeyWrite rid v) s = .next t ∧ t.unlocked rid = false ∧
      t.host = { H with unlocks := live, badKeys := if H.badKeys = 255 then 255 else H.badKeys + 1 }) ∧
    (s.unlocked rid = false →
      exec (.guardUnlockExpiry rid) s = .next (host { H with unlocks := H.unlocks.filter fun e => e.1 != rid }) ∧
      ∃ t, exec (.sealRefWrite rid v) s = .next t ∧ t.host = H) ∧
    (s.unlocked rid = true → s.sealedCommitted = false →
      exec (.sealRefWrite rid v) s = .next (host { H with unlocks := H.unlocks.filter fun e => e.1 != rid, sealRef := v })) ∧
    (H.idxWrite[p] = none →
      exec (.idxAddrWrite rid p v) s =
        .next (host { H with idxAddr := H.idxAddr.set p (v &&& 0x01FFFFFC#32), idxHolder := H.idxHolder.set p (some rid) }) ∧
      (H.idxHolder[p] = some rid → s.riRefuses x = 0 → exec (.idxDataWrite rid p v) s =
        .next (host { H with
          idxAddr := H.idxAddr.set p next, idxErr := H.idxErr.set p false
          idxWrite := H.idxWrite.set p (some (BitVec.ofNat 24 x, v, rid)), idxBusy := H.idxBusy.set p true })) ∧
      (H.idxHolder[p] = some rid → s.riRead p x (s.isPeek rid) = some (w, u) → ∃ t, exec (.idxDataRead rid p) s = .next t ∧
        t.host.resp = some w ∧ t.host.idxErr[p] = (s.isPeek rid && H.idxErr[p]) ∧ t.almanac = u.almanac ∧ t.fields = u.fields ∧
        t.host.idxAddr[p] = if s.isPeek rid then H.idxAddr[p] else next)) ∧
    (H.idxWrite[p] = some (a, v, rid) →
      let r := s.riWrite rid a.toNat v
      exec (.idxWriteCompletion p) s =
        .next { r with host := { r.host with idxWrite := r.host.idxWrite.set p none, idxBusy := r.host.idxBusy.set p false } }) ∧
    (∃ t, exec (.fldAckWrite rid v) s = .next t ∧ t = host t.host ∧ t.host.fldAck = v ∧
      ∀ f : Fin 4, t.host.msgDue[16 + f.val] = (s.fields[f].chg != v.extractLsb' (8 * f.val) 8) ∧
        (fieldN H.route[16 + f.val] 0 2 = 1 → t.irqOut ⟨16 + f.val, by omega⟩ = (s.fields[f].chg != v.extractLsb' (8 * f.val) 8))) ∧
    (∃ t, exec (.almAckWrite rid i v) s = .next t ∧ t = host t.host ∧ t.host.almAck = H.almAck.set i v ∧
      t.host.msgDue[20] = (host { H with almAck := H.almAck.set i v }).almCond) ∧
    (fieldN H.route[src] 0 2 = 3 → s.irqCond src = true → H.msgFlight[src] = false → H.msgHeld[src] = false ∨ H.msgDue[src] = true →
      s.fields[(0 : Fin 4)].st ≠ .off → s.fields[(0 : Fin 4)].st ≠ .resetting → s.fabRuns = true →
      s.issueTxn 0 supIds true H.msgAddr[src] 4 (bytes32 H.msgData[src]) (.message src) = some (id, u) →
        ∃ t, exec (.interruptMessageWrite src) s = .next t ∧ t.fields = u.fields ∧ t.host.msgFlight[src] = true ∧
          t.host.msgHeld[src] = true ∧ t.host.msgDue[src] = false) ∧
    (∃ t, exec (.tbLoRead rid) s = .next t ∧ t.host = { H with resp := some (s.now.setWidth 32) } ∧
      (s.isPeek rid = true → t.almanac = s.almanac) ∧ (s.isPeek rid = false → tbSampleOf t.almanac.tbSample rid = s.now)) ∧
    (∃ t, exec (.atnCapRead party n) s = .next t ∧ t.host = { H with resp := some (capValue s.almanac.timers n) } ∧
      t.almanac.timers = if s.ownsTimer party n then popCap s.almanac.timers n else s.almanac.timers) ∧
    (accessOk addr size = false ∨ (rid = debugRid ∧ s.pins.clkFault.getLsbD 9 = true) →
      exec (.registerRead rid addr size) s = .next (host { H with resp := none }) ∧
      exec (.registerWrite rid addr size v) s = .next (host { H with resp := none })) ∧
    (accessOk addr size = true → rid ≠ debugRid ∨ s.pins.clkFault.getLsbD 9 = false →
      (addr.toNat < 0x1000 → exec (.registerRead rid addr size) s = .next (host { H with resp := some (s.globalRead addr.toNat) }) ∧
        exec (.registerWrite rid addr size v) s = .next s) ∧
      (addr.toNat = 0x10010 + 0x1000 * m.val → s.mailboxes[m].enabled = false → ∃ t, exec (.registerWrite rid addr size v) s = .next t ∧
        t = { s with mailboxes := t.mailboxes } ∧ (∀ k : Fin 16, k ≠ m → t.mailboxes[k] = s.mailboxes[k]) ∧
        t.mailboxes[m] = { s.mailboxes[m] with
          cmdBase := s.mailboxes[m].cmdBase.extractLsb' 32 32 ++ (v &&& 0xFFFFF000#32) }))

/-- R356-R359, R369-R371, R374: an increment advances time and counts timers and watchdogs; a PPS edge captures and steers, k standing in
LF mode; after 3 s without an edge HOLD sets and LOCKED clears, after 1.5 s the PPS flag clears; R417: the counter of the start deadline counts in either mode; low frequency
ends; a thawed watchdog has its full period. -/
def Obligations.TimeBase : Prop :=
  ∀ (s : State) (sec : BitVec 48) (f : Fin 4),
    let A := s.almanac
    let alm (x : Almanac) : State := { s with almanac := x }
    ((∀ n : Fin 32, A.timers[n].due = false) →
      let d := if A.lf then 3000 else 1
      let total := A.tbFrac.toNat + A.inc.toNat * d
      ∃ t, exec .timeBaseIncrement s = .next t ∧ t = alm t.almanac ∧ t.almanac.tb = nsTb (tbNs A.tb + total / 4294967296) ∧
        t.almanac.tbFrac = nw total ∧ t.almanac.timers = stepTimers d A.timers ∧
        t.almanac.wdf = vmap (fun _ w => w.tick d) A.wdf ∧ t.almanac.wds = (if s.supAlive then A.wds.kick else A.wds).tick d ∧
        t.almanac.deadline = A.deadline.map (fun n => n - d) ∧ t.almanac.inc = A.inc ∧ t.almanac.rate = A.rate ∧ t.almanac.locked = A.locked) ∧
    (let seen : State := alm { A with ppsCap := A.tb, ppsAt := A.tb, pps := true, hold := false };
      exec (.ptpPpsEdge sec false) s = .next seen ∧ (s.supAlive = false → exec (.ptpPpsEdge sec true) s = .next seen)) ∧
    (s.supAlive = true →
      let err : Int := (tbNs A.tb : Int) - 25 - ((sec.extractLsb' 0 32).toNat : Int) * 1000000000
      ∃ t, exec (.ptpPpsEdge sec true) s = .next t ∧
        t.almanac.ppsCap = A.tb ∧ t.almanac.ppsAt = t.almanac.tb ∧ t.almanac.pps = true ∧ t.almanac.hold = false ∧ t.almanac.loss = false ∧ t.almanac.set = true ∧
        (A.set = false ∨ A.loss = true → err < 0 → t.almanac.tb = nsTb (tbNs A.tb + err.natAbs)) ∧
        (A.set = true → A.loss = false → -1000000 ≤ err → t.almanac.tb = A.tb) ∧
        (0 ≤ err → t.almanac.tb = A.tb) ∧ (err < -1000000 → t.almanac.tb = nsTb (tbNs A.tb + err.natAbs)) ∧
        (1000 < err.natAbs → t.almanac.locked = false) ∧ (err.natAbs ≤ 1000 → A.locked = true → t.almanac.locked = true) ∧
        (err.natAbs ≤ 100 → 3 ≤ A.goodEdges → t.almanac.locked = true) ∧
        t.almanac.ahead = decide (1000000000 < err) ∧ (A.lf = true → t.almanac.rate = A.rate) ∧
        ∀ (h : Fin 4) (d : Fin 16), t.fields[h].drills[d] =
          (if s.fields[h].drills[d].dmode.getLsbD 21 ∧ A.lf = false then
            { s.fields[h].drills[d] with dTrim := trimmed s.fields[h].drills[d].ddiv t.almanac.rate }
          else s.fields[h].drills[d])) ∧
    (3000000000 ≤ s.since A.ppsAt →
      exec .ppsHoldTimeout s = .next (alm { A with hold := true, locked := false, goodEdges := 0, pps := false })) ∧
    (s.since A.ppsAt < 3000000000 → exec .ppsHoldTimeout s = .next s) ∧
    (1500000000 ≤ s.since A.ppsAt → exec .ppsEdgeTimeout s = .next (alm { A with pps := false })) ∧
    (s.since A.ppsAt < 1500000000 → exec .ppsEdgeTimeout s = .next s) ∧
    (s.pins.clkFault.getLsbD 7 = false → s.pins.dormantAck = false → exec .lfModeExit s = .next (alm { A with lf := false })) ∧
    (s.freezeHonoured = false →
      (A.wds.frozen = true → ∃ t, exec (.watchdogFreezeEnd 0) s = .next t ∧
        t.almanac = { A with wds := { A.wds with frozen := false, remain := A.wds.period.toNat * almPerMs } } ∧ t.fields = s.fields) ∧
      (A.wdf[f].frozen = true → ∃ t, exec (.watchdogFreezeEnd ⟨f.val + 1, by omega⟩) s = .next t ∧
        t.almanac.wdf[f] = { A.wdf[f] with frozen := false, remain := A.wdf[f].period.toNat * almPerMs } ∧
        (∀ h : Fin 4, h ≠ f → t.almanac.wdf[h] = A.wdf[h]) ∧ t.almanac.wds = A.wds ∧ t.almanac.timers = A.timers))

/-- R5, R360, R362-R368: only its owner writes a timer, whose reserved bits stay 0; a landing applies what waits; captures take two slots and count what they lose; a match counts,
advances an AUTO timer by its PERIOD, stops a ONESHOT and latches its furrow's source; ALM_START and ALM_STOP act on marked timers of the writer. -/
def Obligations.Timers : Prop :=
  ∀ (s : State) (w : AlmParty) (n : Fin 32) (v : Word) (fid : Nat),
    let A := s.almanac
    let T := A.timers[n]
    let keeps (t : State) : Prop := ∀ k : Fin 32, k ≠ n → t.almanac.timers[k] = A.timers[k]
    let frame (t : State) : Prop := t = { s with almanac := t.almanac } ∧ t.almanac = { A with timers := t.almanac.timers } ∧ keeps t
    let seen (T : Timer) (v : Word) : Timer :=
      match T.cap0, T.cap1 with
      | none, _ => { T with cap0 := some v }
      | some _, none => { T with cap1 := some v }
      | some _, some _ => { T with ovr := if T.ovr = 0xFF then T.ovr else T.ovr + 1 }
    let mine : Prop := v.getLsbD n.val = true ∧ s.ownsTimer w n = true ∧ chained A.timers n = false
    (s.ownsTimer w n = true → s.sealedCommitted = false → fieldN v 1 2 ≠ 3 → ∃ t, exec (.atnCtlWrite w n v) s = .next t ∧
      frame t ∧
      (∀ i : Nat, t.almanac.timers[n].ctl.getLsbD i = (v.getLsbD i && decide (i < 15) && !(i == 3 && n.val % 2 == 1) &&
        (decide (i < 8) || fieldN v 4 4 == 4 || fieldN v 4 4 == 5 || (fieldN v 4 4 == 3 && decide (i < 14))))) ∧ t.almanac.timers[n].owner = T.owner ∧
      (T.run = false → v.getLsbD 0 = true → t.almanac.timers[n].cap0 = none ∧ t.almanac.timers[n].cap1 = none ∧ t.almanac.timers[n].ovr = 0) ∧
      t.almanac.timers[n].count = T.count ∧ t.almanac.timers[n].cmp = T.cmp ∧ t.almanac.timers[n].evcnt = T.evcnt) ∧
    (s.ownsTimer w n = false → ∃ t, exec (.atnCtlWrite w n v) s = .next t ∧ t.almanac = A ∧ t.fields = s.fields) ∧
    (chained A.timers n = false → T.capDue = false → ∃ t, exec (.timerWriteLanding n) s = .next t ∧ frame t ∧
      t.almanac.timers[n] = { T with
        count := T.pendCount.getD T.count, cmp := T.pendCmp.getD T.cmp, period := T.pendPeriod.getD T.period
        pendCount := none, pendCmp := none, pendPeriod := none }) ∧
    (chained A.timers n = false → 2 ≤ T.capsrc → T.capsrc ≤ 5 →
      ∃ t, exec (.timerCapture n) s = .next t ∧ frame t ∧ t.almanac.timers[n] = seen T T.count) ∧
    (chained A.timers n = false → T.capsrc = 1 → s.ownsTimer w n = true →
      ∃ t, exec (.capnow w n) s = .next t ∧ frame t ∧ t.almanac.timers[n] = seen T T.count) ∧
    (chained A.timers n = false → T.due = true → T.owner = some (some fid) → ∃ t, exec (.timerMatch n) s = .next t ∧ keeps t ∧
      t.almanac.timers[n].evcnt = T.evcnt + 1 ∧ t.almanac.timers[n].due = false ∧ t.almanac.timers[n].count = T.count ∧
      (T.mode = 1 → t.almanac.timers[n].cmp = T.cmp + T.period) ∧ (T.mode ≠ 1 → t.almanac.timers[n].cmp = T.cmp) ∧
      (T.mode = 2 → t.almanac.timers[n].run = false) ∧ (T.mode ≠ 2 → t.almanac.timers[n].ctl = T.ctl) ∧
      (∀ (f : Fin 4) (d : Fin 16), t.fields[f].drills[d].ticks = s.fields[f].drills[d].ticks ||| (1#32 <<< n.val)) ∧
      (∀ F, s.furrow? fid = some F → ∃ G, t.furrow? fid = some G ∧ G.ctx.latched = F.ctx.latched ||| 0x0800 ∧ G.ctx.pc = F.ctx.pc)) ∧
    (∃ t, exec (.almStart w v) s = .next t ∧ t.fields = s.fields ∧ (v.getLsbD n.val = false → t.almanac.timers[n] = T) ∧
      (mine → t.almanac.timers[n] =
        if T.run then T else { T with ctl := insertBits T.ctl 0 1#1, cap0 := none, cap1 := none, ovr := 0 })) ∧
    (∃ t, exec (.almStop w v) s = .next t ∧ t.fields = s.fields ∧ (v.getLsbD n.val = false → t.almanac.timers[n] = T) ∧
      (mine → t.almanac.timers[n] = { T with ctl := insertBits T.ctl 0 0#1 }))

/-! Background work: the sealer, the Ledger's intake, messages, scrubbing (R217, R259, R260, R302, R382-R385, R393, R428, R430, R489-R491) -/

/-- R382-R384, R393, R430: a completed pass of the sealer is compared with the seal in force, and a mismatch names its scopes; the Ledger takes one
record at a time from its sources; a queue message is acted on once, repeated once after 4 µs, and then resets its Field. -/
def Obligations.SealLedgerMessages : Prop :=
  ∀ (s : State) (f : Fin 4) (seq : BitVec 16) (src : Fin 15) (i : LedgerItem) (l : List LedgerItem)
    (tm : DWord),
    let H := s.host
    let v := s.passSeal.1
    let parts := s.passSeal.2
    let L := s.ledger
    (s.sup.committed = true → s.reset? = none → ∃ t, exec .sealPass s = .next t ∧
      (v = H.sealAct → t.host = { H with sealLast := v, sealParts := parts, sealPasses := H.sealPasses + 1, sealFail := 0 } ∧
        t.fields = s.fields) ∧
      (v ≠ H.sealAct → s.sealed = false → t.host.sealLast = v ∧ t.host.sealParts = parts ∧ t.host.sealPasses = H.sealPasses + 1 ∧
        (∀ c : Fin 5, t.host.sealFail.getLsbD c.val = (parts[c] != H.sealActParts[c])) ∧ t.fields = s.fields) ∧
      (v ≠ H.sealAct → s.sealed = true → parts[f.val] ≠ H.sealActParts[f.val] → s.fields[f].st = .inService →
        t.fields[f].st = .resetting)) ∧
    (s.pins.clkFault.getLsbD 4 = false → L.nextSource = some src → L.queues[src] = i :: l → ∃ t, exec .ledgerRecordAccept s = .next t ∧
      t.ledger.ring.getLast? = some { seq := L.nextSeq, time := s.now, source := src.val, item := i } ∧
      (L.ring.length < 1024 → t.ledger.ring.length = L.ring.length + 1 ∧ t.ledger.ring.take L.ring.length = L.ring) ∧
      (L.ring.length = 1024 → t.ledger.ring.take 1023 = L.ring.drop 1 ∧ t.ledger.ring.length = 1024) ∧
      t.ledger.nextSeq = L.nextSeq + 1 ∧ t.ledger.seqReg = L.nextSeq ∧ t.ledger.fill = min 1024 (L.fill + 1) ∧
      t.ledger.queues[src] = l ∧ (∀ c : Fin 15, c ≠ src → t.ledger.queues[c] = L.queues[c]) ∧ t.fields = s.fields ∧ t.plot = s.plot) ∧
    (s.fieldGone f = false →
      let others (t : State) : Prop := t = { s with fields := t.fields } ∧ ∀ h : Fin 4, h ≠ f → t.fields[h] = s.fields[h]
      (∃ t, exec (.queueMessage f seq true) s = .next t ∧ others t ∧
        t.fields[f].msgs = s.fields[f].msgs.filter (fun m => m.1 != seq) ∧ t.fields[f].msgSeen.contains seq = true ∧
        (s.fields[f].msgSeen.contains seq = true → t.fields[f].msgSeen = s.fields[f].msgSeen)) ∧
      (∃ t, exec (.queueMessage f seq false) s = .next t ∧ others t ∧ t.fields[f].msgSeen = s.fields[f].msgSeen ∧
        t.fields[f].msgs.any (fun m => m.1 == seq) = true)) ∧
    (s.fields[f].msgs.find? (fun m => m.1 == seq) = some (seq, false, tm) → 4000 ≤ s.since tm → ∃ t, exec (.queueMessageRetry f seq) s = .next t ∧
      t.fields[f].msgs.find? (fun m => m.1 == seq) = some (seq, true, s.now) ∧ t.fields[f].st = s.fields[f].st ∧
      ∀ h : Fin 4, h ≠ f → t.fields[h] = s.fields[h]) ∧
    (s.fields[f].msgs.find? (fun m => m.1 == seq) = some (seq, true, tm) → 4000 ≤ s.since tm → s.reset? = none → s.fields[f].st = .inService →
      ∃ t, exec (.queueMessageRetry f seq) s = .next t ∧ t.fields[f].st = .resetting)

/-- R217, R259, R260, R262, R428, R489, R491: the sweep corrects a correctable word and records another; a reported word and a reported microword are
rewritten; a preserving test takes a stripe, and a whole bank in 128 of them; the readers rewrite correctable table entries and stop what an
uncorrectable one serves. -/
def Obligations.Scrubbing : Prop :=
  ∀ (s : State) (f : Fin 4) (b : Fin 32) (g : Fin 96) (a : BitVec 13) (w : Nat) (l : List Nat) (mb : Fin 16) (c : ActiveCmd),
    let F := s.fields[f]
    let B := F.banks[b]
    let at_ := b.val * 131072 + 16 * F.gleanPos
    (s.fieldGone f = false → F.gleanPos < 8192 → ∃ t, exec (.gleanerScrubRead f) s = .next t ∧ t.plot = s.plot ∧
      t.fields[f].gleanPos = (F.gleanPos + 1) % 8192 ∧ t.fields[f].drillPos = (F.drillPos + 1) % 1024 ∧
      (B.st ≠ .harrow → B.st ≠ .retired → s.eccAt f at_ = some .corr → mapSorted F.ecc → t.eccAt f at_ = none) ∧
      (B.st ≠ .harrow → B.st ≠ .retired → s.eccAt f at_ = some .uncorr → t.eccAt f at_ = some .uncorr) ∧
      (∀ x, (∀ k : Fin 32, wordOf (k.val * 131072 + 16 * F.gleanPos) ≠ wordOf x) → t.eccAt f x = s.eccAt f x)) ∧
    (B.gleanQ = w :: l → w < 262144 → mapSorted F.ecc → s.fieldGone f = false → B.st ≠ .harrow → B.st ≠ .retired → ∃ t, exec (.gleanerRewrite f b) s = .next t ∧
      t.fields[f].banks[b] = { B with gleanQ := l } ∧ t.plot = s.plot ∧
      t.eccAt f (16 * w) = (if s.eccAt f (16 * w) = some .corr then none else s.eccAt f (16 * w))) ∧
    (s.supAlive = true → s.engines[g].st ≠ .retired → s.fieldGone (fieldOf g) = false → mapFind a.toNat s.engines[g].csErr = some .corr →
      ∃ t, exec (.controlStoreRewrite g a) s = .next t ∧
        t.engines[g] = { s.engines[g] with csErr := mapPut a.toNat none s.engines[g].csErr } ∧
        (∀ k : Fin 96, k ≠ g → t.engines[k] = s.engines[k]) ∧ t = { s with engines := t.engines }) ∧
    (s.preservingOn f b = some (mb, c) → B.st = .free ∨ B.st = .owned → s.bankPinned f b = false → B.failsIn c.num l = [] →
      (c.num + 1 < 128 → ∃ t, exec (.harrowStripeLease f b l) s = .next t ∧ t.plot = s.plot ∧ t.fields[f].banks[b].st = B.st ∧
        ∃ d ∈ t.mailboxes[mb].active, d.k = c.k ∧ d.num = c.num + 1 ∧ d.bad = c.bad) ∧
      (c.num = 127 → ∃ t r, exec (.harrowStripeLease f b l) s = .next t ∧
        t.plot = s.plot ∧ t.mailboxes[mb].records = s.mailboxes[mb].records ++ [r] ∧ r.status = 0 ∧ r.index = c.k ∧
        (c.bad = 0 → r.r0 = 0 ∧ r.r1 = 0xFFFFFFFF) ∧ (c.bad ≠ 0 → r.r0 = 1 ∧ r.r1 = nw (c.bad - 1)))) ∧
    (∃ t, exec .hardwareReaderScrub s = .next t ∧ t.plot = s.plot ∧
      (s.fieldGone f = false → F.sowerErr = some .corr → t.fields[f].sowerErr = none ∧ t.fields[f].stallSower = F.stallSower) ∧
      (s.fieldGone f = false → F.sowerErr ≠ none → F.sowerErr ≠ some .corr → t.fields[f].stallSower = true) ∧
      (s.engines[g].st = .awake → s.engines[g].resetHeld = false → s.fieldGone (fieldOf g) = false →
        (s.engines[g].dispErr = none → t.engines[g] = s.engines[g]) ∧
        (s.engines[g].dispErr = some .corr → s.supAlive = true → t.engines[g] = { s.engines[g] with dispErr := none }) ∧
        (s.engines[g].dispErr = some .uncorr → t.engines[g].st = .stuck ∧ t.engines[g].retireDue = some 1 ∧ t.engines[g].cur = s.engines[g].cur)))

/-! The Sower (R57, R79-R84, R90-R101, R211, R216, R252, R428) -/

/-- R95-R97, R100, R199, R252, R293: a migration prepares its target, takes the furrow off its engine at a boundary, reads its context, moves its banks
or copies its Plot (to another Field through mover and bridge), and resumes it on the target with its context; before the transfer an attempt may be
given up, and the furrow runs on. -/
def Obligations.Migrations : Prop :=
  ∀ (s : State) (fid : Nat) (m : Migration) (F : Furrow) (a : Alloc) (w : Word) (f : Fin 4) (b : Fin 32) (e d : Extent) (o : OwnJob),
    s.mig? fid = some m → s.furrow? fid = some F →
    let src := s.engines[m.src]
    let moves (t : State) (n : Migration) : Prop := t.mig? fid = some n
    let alone (t : State) : Prop := t = { s with sower := t.sower }
    let across : Prop := F.handsOver m.dst = false ∧ F.home ≠ some (fieldOf m.dst)
    let back (t : State) : Prop := ∃ G, t.mig? fid = none ∧ t.furrow? fid = some G ∧ G.st = m.was ∧ G.ctx = F.ctx ∧ fid ∈ t.engines[m.src].order
    (m.st = .prepare → s.fields[fieldOf m.src].stallSower = false → s.fields[fieldOf m.dst].stallSower = false → s.moveWaits m = false →
      src.st ≠ .halted → m.extents = [] → s.targetOk m.dst = true → s.slotFor F m.dst = true → s.sameMicrocode F (fieldOf m.dst) = true →
      s.migAlloc F m.dst = some a → ∃ t, exec (.migrationPrepare fid) s = .next t ∧
        moves t { m with st := .quiesce, extents := if F.handsOver m.dst then [] else a.extents } ∧
        t.engines[m.dst].st = .awake ∧ t.furrows = s.furrows) ∧
    (m.st = .quiesce → src.st ≠ .halted → (src.cur = some fid → s.quiesceable m.src = true) → mapFind 0xC0 src.csErr = none →
      ∃ t G, exec (.migrationQuiesce fid) s = .next t ∧ moves t { m with st := .capture } ∧ t.furrow? fid = some G ∧ G.st = .moving ∧
        G.ctx.pc = F.ctx.pc ∧ G.ctx.a = F.ctx.a ∧ G.extents = F.extents ∧ fid ∉ t.engines[m.src].order ∧ t.engines[m.src].cur ≠ some fid) ∧
    (m.st = .quiesce → src.st ≠ .halted → src.cur = some fid → s.quiesceable m.src = false → exec (.migrationQuiesce fid) s = .next s) ∧
    (m.st = .quiesce → m.aborts < 2 → ∃ t, exec (.migrationQuiesceAbort fid) s = .next t ∧
      moves t { m with st := .prepare, aborts := m.aborts + 1 } ∧ t.furrow? fid = some { F with st := m.was } ∧ t.engines = s.engines) ∧
    (m.st = .quiesce → 2 ≤ m.aborts → m.why ≠ forRetire → ∃ t, exec (.migrationQuiesceAbort fid) s = .next t ∧
      t.mig? fid = none ∧ t.furrow? fid = some { F with st := m.was } ∧ t.plot = s.plot) ∧
    (m.st = .capture → s.storesOut fid = false → F.ctxLost = false → mapFind 0xC0 src.csErr = none →
      ∃ t, exec (.migrationCapture fid) s = .next t ∧ moves t { m with st := .repoint } ∧ t.furrow? fid = some { F with ctxErr := none } ∧
        t.engines = s.engines ∧ t.plot = s.plot) ∧
    (m.st = .repoint → ∃ t, exec (.migrationRepoint fid) s = .next t ∧ moves t { m with st := .transfer } ∧
      (fieldOf m.dst = fieldOf m.src → alone t)) ∧
    (m.st = .transfer → s.targetOk m.dst = true →
      (F.handsOver m.dst = true → ∃ t, exec (.migrationTransfer fid false) s = .next t ∧
        moves t { m with st := .resume, handed := true } ∧ t.furrow? fid = some F ∧ t.engines = s.engines ∧ t.plot = s.plot) ∧
      (F.handsOver m.dst = false → F.home = some (fieldOf m.dst) → ∃ t, exec (.migrationTransfer fid false) s = .next t ∧
        moves t { m with st := .resume, extents := F.extents, swapped := true } ∧ t.furrow? fid = some { F with extents := m.extents } ∧
        t.engines = s.engines ∧
        (F.extents = [e] → m.extents = [d] → d.base + e.len ≤ 4194304 → mapSorted s.plot →
          ∀ j, j < e.len → t.plotByte (fieldOf m.dst) (d.base + j) = s.plotByte (fieldOf m.dst) (e.base + j))) ∧
      (across → s.copyOf m = none → ∃ t, exec (.migrationTransfer fid false) s = .next t ∧ t = { s with fields := t.fields } ∧
        (∀ h : Fin 4, h ≠ fieldOf m.src → t.fields[h] = s.fields[h]) ∧ ∃ q,
          t.fields[fieldOf m.src].ports.own = s.fields[fieldOf m.src].ports.own ++ [q] ∧ q.copy = false ∧ q.fid = fid ∧ q.dst = fieldOf m.dst ∧
            q.len = (F.extents.map Extent.len).sum ∧ q.moved = 0 ∧ q.cut = false) ∧
      (across → s.copyOf m = some o → o.cut = false →
        (o.len ≤ o.moved → ∃ t, exec (.migrationTransfer fid false) s = .next t ∧ moves t { m with st := .resume } ∧ alone t) ∧
        (o.moved < o.len → exec (.migrationTransfer fid false) s = .next s)) ∧
      (across → s.copyOf m = some o → o.cut = true → m.why ≠ forRetire → F.st = .moving →
        ∃ t, exec (.migrationTransfer fid false) s = .next t ∧ back t)) ∧
    (m.st = .transfer → m.why ≠ forRetire → F.st = .moving → ∃ t, exec (.migrationTransfer fid true) s = .next t ∧ back t) ∧
    (m.st = .resume → s.handingOver F = false → s.targetOk m.dst = true → m.arrived = [] → s.sower.resetAfter = [] →
      (s.sealed = true → (s.planned s.sower.activePlan fid).map Prod.fst = some m.dst) →
      ∃ t G, exec (.migrationResume fid w) s = .next t ∧ t.mig? fid = none ∧ t.furrow? fid = some G ∧ G.st = m.was ∧ G.engine = some m.dst ∧
        G.home = some (fieldOf m.dst) ∧ G.ctx = F.ctx ∧ G.migrations = F.migrations + 1 ∧ G.desc = F.desc ∧
        G.extents = (if m.swapped = true ∨ m.extents = [] then F.extents else m.extents) ∧ fid ∈ t.engines[m.dst].order ∧
        t.engines[m.dst].st = .awake) ∧
    (s.fields[f].banks[b].st = .handover → ∃ t, exec (.bankHandoverCompletion f b) s = .next t ∧
      ((∀ g : Fin 96, fieldOf g = f → ∀ v, s.engines[g].phase ≠ .stalled v) →
        t.fields[f].banks[b] = { s.fields[f].banks[b] with st := .owned, owner := s.fields[f].banks[b].target, target := 0 } ∧
        (∀ k : Fin 32, k ≠ b → t.fields[f].banks[k] = s.fields[f].banks[k]) ∧ t.plot = s.plot ∧ t.furrows = s.furrows))

/-- R81-R84, R90-R93, R99-R101, R211, R428: load windows, the rebalance of an overloaded engine, Doze, a plan's transition, a retirement, a cold
restart at ENTRY, the rewrite of a Sower table, the end of a run of escalations. -/
def Obligations.SowerActs : Prop :=
  ∀ (s : State) (g h : Fin 96) (used : List (Nat × Nat)) (f : Fin 4) (F : Furrow) (kind : BitVec 8) (q : Nat) (events : List (BitVec 8 × Fin 4))
    (code : Fin 8) (a : Alloc) (only : Option Word) (breach : Bool) (how n : Nat) (tm : DWord) (l : List Byte),
    let cycles (fid : Nat) : Nat := ((used.filter fun u => u.1 == fid).map Prod.snd).sum
    let u := s.noteLight f
    s.furrow? F.id = some F →
    (∃ t, exec (.loadMonitorWindow g used) s = .next t ∧
      t.engines[g].load = min 1000 (((s.residents g).map fun R => cycles R.id).sum * 1000 / s.rateOf (fieldOf g)) ∧
      t.engines[g].overWins = (if t.target * t.rateOf (fieldOf g) < t.loadOn g then s.engines[g].overWins + 1 else 0) ∧
      ((s.furrows.map Furrow.id).Nodup → F.engine = some g → t.furrow? F.id = some { F with loads := (cycles F.id :: F.loads).take 16 }) ∧
      (∀ k : Fin 96, k ≠ g → t.engines[k] = s.engines[k]) ∧ t.plot = s.plot) ∧
    (s.sealed = false → s.sowerActs f = true → s.fields[f].st = .inService → u.overloaded f = [g] → u.lightFirst g = [F] →
      u.target * u.rateOf (fieldOf g) < u.loadLeft g → u.choose F (mayRebalance F) = some (h, false) → F.engine = some g →
        ∃ t m, exec (.rebalance f) s = .next t ∧ m ∈ t.sower.migs ∧ m.fid = F.id ∧ m.src = g ∧ m.dst = h ∧ m.st = .prepare ∧
          m.why = forBalance ∧ t.furrows = s.furrows) ∧
    (s.engines[g].st = .awake → s.residents g = [] → s.isTarget g = false →
      s.sealed = true ∨ s.sower.packing = true ∨ s.fields[fieldOf g].st ≠ .inService →
      s.sup.passThrough = false → ∃ t, exec (.dozeEntry g) s = .next t ∧ t.engines[g].st = .doze ∧ t.engines[g].lastLoaded = none ∧
        (∀ k : Fin 96, k ≠ g → t.engines[k] = s.engines[k]) ∧ t.furrows = s.furrows ∧ t.plot = s.plot) ∧
    (s.sower.events = (kind, f) :: events → s.sealed = true → s.transiting = false →
      (∀ k : Fin 4, s.fields[k].stallSower = false) →
      (s.transitionFor kind.toNat f.val = none →
        exec (.planTransition kind f) s = .next { s with sower := { s.sower with events := events } }) ∧
      (s.transitionFor kind.toNat f.val = some q → ∃ t, exec (.planTransition kind f) s = .next t ∧
        t.sower.activePlan = q ∧ t.sower.transitions = s.sower.transitions + 1)) ∧
    (s.engines[g].retireDue = some code → s.engines[g].st ≠ .retired → s.sowerActs (fieldOf g) = true → s.residents g = [] →
      ∃ t, exec (.engineRetirement g code) s = .next t ∧ t.engines[g].st = .retired ∧ t.engines[g].retireDue = none ∧
        g ∈ t.seed.retiredEngines ∧ t.furrows = s.furrows ∧ (s.fields[fieldOf g].st ≠ .draining → t.plot = s.plot)) ∧
    (s.sower.restarts.find? (fun r => r.1 == F.id) = some (F.id, how) → F.st = .unplaced → s.supAlive = true →
      s.restartChoice F how = some (some (g, only, breach)) → s.allocFor g F only = some a →
      (F.home = some (fieldOf g) ∧ F.extents ≠ [] ∨ s.codeWaits F = false ∧ crc32cOf (bytesAt l 0 F.desc.codeLen) = F.desc.codeCrc) →
        ∃ t G, exec (.coldRestart F.id (.ok l)) s = .next t ∧ t.furrow? F.id = some G ∧ G.st = .running ∧ G.engine = some g ∧
          G.home = some (fieldOf g) ∧ G.extents = a.extents ∧ G.ctx.pc = nw F.desc.entry ∧ G.ctx.psw = 0x00068700#32 ∧
          G.restarts = F.restarts + 1 ∧ F.id ∈ t.engines[g].order ∧ t.sower.restarts = s.sower.restarts.filter (fun r => r.1 ≠ F.id)) ∧
    (s.sower.restarts.find? (fun r => r.1 == F.id) = some (F.id, how) → F.st = .unplaced → s.supAlive = true →
      s.restartChoice F how = some none → ∃ t, exec (.coldRestart F.id (.ok l)) s = .next t ∧
        t.furrow? F.id = some { F with st := .failed } ∧ t.sower.restarts = s.sower.restarts.filter (fun r => r.1 ≠ F.id)) ∧
    (s.supAlive = true → s.fields[f].stallSower = true → ∃ t, exec (.sowerTableRewrite f) s = .next t ∧
      t.fields[f] = { s.fields[f] with sowerErr := none, stallSower := false } ∧ (∀ k : Fin 4, k ≠ f → t.fields[k] = s.fields[k]) ∧
      t = { s with fields := t.fields }) ∧
    (F.run = some (n, some tm) → 1000000000 ≤ s.since tm → ∃ t, exec (.escalationRunEnd F.id) s = .next t ∧
      t.furrow? F.id = some { F with run := none } ∧ (∀ id, id ≠ F.id → t.furrow? id = s.furrow? id) ∧ t = { s with furrows := t.furrows })

/-! Lines, walks, Tally and trace (R99, R335-R352, R464-R473, R488) -/

/-- R331, R335, R340-R352: a cycle, with the drills of R331 running, judges each line and posts its change and the rack alarm level; the supervisor takes posts in order; STALE and DISAGREE set at their times; a walk
goes through its steps, yields to programme, resumes after 60 s of quiet and ends, and the time limit defers what is left. -/
def Obligations.LineSupervision : Prop :=
  ∀ (s : State) (f : Fin 4) (g : Fin 96) (obs : CycleObs) (dwells : List (List EndObs)) (F : Furrow) (x : LineSt) (z : ZoneSt) (b : List Byte) (v : Word) (p : List Word)
    (l : List (List Word)) (zone line fid : Nat) (mb : Fin 16) (k : BitVec 16) (c : ActiveCmd) (rest : List ActiveCmd) (w : Walk),
    let P := lineCfg b x.line
    let judged := x.cycle P (stepLevel 0) (fun e => decide (e ∈ (s.nextSel f).fields[f].sels)) obs.ends
    let fitted := if 4930000000 ≤ s.since x.posted then { judged with owed := true } else judged
    let posts := s.fields[f].posts ++
      (if s.rackSampled f = true ∧ s.fields[f].rackPosted ≠ some obs.rack ∧ s.fields[f].posts.length < 64 then
        [[0xFFF, if obs.rack then 1 else 0, 0, 0, nw F.id]] else [])
    let quiet (h : Fin 4) : Prop := ∀ k : Fin 96, fieldOf k = h → ∀ u, s.engines[k].phase ≠ .stalled u
    let drives (t : State) (step : Nat) : Prop := t.sup.judged = updWhere (fun y => y.zone == zone) (fun y => y.walkDrive step) s.sup.judged
    (s.supervisor? f = some F → s.drlRuns f = true → s.linkRuns f = true → s.sup.judged = [x] → x.field = f → s.zoneRec f x.zone = some b →
      s.inWalkStep x.zone = false → (s.zone? x.zone).any ZoneSt.walking = false → ∃ t, exec (.supervisionCycle f obs) s = .next t ∧
        t.plot = s.plot ∧ t.furrows = s.furrows ∧
        (fitted.owed = true → posts.length < 64 → t.sup.judged = [{ fitted with owed := false, posted := s.now }] ∧
          t.fields[f].posts = posts ++ [fitted.post false F.id]) ∧
        (fitted.owed = false ∨ 64 ≤ posts.length → t.sup.judged = [fitted] ∧ t.fields[f].posts = posts)) ∧
    (s.supervisor? f = none ∨ s.drlRuns f = false ∨ s.linkRuns f = false → exec (.supervisionCycle f obs) s = .next s) ∧
    (s.engines[g].cur = some fid → s.postRoom (fieldOf g) = true → ∃ t, exec (.linePost3 g v) s = .next t ∧
      t.fields[fieldOf g] = { s.fields[fieldOf g] with
        posts := s.fields[fieldOf g].posts ++ [s.engines[g].linePost.toList ++ [v, nw fid]] } ∧
      (∀ h : Fin 4, h ≠ fieldOf g → t.fields[h] = s.fields[h]) ∧ t = { s with fields := t.fields }) ∧
    (s.fields[f].posts = p :: l → s.supAlive = true →
      let zn := fieldN (p.getD 0 0) 0 12
      ∃ t, exec (.linePostReceive f) s = .next t ∧ (quiet f → zn ≠ 0xFFF → s.zoneRec f zn = some b →
        (∃ more, t.fields[f].posts = l ++ more) ∧ t.plot = s.plot ∧ t.post? zn (fieldN (p.getD 0 0) 12 3) f =
          some { zone := zn, line := fieldN (p.getD 0 0) 12 3, field := f, words := p.take 4, time := s.now })) ∧
    (s.zone? zone = some z → s.supAlive = true →
      (s.isStale zone = true → 20000000000 ≤ s.since z.since → ∃ t y, exec (.lineStaleTimeout zone) s = .next t ∧ t.zone? zone = some y ∧ y.zfaults.getLsbD 8 = true ∧
        y.walking = z.walking ∧ t.plot = s.plot) ∧
      (∀ d ∈ z.differ, d.1 = line → 30000000000 ≤ s.since d.2 → ∃ t y, exec (.lineDisagreeTimeout zone line) s = .next t ∧
        t.zone? zone = some y ∧ y.zfaults.getLsbD 9 = true ∧ y.zfaults.getLsbD 8 = z.zfaults.getLsbD 8 ∧ t.plot = s.plot)) ∧
    (s.zone? zone = some z → z.walking = true → s.zoneServed zone = true →
      (z.yielded = false → z.step < 4 → s.hasLoop zone = true →
        (s.stepFails zone z.step dwells = none → ∃ t, exec (.walkStep zone dwells) s = .next t ∧
          t.zone? zone = some { z with step := z.step + 1 } ∧ drives t (z.step + 1) ∧ t.fields = s.fields) ∧
        (s.stepFails zone z.step dwells ≠ none → ∃ t y, exec (.walkStep zone dwells) s = .next t ∧ t.zone? zone = some y ∧
          y.failed = true ∧ y.missed = true ∧ y.walking = true ∧ y.step = z.step + 1)) ∧
      ((∀ u ∈ s.sup.walks, zone ∉ u.now) →
        (z.yielded = false → 4 ≤ z.step ∨ s.hasLoop zone = false → ∃ t y, exec (.walkStep zone dwells) s = .next t ∧ t.zone? zone = some y ∧
          y.walking = false ∧ y.step = 0 ∧ y.deferred = false ∧ y.walked = s.now ∧
          y.failed = (z.missed || (s.stepFails zone z.step dwells).isSome)) ∧
        (z.yielded = false → 2 ≤ z.yields → ∃ t y, exec (.walkYield zone) s = .next t ∧ t.zone? zone = some y ∧
          y.walking = false ∧ y.deferred = true ∧ y.zfaults.getLsbD 11 = true)) ∧
      (z.yielded = false → z.yields < 2 → ∃ t, exec (.walkYield zone) s = .next t ∧
        t.zone? zone = some { z with yields := z.yields + 1, yielded := true, yieldAt := s.now, step := 0 } ∧
        t.sup.judged = updWhere (fun y => y.zone == zone) LineSt.normalDrive s.sup.judged ∧ t.fields = s.fields) ∧
      (z.yielded = true → 60000000000 ≤ s.since z.yieldAt → ∃ t, exec (.walkRewalk zone) s = .next t ∧
        t.zone? zone = some { z with yielded := false, missed := false, step := 1 } ∧ drives t 1 ∧ t.fields = s.fields)) ∧
    (Runs s mb k 0x0604 c rest → s.walk? mb k = some w → w.begun = true → 14400000000000 ≤ s.since c.since →
      ∃ t, exec (.fieldWalkTimeout mb k) s = .next t ∧ t.walk? mb k = none ∧ t.plot = s.plot ∧
        t.mailboxes[mb].records = s.mailboxes[mb].records ++ [cplOf c.tag 0 k c.opcode [nw w.done, nw w.faults] none] ∧
        ∀ n ∈ w.now ++ w.todo, ∀ y, t.zone? n = some y → y.deferred = true ∧ y.walking = false)

/-- R99, R464, R469-R473, R488: a dump takes the snapshots of the selected groups with consecutive numbers and then the samples; a bandwidth window
takes the bytes that its port has moved (log 78, the model's choice), and a sample is kept; low slack twice in a row asks for retirement; the trace port sends whole packets, or drops them without its supply. -/
def Obligations.TallyAndTrace : Prop :=
  ∀ (s : State) (f : Fin 4) (g : Fin 96) (p : Fin 6) (pc : Word) (n i : Nat),
    let cfg := s.dbg.tallyCfg
    let P := s.fields[f].ports
    let E := s.engines[g]
    let ev := tallyEvent cfg
    (cfg ≠ [] → ∃ t, exec .tallyDump s = .next t ∧ t.dbg.samples = [] ∧ t.tally = s.tally ∧ t.plot = s.plot ∧
      t.dbg.tallySeq = (if tallyPeriod cfg = 0 then s.dbg.tallySeq else s.dbg.tallySeq + nw (tallyGroups cfg).length) ∧
      (s.fabRuns = false → tallyPeriod cfg ≠ 0 → t.dbg.dumpOut = s.dbg.dumpOut ++
        ((tallyGroups cfg).mapIdx fun j k => s.snapshot k (s.dbg.tallySeq + nw j)).flatten ++ s.dbg.samples.flatten)) ∧
    (s.fields[f].freezeWin = false →
      let width := 1000 * (if le16 cfg 20 = 0 then 100 else (le16 cfg 20).toNat)
      let last := ((s.portTotals f)[p] - P.winBase[p]).toNat
      (tbNs P.winAt[p] / width < tbNs s.now / width → ∃ t, exec (.bandwidthWindow f p) s = .next t ∧
        t.fields[f].ports = { P with
          lastWindow := P.lastWindow.set p last, peakWindow := P.peakWindow.set p (max P.peakWindow[p] last)
          winBase := P.winBase.set p (s.portTotals f)[p], winAt := P.winAt.set p s.now } ∧
        (∀ h : Fin 4, h ≠ f → t.fields[h] = s.fields[h]) ∧ t = { s with fields := t.fields }) ∧
      (tbNs s.now / width ≤ tbNs P.winAt[p] / width → exec (.bandwidthWindow f p) s = .next s)) ∧
    (cfg ≠ [] → ev ≠ 0 → (tallyFields cfg).getLsbD (fieldOf g).val = true → s.dbg.samples.length < 64 → mapSorted s.tally →
      ∃ t, exec (.tallySample g pc n) s = .next t ∧
        t.dbg.samples = s.dbg.samples ++ [sampleRecord g ev (s.onEngine g) n pc s.now] ∧ t.tallyGet 7 2 = s.tallyGet 7 2 + 1 ∧
        t.furrows = s.furrows ∧ t.plot = s.plot) ∧
    (s.supAlive = true → E.st = .awake → s.agingDue E = true → ∃ t, exec (.agingMeasurement g n) s = .next t ∧
      t.engines[g] = { E with
        lastSlack := n, slackLow := if n < 2 then E.slackLow + 1 else 0, agedAt := some s.now
        retireDue := if E.retireDue = none ∧ n < 2 ∧ 1 ≤ E.slackLow then some 6 else E.retireDue } ∧
      (∀ h : Fin 96, h ≠ g → t.engines[h] = s.engines[h]) ∧ t = { s with engines := t.engines }) ∧
    (s.dbg.trcPkt ≠ 0 → ∃ t, exec .tracePortTransfer s = .next t ∧ t.dbg.trcOut = (s.traceOf s.dbg.trcRr).head? ∧
      t.traceOf s.dbg.trcRr = (s.traceOf s.dbg.trcRr).drop 1 ∧ t.dbg.trcPkt = s.dbg.trcPkt - 1 ∧ t.dbg.trcRr = s.dbg.trcRr) ∧
    (s.dbg.trcPkt = 0 → s.nextTrace = some i → ∃ t, exec .tracePortTransfer s = .next t ∧ t.dbg.trcRr = i ∧
      (∀ j, j < 97 → j ≠ i → t.traceOf j = s.traceOf j) ∧
      (s.pins.trcPwr = true → t.dbg.trcOut = (s.traceOf i).head? ∧ t.traceOf i = (s.traceOf i).drop 1 ∧
        t.dbg.trcPkt = packetLen (s.traceOf i) - 1) ∧
      (s.pins.trcPwr = false → t.traceOf i = (s.traceOf i).drop (packetLen (s.traceOf i)) ∧ t.dbg.trcPkt = 0 ∧
        t.dbg.trcLostPwr = (if s.dbg.trcLostPwr = 0xFFFF then s.dbg.trcLostPwr else s.dbg.trcLostPwr + 1)))

/-! The debug port and the events of an engine (R18, R66, R79, R116, R130, R179, R192-R212, R238, R374, R437, R447-R463) -/

/-- R28, R66, R129, R199, R374, R437, R453-R463: HALT stops an engine at a boundary or waits for one, RUN releases it, STEP lets one word go; a halted engine's registers
are written; the memory master reads and writes Plot; a key is provisioned once; freezes and units take their new values;
the nonce expires 60 s after its issue. With DBG_CLK at fault an access does nothing and gets no value (log 73, the model's choice). -/
def Obligations.DebugPort : Prop :=
  ∀ (s : State) (g : Fin 96) (F : Furrow) (v : Word) (c : Ctx) (h : Sheaf) (f : Fin 4) (u : Fin 8)
    (n : List Byte) (tm : DWord),
    let E := s.engines[g]
    let mine : Prop := s.mayControl (.engine g) = true ∧ E.st ≠ .stuck ∧ E.st ≠ .retired
    let S := s.sup.ctl
    let d := s.dbg
    let a := d.dmmPlot
    let key := bytesOf d.provData.toList
    let open_ : Prop := d.dmmSpace = 0 ∧ d.dmmField = f ∧ s.dmmClosed f (bankOf a) = false
    let next : Word := if d.dmmCtl.getLsbD 20 then d.dmmAddr + 16 else d.dmmAddr
    (s.pins.clkFault.getLsbD 9 = false →
      (mine → E.st = .awake → E.ctl.stepping = false → E.resetHeld = false →
        (E.cur = none → ∃ t, exec (.halt (.engine g)) s = .next t ∧ t.engines[g].st = .halted ∧ t.engines[g].ctl.cause = 1#5 ∧
          t.engines[g].ctl.pend = false ∧ t.engines[g].ctl.err = false ∧ t.engines[g].hold = none ∧ t.plot = s.plot) ∧
        (E.cur ≠ none → E.phase ≠ .ready → ∃ t, exec (.halt (.engine g)) s = .next t ∧
          t.engines[g] = { E with ctl := { E.ctl with err := false, pend := true, cause := 1 } } ∧
          (∀ k : Fin 96, k ≠ g → t.engines[k] = s.engines[k]) ∧ t = { s with engines := t.engines })) ∧
      (mine → E.st = .halted → ∃ t, exec (.run (.engine g)) s = .next t ∧ t.engines[g].st = .awake ∧
        t.engines[g].ctl = { E.ctl with err := false, pend := false, cause := 0, stepping := false, skipBreak := true } ∧
        t.engines[g].cur = E.cur ∧ t.furrows = s.furrows ∧ t.plot = s.plot) ∧
      (mine → E.st = .awake ∨ E.st = .doze ∨ E.st = .halted → ∃ t, exec (.step (.engine g)) s = .next t ∧ t.engines[g].st = .awake ∧
        t.engines[g].ctl.stepping = true ∧ t.engines[g].ctl.err = false ∧ t.engines[g].cur = E.cur ∧ t.furrows = s.furrows) ∧
      (s.mayControl .sup = true → s.sup.running = true →
        (s.sup.halted = false → ∃ t, exec (.halt .sup) s = .next t ∧ t.sup.halted = true ∧ t.sup.ctl.cause = 1#5 ∧ t.engines = s.engines) ∧
        (s.sup.halted = true → ∃ t, exec (.run .sup) s = .next t ∧ t.sup.halted = false ∧ t.engines = s.engines ∧
          t.sup.ctl = { S with err := false, pend := false, cause := 0, stepping := false }) ∧
        ∃ t, exec (.step .sup) s = .next t ∧ t.sup.halted = true ∧ t.sup.ctl.cause = 2#5 ∧ t.engines = s.engines) ∧
      (s.mayControl (.engine g) = true → E.st = .halted → E.cur = some F.id → s.furrow? F.id = some F → E.ctl.rsel.toNat ≠ 0xF0 →
        writeSelected F E.sheaf E.ctl.rsel.toNat v = some (c, h) → ∃ t, exec (.ercRdataWrite (.engine g) v) s = .next t ∧
          t.furrow? F.id = some { F with ctx := c } ∧ t.engines[g] = { E with sheaf := h, ctl := { E.ctl with err := false } } ∧
          (∀ k : Fin 96, k ≠ g → t.engines[k] = s.engines[k]) ∧ t.plot = s.plot) ∧
      (open_ → s.portBHeld f a 16 = false → s.debugRead.getLsbD f.val = true → ∃ t, exec .dmmRead s = .next t ∧ t.plot = s.plot ∧
        (∀ i : Fin 4, t.dbg.dmmData[i.val] = s.plotWord f (a + 4 * i.val)) ∧ t.dbg.dmmRefused = false ∧
        t.dbg.dmmCorr = (s.eccAt f a == some .corr) ∧ t.dbg.dmmUncorr = (s.eccAt f a == some .uncorr || s.eccAt f a == some .poison) ∧
        t.dbg.dmmAddr = next) ∧
      (open_ → s.portBHeld f a 16 = false → s.debugWrite.getLsbD f.val = true → s.fields[f].banks[bankOf a].st ≠ .harrow → d.dmmMask = 0xFFFF#16 → mapSorted s.plot →
        ∃ t, exec .dmmWrite s = .next t ∧ (∀ i : Fin 4, t.plotWord f (a + 4 * i.val) = d.dmmData[i.val]) ∧
          (∀ k b, (∀ j, j < 16 → plotKey k b ≠ plotKey f (a + j)) → t.plotByte k b = s.plotByte k b) ∧
          t.dbg.dmmRefused = false ∧ t.dbg.dmmAddr = next ∧ t.furrows = s.furrows) ∧
      (v = 0x00005EED → s.sealed = false → s.dbgAuth = false → s.sup.firstCommit = false → Config.validPoint key = true →
        (d.provSel.getLsbD 0 = false → s.seed.custKey = none → ∃ t, exec (.provCmd v) s = .next t ∧ t.seed.custKey = some key ∧
          t.seed.dbgKey = s.seed.dbgKey ∧ t.dbg = { d with provErr := false }) ∧
        (d.provSel.getLsbD 0 = true → s.seed.dbgKey = none → ∃ t, exec (.provCmd v) s = .next t ∧ t.seed.dbgKey = some key ∧
          t.seed.custKey = s.seed.custKey ∧ t.dbg = { d with provErr := false }) ∧
        (d.provSel.getLsbD 0 = false → s.seed.custKey ≠ none →
          exec (.provCmd v) s = .next { s with dbg := { d with provErr := true } })) ∧
      ((v ^^^ d.freeze) &&& 0x1FFF#32 &&& ~~~freezeScope s.debugWrite = 0 → ∃ t, exec (.dbgFreezeWrite v) s = .next t ∧
        t.dbg = { d with freeze := v &&& 0x1FFF#32 } ∧ t.almanac.wds.freeze = v.getLsbD 4 ∧
        t.almanac.wdf[f].freeze = v.getLsbD (5 + f.val) ∧ t.engines = s.engines ∧ t.plot = s.plot) ∧
      (∃ t, exec (.bwCtlWrite f u v) s = .next t ∧ t = { s with fields := t.fields } ∧
        t.fields[f].units[u] = { s.fields[f].units[u] with ctl := v &&& 0x00FFFFFF#32, armed := false } ∧
        (∀ k : Fin 8, k ≠ u → t.fields[f].units[k] = s.fields[f].units[k]) ∧ ∀ k : Fin 4, k ≠ f → t.fields[k] = s.fields[k])) ∧
    (s.pins.clkFault.getLsbD 9 = true → ∀ i ∈ [Instr.halt (.engine g), .run (.engine g), .step (.engine g), .halt .sup, .run .sup, .step .sup,
        .ercRdataWrite (.engine g) v, .dmmRead, .dmmWrite, .provCmd v, .dbgFreezeWrite v, .bwCtlWrite f u v],
      exec i s = .next { s with host := { s.host with resp := none } }) ∧
    (s.dbg.nonce = some (n, tm) →
      (60000000000 ≤ s.since tm → exec .debugNonceExpiry s = .next { s with dbg := { d with nonce := none } }) ∧
      (s.since tm < 60000000000 → exec .debugNonceExpiry s = .next s))

/-- R193-R203: the entry of an event on the present stack pushes the twelve words of its frame below SP rounded down, with the
handler's privilege (log 44, the model's choice), and starts the handler of its
descriptor with PRIV, ML and CSEL from it, no load pending and PROG clear; every other byte of Plot stands. -/
def Obligations.ExceptionEntered : Prop :=
  ∀ (s : State) (g : Fin 96) (F : Furrow) (ev : Event) (a : Nat),
    let E := s.engines[g]
    let c := F.ctx
    let e := ev.fault
    let n := e.vector.toNat
    let w (i : Nat) : Word := s.descWord g F c.excBase n i
    let d : ExcDesc := { handler := w 0, w1 := w 1, w2 := w 2, w3 := w 3 }
    let base := (c.sp &&& 0xFFFFFFF8#32) - 48
    let frame := bytesOf (excFrame e.pc c c.psw e.addr (causeWord e false) c.prog0 c.prog1)
    E.st = .awake → E.cur = some F.id → s.furrow? F.id = some F → F.engine = some g → F.st = .running → E.hold = none → E.mismatch = none →
    E.ctl.stepping = false → mapFind 0x20 E.csErr = none → s.nextEvent g F = some ev → s.tableFault g F c.excBase [n] = none →
    (∀ x, F.extents[fieldN c.excBase 0 4]? = some x → s.eccAt (fieldOf g) (x.base + tableAddr c.excBase n 0) = none) →
    d.invalid n = false → (ev.sync = true → masked (entryLevel c d n) c.psw = false) → targetFault (c.segAt d.cseg) d.priv d.handler = none →
    d.stksw = false → mapSorted s.plot →
    Span s g { F with ctx := { c with psw := insertBits c.psw 15 (if d.priv then 1#1 else 0#1) } } 7 base 48 4 false true a →
      ∃ t G, exec (.exceptionEntry g) s = .next t ∧ t.furrow? F.id = some G ∧ G.ctx.pc = d.handler ∧ pswPriv G.ctx.psw = d.priv ∧
        pswMl G.ctx.psw = d.newml.toNat ∧ pswCsel G.ctx.psw = d.cseg ∧ pswLdp G.ctx.psw = false ∧ G.ctx.sp = base ∧ G.ctx.prog0 = 0 ∧
        G.ctx.prog1 = 0 ∧ G.ctx.a = c.a ∧ G.ctx.x = c.x ∧ G.ctx.y = c.y ∧ G.ctx.p = c.p ∧ G.waitMask = none ∧
        t.engines[g].phase = .entered ∧ t.engines[g].st = .awake ∧ (∀ j, j < 48 → t.plotByte (fieldOf g) (a + j) = frame.getD j 0) ∧
        (∀ f b, (∀ j, j < 48 → plotKey f b ≠ plotKey (fieldOf g) (a + j)) → t.plotByte f b = s.plotByte f b) ∧
        (∀ id, id ≠ F.id → t.furrow? id = s.furrow? id) ∧ (∀ k : Fin 96, k ≠ g → t.engines[k] = s.engines[k])

/-- R79, R116, R130, R179, R208-R212, R238: the headland handler writes a slot and its header and takes the furrow off; a switch brings the next ready
furrow with its Sheaf state; a time slice ends; a hold that is too long breaks; a customer microprogram that runs too long raises vector 14; a
read of the time samples it. -/
def Obligations.EngineEvents : Prop :=
  ∀ (s : State) (g : Fin 96) (F P : Furrow) (x : Escalation) (pc : Word) (b : Fin 32) (a : Nat),
    let E := s.engines[g]
    let f := fieldOf g
    let others (t : State) : Prop := ∀ k : Fin 96, k ≠ g → t.engines[k] = s.engines[k]
    let top := E.hdlSp.toNat
    let n := (s.headlandCount f top).1
    let slot := top - 64 * (n % 63 + 2)
    s.furrow? F.id = some F →
    (E.phase = .escalated x → E.cur = some F.id → F.engine = some g → E.mismatch = none → 4096 ≤ top → s.owns g (top - 64) = true → s.owns g slot = true →
      mapFind 0x40 E.csErr = none → E.ctl.pend = false → E.ctl.stepping = false → mapSorted s.plot → s.mig? F.id = none →
        ∃ t G, exec (.headlandHandler g) s = .next t ∧ t.furrow? F.id = some G ∧ G.engine = none ∧ G.desc = F.desc ∧
          (F.desc.restartable = true → F.run = none → G.st = .unplaced ∧ (F.id, g.val) ∈ t.sower.restarts) ∧
          (F.desc.restartable = false → G.st = .failed) ∧
          (∀ j, j < 64 → t.plotByte f (slot + j) = (headlandSlot F.ctx x F.id g s.now).getD j 0) ∧
          le32 (t.plotBytes f (top - 64) 4) 0 = nw (n + 1) ∧ t.engines[g].cur ≠ some F.id) ∧
    (E.st = .awake → E.cur = none → E.ctl.pend = false → s.pickNext g = some F → F.ctxLost = false → mapFind 0x80 E.csErr = none →
      ∃ t, exec (.furrowSwitch g) s = .next t ∧ t.engines[g].cur = some F.id ∧ t.engines[g].lastLoaded = some F.id ∧
        t.engines[g].sliceUp = false ∧ t.furrow? F.id = some { F with ctxErr := none } ∧ others t ∧ t.plot = s.plot ∧
        (E.lastLoaded ≠ some F.id → t.engines[g].sheaf =
          match F.saveArea with
          | some a => Sheaf.ofImage (s.plotBytes f a 768)
          | none => Sheaf.given)) ∧
    (E.st = .awake → E.cur = some F.id → s.switchable g = true → E.hold = none → s.switchDue g = true → mapFind 0x80 E.csErr = none →
      F.engine = some g → F.saveArea = some a → a + 768 ≤ 4194304 → E.sheaf.dirty = true → mapSorted s.plot →
        ∃ t, exec (.furrowSwitch g) s = .next t ∧ t.plotBytes f a 768 = E.sheaf.image ∧
          ∀ h y, (∀ j, j < 768 → plotKey h y ≠ plotKey f (a + j)) → t.plotByte h y = s.plotByte h y) ∧
    (E.st = .awake → E.cur = some F.id → P ∈ s.readyOn g → P.id ≠ F.id → F.desc.priority ≤ P.desc.priority →
      ∃ t, exec (.timeSliceExpiry g) s = .next t ∧ t.engines[g] = { E with sliceUp := true } ∧ others t ∧ t = { s with engines := t.engines }) ∧
    (E.hold = some b → E.cur = some F.id → ∃ t, exec (.bankHoldTimeout g) s = .next t ∧ t.engines[g] = { E with hold := none } ∧
      t.furrow? F.id = some { F with ctx := { F.ctx with psw := F.ctx.psw ||| 0x20#32 } } ∧ others t ∧
      (∀ id, id ≠ F.id → t.furrow? id = s.furrow? id) ∧ t = { s with engines := t.engines, furrows := t.furrows }) ∧
    (E.phase = .customerOver pc → ∃ t e, exec (.customerWatchdogExpiry g) s = .next t ∧ t.engines[g] = { E with phase := .faulted e } ∧
      e.vector = 14#6 ∧ e.pc = pc ∧ others t ∧ t = { s with engines := t.engines }) ∧
    (E.cur = some F.id → ∃ t, exec (.timeLoRead g) s = .next t ∧
      t.furrow? F.id = some { F with ctx := { F.ctx with timeSample := s.now } } ∧
      (∀ id, id ≠ F.id → t.furrow? id = s.furrow? id) ∧ t = { s with furrows := t.furrows })

/-! The block as a whole -/

/-- A step runs the command at the front of the queue on the state with the queue's rest; on an empty queue the block idles, which is the
model's choice (log 1). -/
def Obligations.StepRunsFront : Prop :=
  (∀ (s : State) (c : Instr) (rest : List Instr), step { s with pending := c :: rest } = exec c { s with pending := rest }) ∧
  (∀ s : State, s.pending = [] → step s = .next s)

/-- The Reset columns of R34, R379, R388, R391, R394, R397 and R400, as the block's window reads them right after power-on, with cold reset in force: every
mailbox, the guard, the seal, the indirect pairs, the interrupt page, every Field Resetting and its window read as 0 (R29), every bank FREE. -/
def Obligations.ResetState : Prop :=
  let r (rid : Rid) (off : Nat) : Word := (State.reset.windowRead rid off).1
  Inv [] State.reset ∧ Memory.wf State.reset ∧ State.reset.sup.released = false ∧
  ∀ rid : Rid,
    r rid 0x000 = 0x01010096 ∧ r rid 0x018 = 0x924 ∧ r rid 0x00C = 0 ∧ r rid 0x01C = 0 ∧ r rid 0x020 = 0 ∧ r rid 0x024 = 0 ∧ r rid 0x028 = 0 ∧
    r rid 0x1004 = 0 ∧ r rid 0x1010 = 0 ∧
    (∀ off, 0x2000 ≤ off → off < 0x2050 → r rid off = 0) ∧ (∀ k < 4, r rid (0x3000 + 0x10 * k) = 0) ∧
    (∀ m < 16, r rid (0x10000 + 0x1000 * m + 0x008) = 0x760 ∧ r rid (0x10000 + 0x1000 * m + 0x030) = 0x101 ∧
      ∀ o ∈ [0x00C, 0x010, 0x014, 0x018, 0x01C, 0x020, 0x024, 0x028, 0x02C], r rid (0x10000 + 0x1000 * m + o) = 0) ∧
    r rid 0x20000 = 0 ∧ r rid 0x20004 = 0x3FF ∧ r rid 0x20010 = 0 ∧ r rid 0x20014 = 0 ∧ (∀ i < 7, r rid (0x20020 + 4 * i) = 0) ∧
    (∀ i < 22, r rid (0x20100 + 0x10 * i) = 1 ∧ r rid (0x20104 + 0x10 * i) = 0 ∧ r rid (0x20108 + 0x10 * i) = 0 ∧
      r rid (0x2010C + 0x10 * i) = 0) ∧
    (∀ off, 0x40000 ≤ off → off < 0x80000 → r rid off = 0) ∧
    (∀ f : Fin 4, ∀ b : Fin 32, State.reset.fields[f].banks[b].ownWord = 0) ∧ (∀ g : Fin 96, State.reset.engStat g = 1) ∧
    (∀ n : Fin 32, ∀ o ∈ [0x04, 0x0C, 0x10, 0x14], timerWord State.reset.almanac.timers n o = 0) ∧
    (∀ n : Fin 32, timerWord State.reset.almanac.timers n 0x08 = 0xFFFFFFFF)

/-- What every command keeps, from every state, reached or not: it answers a next state; the queue loses its front command and nothing else; Plot's
list stays in rising order within four Fields of 4 MiB (R113, R246); the Ledger's ring holds at most 1,024 records (R382), LEDGER_FILL
is at most 1,024 (R378), and no source queue holds more than 4 records (R384). -/
def Obligations.StepKeepsInvariant : Prop :=
  ∀ s : State, Inv s.pending s → ∃ t, step s = .next t ∧ Inv s.pending.tail t

/-- R113, R246, R247, log 8: bytes written to Plot read back, every other byte of Plot reads as before, whatever errors stand in the words, and Plot's list
keeps its canonical form. -/
def Obligations.PlotReadsBack : Prop :=
  ∀ (s : State) (f : Fin 4) (a : Nat) (l : List Byte),
    Memory.wf s →
    Memory.wf (s.plotWrite f a l) ∧
    (a + l.length ≤ 4194304 →
      (s.plotWrite f a l).plotBytes f a l.length = l ∧
      ∀ h k, (∀ j, j < l.length → plotKey h k ≠ plotKey f (a + j)) → (s.plotWrite f a l).plotByte h k = s.plotByte h k)

/-- R28, R42, R380, R398: IRQ_STAT and ERR_STAT as the block reads them in every state (the debug port while DBG_CLK is no fault; log 73): the mailbox conditions, a Field condition while its bytes of FLD_CHG and FLD_ACK differ,
the ALM condition of the host's timers AT00-AT27, the ERR condition while ERR_STAT and ERR_EN have a common bit; each bit of ERR_STAT. -/
def Obligations.InterruptConditions : Prop :=
  ∀ (s : State) (rid : Rid),
    let reads (off : BitVec 20) (w : Word) : Prop :=
      exec (.registerRead rid off 4) s = .next { s with host := { s.host with resp := some w } }
    rid ≠ debugRid ∨ s.pins.clkFault.getLsbD 9 = false →
    ∃ w e chg : Word,
      reads 0x20000 w ∧ reads 0x00020 e ∧ reads 0x20010 chg ∧ reads 0x20014 s.host.fldAck ∧ reads 0x20004 s.host.errEn ∧
      (∀ m : Fin 16,
        let M := s.mailboxes[m]
        w.getLsbD m = (M.irqEn && (decide ((if M.irqCount = 0 then 1 else M.irqCount.toNat) ≤ (M.cplTail - M.cplHead).toNat) ||
          (M.cplTail != M.cplHead && (M.holdoffUp || M.irqHoldoff == 0))))) ∧
      (∀ f : Fin 4, chg.extractLsb' (8 * f) 8 = s.fields[f].chg ∧
        w.getLsbD (16 + f) = (chg.extractLsb' (8 * f) 8 != s.host.fldAck.extractLsb' (8 * f) 8)) ∧
      (w.getLsbD 20 = true ↔ ∃ n : Fin 32, n.val < 28 ∧ s.almanac.timers[n].owner = some none ∧
        ∃ a : Word, reads (BitVec.ofNat 20 (0x20020 + 4 * (n.val / 4))) a ∧ s.almanac.timers[n].evcnt ≠ a.extractLsb' (8 * (n.val % 4)) 8) ∧
      (w.getLsbD 21 = true ↔ e &&& s.host.errEn ≠ 0) ∧ (∀ i : Nat, 22 ≤ i → w.getLsbD i = false) ∧
      (∀ i : Nat, i < 5 → e.getLsbD i = s.host.sealFail.getLsbD i) ∧
      (e.getLsbD 5 = true ↔ reads 0x0001C (s.pins.clkFault.setWidth 32) ∧ s.pins.clkFault ≠ 0) ∧
      (e.getLsbD 6 = true ↔ ∃ g : Fin 96, s.engines[g].st = .stuck) ∧
      e.getLsbD 7 = s.almanac.ahead ∧ (e.getLsbD 8 = true ↔ 768 ≤ s.ledger.fill) ∧
      (e.getLsbD 9 = true ↔ ∃ m : Fin 16, s.mailboxes[m].ringErr = true ∨ s.mailboxes[m].ringFault = true) ∧
      (∀ i : Nat, 10 ≤ i → e.getLsbD i = false)
end

