-- ==== Sys2Proof/Laws/State.lean ====
section
/-! SUPPORT. What each shared update of the state leaves alone and what it writes: one lemma per field per update. -/

namespace Sys2Proof.Machine

/-- Member i of a vector rewritten at i. -/
@[simp] theorem vupd_val {α : Type} {n : Nat} (v : Vector α n) (i : Fin n) (f : α → α) : (vupd v i f)[i.val] = f v[i.val] := by
  simp [vupd]

theorem vupd_same {α : Type} {n : Nat} (v : Vector α n) (i : Fin n) (f : α → α) : (vupd v i f)[i] = f v[i] := by simp

/-- Any other member stays. -/
theorem vupd_other {α : Type} {n : Nat} (v : Vector α n) (i j : Fin n) (f : α → α) (h : i ≠ j) : (vupd v i f)[j] = v[j] := by
  have hv : i.val ≠ j.val := fun e => h (Fin.ext e)
  simp [vupd, hv]

/-- Each member of a vector rewritten by its index. -/
@[simp] theorem vmap_val {α : Type} {n : Nat} (f : Fin n → α → α) (v : Vector α n) (i : Fin n) : (vmap f v)[i.val] = f i v[i] := by
  simp [vmap]

theorem vmap_at {α : Type} {n : Nat} (f : Fin n → α → α) (v : Vector α n) (i : Fin n) : (vmap f v)[i] = f i v[i] := by simp

/-! updField -/

@[simp] theorem State.updField_pending (s : State) (f : Fin 4) (h : Field → Field) : (s.updField f h).pending = s.pending := rfl
@[simp] theorem State.updField_mailboxes (s : State) (f : Fin 4) (h : Field → Field) : (s.updField f h).mailboxes = s.mailboxes := rfl
@[simp] theorem State.updField_host (s : State) (f : Fin 4) (h : Field → Field) : (s.updField f h).host = s.host := rfl
@[simp] theorem State.updField_ledger (s : State) (f : Fin 4) (h : Field → Field) : (s.updField f h).ledger = s.ledger := rfl
@[simp] theorem State.updField_almanac (s : State) (f : Fin 4) (h : Field → Field) : (s.updField f h).almanac = s.almanac := rfl
@[simp] theorem State.updField_fields (s : State) (f : Fin 4) (h : Field → Field) : (s.updField f h).fields = vupd s.fields f h := rfl
@[simp] theorem State.updField_engines (s : State) (f : Fin 4) (h : Field → Field) : (s.updField f h).engines = s.engines := rfl
@[simp] theorem State.updField_furrows (s : State) (f : Fin 4) (h : Field → Field) : (s.updField f h).furrows = s.furrows := rfl
@[simp] theorem State.updField_plot (s : State) (f : Fin 4) (h : Field → Field) : (s.updField f h).plot = s.plot := rfl
@[simp] theorem State.updField_sower (s : State) (f : Fin 4) (h : Field → Field) : (s.updField f h).sower = s.sower := rfl
@[simp] theorem State.updField_sup (s : State) (f : Fin 4) (h : Field → Field) : (s.updField f h).sup = s.sup := rfl
@[simp] theorem State.updField_seed (s : State) (f : Fin 4) (h : Field → Field) : (s.updField f h).seed = s.seed := rfl
@[simp] theorem State.updField_island (s : State) (f : Fin 4) (h : Field → Field) : (s.updField f h).island = s.island := rfl
@[simp] theorem State.updField_reset (s : State) (f : Fin 4) (h : Field → Field) : (s.updField f h).reset? = s.reset? := rfl
@[simp] theorem State.updField_pins (s : State) (f : Fin 4) (h : Field → Field) : (s.updField f h).pins = s.pins := rfl
@[simp] theorem State.updField_dbg (s : State) (f : Fin 4) (h : Field → Field) : (s.updField f h).dbg = s.dbg := rfl
@[simp] theorem State.updField_tally (s : State) (f : Fin 4) (h : Field → Field) : (s.updField f h).tally = s.tally := rfl
@[simp] theorem State.updField_bridgeRr (s : State) (f : Fin 4) (h : Field → Field) : (s.updField f h).bridgeRr = s.bridgeRr := rfl
@[simp] theorem State.updField_freeCtr (s : State) (f : Fin 4) (h : Field → Field) : (s.updField f h).freeCtr = s.freeCtr := rfl

/-! updEngine -/

@[simp] theorem State.updEngine_pending (s : State) (g : Fin 96) (h : Engine → Engine) : (s.updEngine g h).pending = s.pending := rfl
@[simp] theorem State.updEngine_mailboxes (s : State) (g : Fin 96) (h : Engine → Engine) : (s.updEngine g h).mailboxes = s.mailboxes := rfl
@[simp] theorem State.updEngine_host (s : State) (g : Fin 96) (h : Engine → Engine) : (s.updEngine g h).host = s.host := rfl
@[simp] theorem State.updEngine_ledger (s : State) (g : Fin 96) (h : Engine → Engine) : (s.updEngine g h).ledger = s.ledger := rfl
@[simp] theorem State.updEngine_almanac (s : State) (g : Fin 96) (h : Engine → Engine) : (s.updEngine g h).almanac = s.almanac := rfl
@[simp] theorem State.updEngine_fields (s : State) (g : Fin 96) (h : Engine → Engine) : (s.updEngine g h).fields = s.fields := rfl
@[simp] theorem State.updEngine_engines (s : State) (g : Fin 96) (h : Engine → Engine) : (s.updEngine g h).engines = vupd s.engines g h := rfl
@[simp] theorem State.updEngine_furrows (s : State) (g : Fin 96) (h : Engine → Engine) : (s.updEngine g h).furrows = s.furrows := rfl
@[simp] theorem State.updEngine_plot (s : State) (g : Fin 96) (h : Engine → Engine) : (s.updEngine g h).plot = s.plot := rfl
@[simp] theorem State.updEngine_sower (s : State) (g : Fin 96) (h : Engine → Engine) : (s.updEngine g h).sower = s.sower := rfl
@[simp] theorem State.updEngine_sup (s : State) (g : Fin 96) (h : Engine → Engine) : (s.updEngine g h).sup = s.sup := rfl
@[simp] theorem State.updEngine_seed (s : State) (g : Fin 96) (h : Engine → Engine) : (s.updEngine g h).seed = s.seed := rfl
@[simp] theorem State.updEngine_island (s : State) (g : Fin 96) (h : Engine → Engine) : (s.updEngine g h).island = s.island := rfl
@[simp] theorem State.updEngine_reset (s : State) (g : Fin 96) (h : Engine → Engine) : (s.updEngine g h).reset? = s.reset? := rfl
@[simp] theorem State.updEngine_pins (s : State) (g : Fin 96) (h : Engine → Engine) : (s.updEngine g h).pins = s.pins := rfl
@[simp] theorem State.updEngine_dbg (s : State) (g : Fin 96) (h : Engine → Engine) : (s.updEngine g h).dbg = s.dbg := rfl
@[simp] theorem State.updEngine_tally (s : State) (g : Fin 96) (h : Engine → Engine) : (s.updEngine g h).tally = s.tally := rfl
@[simp] theorem State.updEngine_bridgeRr (s : State) (g : Fin 96) (h : Engine → Engine) : (s.updEngine g h).bridgeRr = s.bridgeRr := rfl
@[simp] theorem State.updEngine_freeCtr (s : State) (g : Fin 96) (h : Engine → Engine) : (s.updEngine g h).freeCtr = s.freeCtr := rfl

/-! updMailbox -/

@[simp] theorem State.updMailbox_pending (s : State) (m : Fin 16) (h : Mailbox → Mailbox) : (s.updMailbox m h).pending = s.pending := rfl
@[simp] theorem State.updMailbox_mailboxes (s : State) (m : Fin 16) (h : Mailbox → Mailbox) : (s.updMailbox m h).mailboxes = vupd s.mailboxes m h := rfl
@[simp] theorem State.updMailbox_host (s : State) (m : Fin 16) (h : Mailbox → Mailbox) : (s.updMailbox m h).host = s.host := rfl
@[simp] theorem State.updMailbox_ledger (s : State) (m : Fin 16) (h : Mailbox → Mailbox) : (s.updMailbox m h).ledger = s.ledger := rfl
@[simp] theorem State.updMailbox_almanac (s : State) (m : Fin 16) (h : Mailbox → Mailbox) : (s.updMailbox m h).almanac = s.almanac := rfl
@[simp] theorem State.updMailbox_fields (s : State) (m : Fin 16) (h : Mailbox → Mailbox) : (s.updMailbox m h).fields = s.fields := rfl
@[simp] theorem State.updMailbox_engines (s : State) (m : Fin 16) (h : Mailbox → Mailbox) : (s.updMailbox m h).engines = s.engines := rfl
@[simp] theorem State.updMailbox_furrows (s : State) (m : Fin 16) (h : Mailbox → Mailbox) : (s.updMailbox m h).furrows = s.furrows := rfl
@[simp] theorem State.updMailbox_plot (s : State) (m : Fin 16) (h : Mailbox → Mailbox) : (s.updMailbox m h).plot = s.plot := rfl
@[simp] theorem State.updMailbox_sower (s : State) (m : Fin 16) (h : Mailbox → Mailbox) : (s.updMailbox m h).sower = s.sower := rfl
@[simp] theorem State.updMailbox_sup (s : State) (m : Fin 16) (h : Mailbox → Mailbox) : (s.updMailbox m h).sup = s.sup := rfl
@[simp] theorem State.updMailbox_seed (s : State) (m : Fin 16) (h : Mailbox → Mailbox) : (s.updMailbox m h).seed = s.seed := rfl
@[simp] theorem State.updMailbox_island (s : State) (m : Fin 16) (h : Mailbox → Mailbox) : (s.updMailbox m h).island = s.island := rfl
@[simp] theorem State.updMailbox_reset (s : State) (m : Fin 16) (h : Mailbox → Mailbox) : (s.updMailbox m h).reset? = s.reset? := rfl
@[simp] theorem State.updMailbox_pins (s : State) (m : Fin 16) (h : Mailbox → Mailbox) : (s.updMailbox m h).pins = s.pins := rfl
@[simp] theorem State.updMailbox_dbg (s : State) (m : Fin 16) (h : Mailbox → Mailbox) : (s.updMailbox m h).dbg = s.dbg := rfl
@[simp] theorem State.updMailbox_tally (s : State) (m : Fin 16) (h : Mailbox → Mailbox) : (s.updMailbox m h).tally = s.tally := rfl
@[simp] theorem State.updMailbox_bridgeRr (s : State) (m : Fin 16) (h : Mailbox → Mailbox) : (s.updMailbox m h).bridgeRr = s.bridgeRr := rfl
@[simp] theorem State.updMailbox_freeCtr (s : State) (m : Fin 16) (h : Mailbox → Mailbox) : (s.updMailbox m h).freeCtr = s.freeCtr := rfl

/-! updPorts -/

@[simp] theorem State.updPorts_pending (s : State) (f : Fin 4) (h : Ports → Ports) : (s.updPorts f h).pending = s.pending := rfl
@[simp] theorem State.updPorts_mailboxes (s : State) (f : Fin 4) (h : Ports → Ports) : (s.updPorts f h).mailboxes = s.mailboxes := rfl
@[simp] theorem State.updPorts_host (s : State) (f : Fin 4) (h : Ports → Ports) : (s.updPorts f h).host = s.host := rfl
@[simp] theorem State.updPorts_ledger (s : State) (f : Fin 4) (h : Ports → Ports) : (s.updPorts f h).ledger = s.ledger := rfl
@[simp] theorem State.updPorts_almanac (s : State) (f : Fin 4) (h : Ports → Ports) : (s.updPorts f h).almanac = s.almanac := rfl
@[simp] theorem State.updPorts_engines (s : State) (f : Fin 4) (h : Ports → Ports) : (s.updPorts f h).engines = s.engines := rfl
@[simp] theorem State.updPorts_furrows (s : State) (f : Fin 4) (h : Ports → Ports) : (s.updPorts f h).furrows = s.furrows := rfl
@[simp] theorem State.updPorts_plot (s : State) (f : Fin 4) (h : Ports → Ports) : (s.updPorts f h).plot = s.plot := rfl
@[simp] theorem State.updPorts_sower (s : State) (f : Fin 4) (h : Ports → Ports) : (s.updPorts f h).sower = s.sower := rfl
@[simp] theorem State.updPorts_sup (s : State) (f : Fin 4) (h : Ports → Ports) : (s.updPorts f h).sup = s.sup := rfl
@[simp] theorem State.updPorts_seed (s : State) (f : Fin 4) (h : Ports → Ports) : (s.updPorts f h).seed = s.seed := rfl
@[simp] theorem State.updPorts_island (s : State) (f : Fin 4) (h : Ports → Ports) : (s.updPorts f h).island = s.island := rfl
@[simp] theorem State.updPorts_reset (s : State) (f : Fin 4) (h : Ports → Ports) : (s.updPorts f h).reset? = s.reset? := rfl
@[simp] theorem State.updPorts_pins (s : State) (f : Fin 4) (h : Ports → Ports) : (s.updPorts f h).pins = s.pins := rfl
@[simp] theorem State.updPorts_dbg (s : State) (f : Fin 4) (h : Ports → Ports) : (s.updPorts f h).dbg = s.dbg := rfl
@[simp] theorem State.updPorts_tally (s : State) (f : Fin 4) (h : Ports → Ports) : (s.updPorts f h).tally = s.tally := rfl
@[simp] theorem State.updPorts_bridgeRr (s : State) (f : Fin 4) (h : Ports → Ports) : (s.updPorts f h).bridgeRr = s.bridgeRr := rfl
@[simp] theorem State.updPorts_freeCtr (s : State) (f : Fin 4) (h : Ports → Ports) : (s.updPorts f h).freeCtr = s.freeCtr := rfl

/-! updBank -/

@[simp] theorem State.updBank_pending (s : State) (f : Fin 4) (b : Fin 32) (h : Bank → Bank) : (s.updBank f b h).pending = s.pending := rfl
@[simp] theorem State.updBank_mailboxes (s : State) (f : Fin 4) (b : Fin 32) (h : Bank → Bank) : (s.updBank f b h).mailboxes = s.mailboxes := rfl
@[simp] theorem State.updBank_host (s : State) (f : Fin 4) (b : Fin 32) (h : Bank → Bank) : (s.updBank f b h).host = s.host := rfl
@[simp] theorem State.updBank_ledger (s : State) (f : Fin 4) (b : Fin 32) (h : Bank → Bank) : (s.updBank f b h).ledger = s.ledger := rfl
@[simp] theorem State.updBank_almanac (s : State) (f : Fin 4) (b : Fin 32) (h : Bank → Bank) : (s.updBank f b h).almanac = s.almanac := rfl
@[simp] theorem State.updBank_engines (s : State) (f : Fin 4) (b : Fin 32) (h : Bank → Bank) : (s.updBank f b h).engines = s.engines := rfl
@[simp] theorem State.updBank_furrows (s : State) (f : Fin 4) (b : Fin 32) (h : Bank → Bank) : (s.updBank f b h).furrows = s.furrows := rfl
@[simp] theorem State.updBank_plot (s : State) (f : Fin 4) (b : Fin 32) (h : Bank → Bank) : (s.updBank f b h).plot = s.plot := rfl
@[simp] theorem State.updBank_sower (s : State) (f : Fin 4) (b : Fin 32) (h : Bank → Bank) : (s.updBank f b h).sower = s.sower := rfl
@[simp] theorem State.updBank_sup (s : State) (f : Fin 4) (b : Fin 32) (h : Bank → Bank) : (s.updBank f b h).sup = s.sup := rfl
@[simp] theorem State.updBank_seed (s : State) (f : Fin 4) (b : Fin 32) (h : Bank → Bank) : (s.updBank f b h).seed = s.seed := rfl
@[simp] theorem State.updBank_island (s : State) (f : Fin 4) (b : Fin 32) (h : Bank → Bank) : (s.updBank f b h).island = s.island := rfl
@[simp] theorem State.updBank_reset (s : State) (f : Fin 4) (b : Fin 32) (h : Bank → Bank) : (s.updBank f b h).reset? = s.reset? := rfl
@[simp] theorem State.updBank_pins (s : State) (f : Fin 4) (b : Fin 32) (h : Bank → Bank) : (s.updBank f b h).pins = s.pins := rfl
@[simp] theorem State.updBank_dbg (s : State) (f : Fin 4) (b : Fin 32) (h : Bank → Bank) : (s.updBank f b h).dbg = s.dbg := rfl
@[simp] theorem State.updBank_tally (s : State) (f : Fin 4) (b : Fin 32) (h : Bank → Bank) : (s.updBank f b h).tally = s.tally := rfl
@[simp] theorem State.updBank_bridgeRr (s : State) (f : Fin 4) (b : Fin 32) (h : Bank → Bank) : (s.updBank f b h).bridgeRr = s.bridgeRr := rfl
@[simp] theorem State.updBank_freeCtr (s : State) (f : Fin 4) (b : Fin 32) (h : Bank → Bank) : (s.updBank f b h).freeCtr = s.freeCtr := rfl

/-! updDrill -/

@[simp] theorem State.updDrill_pending (s : State) (f : Fin 4) (d : Fin 16) (h : Drill → Drill) : (s.updDrill f d h).pending = s.pending := rfl
@[simp] theorem State.updDrill_mailboxes (s : State) (f : Fin 4) (d : Fin 16) (h : Drill → Drill) : (s.updDrill f d h).mailboxes = s.mailboxes := rfl
@[simp] theorem State.updDrill_host (s : State) (f : Fin 4) (d : Fin 16) (h : Drill → Drill) : (s.updDrill f d h).host = s.host := rfl
@[simp] theorem State.updDrill_ledger (s : State) (f : Fin 4) (d : Fin 16) (h : Drill → Drill) : (s.updDrill f d h).ledger = s.ledger := rfl
@[simp] theorem State.updDrill_almanac (s : State) (f : Fin 4) (d : Fin 16) (h : Drill → Drill) : (s.updDrill f d h).almanac = s.almanac := rfl
@[simp] theorem State.updDrill_engines (s : State) (f : Fin 4) (d : Fin 16) (h : Drill → Drill) : (s.updDrill f d h).engines = s.engines := rfl
@[simp] theorem State.updDrill_furrows (s : State) (f : Fin 4) (d : Fin 16) (h : Drill → Drill) : (s.updDrill f d h).furrows = s.furrows := rfl
@[simp] theorem State.updDrill_plot (s : State) (f : Fin 4) (d : Fin 16) (h : Drill → Drill) : (s.updDrill f d h).plot = s.plot := rfl
@[simp] theorem State.updDrill_sower (s : State) (f : Fin 4) (d : Fin 16) (h : Drill → Drill) : (s.updDrill f d h).sower = s.sower := rfl
@[simp] theorem State.updDrill_sup (s : State) (f : Fin 4) (d : Fin 16) (h : Drill → Drill) : (s.updDrill f d h).sup = s.sup := rfl
@[simp] theorem State.updDrill_seed (s : State) (f : Fin 4) (d : Fin 16) (h : Drill → Drill) : (s.updDrill f d h).seed = s.seed := rfl
@[simp] theorem State.updDrill_island (s : State) (f : Fin 4) (d : Fin 16) (h : Drill → Drill) : (s.updDrill f d h).island = s.island := rfl
@[simp] theorem State.updDrill_reset (s : State) (f : Fin 4) (d : Fin 16) (h : Drill → Drill) : (s.updDrill f d h).reset? = s.reset? := rfl
@[simp] theorem State.updDrill_pins (s : State) (f : Fin 4) (d : Fin 16) (h : Drill → Drill) : (s.updDrill f d h).pins = s.pins := rfl
@[simp] theorem State.updDrill_dbg (s : State) (f : Fin 4) (d : Fin 16) (h : Drill → Drill) : (s.updDrill f d h).dbg = s.dbg := rfl
@[simp] theorem State.updDrill_tally (s : State) (f : Fin 4) (d : Fin 16) (h : Drill → Drill) : (s.updDrill f d h).tally = s.tally := rfl
@[simp] theorem State.updDrill_bridgeRr (s : State) (f : Fin 4) (d : Fin 16) (h : Drill → Drill) : (s.updDrill f d h).bridgeRr = s.bridgeRr := rfl
@[simp] theorem State.updDrill_freeCtr (s : State) (f : Fin 4) (d : Fin 16) (h : Drill → Drill) : (s.updDrill f d h).freeCtr = s.freeCtr := rfl

/-! mapDrills -/

@[simp] theorem State.mapDrills_pending (s : State) (h : Drill → Drill) : (s.mapDrills h).pending = s.pending := rfl
@[simp] theorem State.mapDrills_mailboxes (s : State) (h : Drill → Drill) : (s.mapDrills h).mailboxes = s.mailboxes := rfl
@[simp] theorem State.mapDrills_host (s : State) (h : Drill → Drill) : (s.mapDrills h).host = s.host := rfl
@[simp] theorem State.mapDrills_ledger (s : State) (h : Drill → Drill) : (s.mapDrills h).ledger = s.ledger := rfl
@[simp] theorem State.mapDrills_almanac (s : State) (h : Drill → Drill) : (s.mapDrills h).almanac = s.almanac := rfl
@[simp] theorem State.mapDrills_engines (s : State) (h : Drill → Drill) : (s.mapDrills h).engines = s.engines := rfl
@[simp] theorem State.mapDrills_furrows (s : State) (h : Drill → Drill) : (s.mapDrills h).furrows = s.furrows := rfl
@[simp] theorem State.mapDrills_plot (s : State) (h : Drill → Drill) : (s.mapDrills h).plot = s.plot := rfl
@[simp] theorem State.mapDrills_sower (s : State) (h : Drill → Drill) : (s.mapDrills h).sower = s.sower := rfl
@[simp] theorem State.mapDrills_sup (s : State) (h : Drill → Drill) : (s.mapDrills h).sup = s.sup := rfl
@[simp] theorem State.mapDrills_seed (s : State) (h : Drill → Drill) : (s.mapDrills h).seed = s.seed := rfl
@[simp] theorem State.mapDrills_island (s : State) (h : Drill → Drill) : (s.mapDrills h).island = s.island := rfl
@[simp] theorem State.mapDrills_reset (s : State) (h : Drill → Drill) : (s.mapDrills h).reset? = s.reset? := rfl
@[simp] theorem State.mapDrills_pins (s : State) (h : Drill → Drill) : (s.mapDrills h).pins = s.pins := rfl
@[simp] theorem State.mapDrills_dbg (s : State) (h : Drill → Drill) : (s.mapDrills h).dbg = s.dbg := rfl
@[simp] theorem State.mapDrills_tally (s : State) (h : Drill → Drill) : (s.mapDrills h).tally = s.tally := rfl
@[simp] theorem State.mapDrills_bridgeRr (s : State) (h : Drill → Drill) : (s.mapDrills h).bridgeRr = s.bridgeRr := rfl
@[simp] theorem State.mapDrills_freeCtr (s : State) (h : Drill → Drill) : (s.mapDrills h).freeCtr = s.freeCtr := rfl

/-! mapFieldDrills -/

@[simp] theorem State.mapFieldDrills_pending (s : State) (f : Fin 4) (h : Drill → Drill) : (s.mapFieldDrills f h).pending = s.pending := rfl
@[simp] theorem State.mapFieldDrills_mailboxes (s : State) (f : Fin 4) (h : Drill → Drill) : (s.mapFieldDrills f h).mailboxes = s.mailboxes := rfl
@[simp] theorem State.mapFieldDrills_host (s : State) (f : Fin 4) (h : Drill → Drill) : (s.mapFieldDrills f h).host = s.host := rfl
@[simp] theorem State.mapFieldDrills_ledger (s : State) (f : Fin 4) (h : Drill → Drill) : (s.mapFieldDrills f h).ledger = s.ledger := rfl
@[simp] theorem State.mapFieldDrills_almanac (s : State) (f : Fin 4) (h : Drill → Drill) : (s.mapFieldDrills f h).almanac = s.almanac := rfl
@[simp] theorem State.mapFieldDrills_engines (s : State) (f : Fin 4) (h : Drill → Drill) : (s.mapFieldDrills f h).engines = s.engines := rfl
@[simp] theorem State.mapFieldDrills_furrows (s : State) (f : Fin 4) (h : Drill → Drill) : (s.mapFieldDrills f h).furrows = s.furrows := rfl
@[simp] theorem State.mapFieldDrills_plot (s : State) (f : Fin 4) (h : Drill → Drill) : (s.mapFieldDrills f h).plot = s.plot := rfl
@[simp] theorem State.mapFieldDrills_sower (s : State) (f : Fin 4) (h : Drill → Drill) : (s.mapFieldDrills f h).sower = s.sower := rfl
@[simp] theorem State.mapFieldDrills_sup (s : State) (f : Fin 4) (h : Drill → Drill) : (s.mapFieldDrills f h).sup = s.sup := rfl
@[simp] theorem State.mapFieldDrills_seed (s : State) (f : Fin 4) (h : Drill → Drill) : (s.mapFieldDrills f h).seed = s.seed := rfl
@[simp] theorem State.mapFieldDrills_island (s : State) (f : Fin 4) (h : Drill → Drill) : (s.mapFieldDrills f h).island = s.island := rfl
@[simp] theorem State.mapFieldDrills_reset (s : State) (f : Fin 4) (h : Drill → Drill) : (s.mapFieldDrills f h).reset? = s.reset? := rfl
@[simp] theorem State.mapFieldDrills_pins (s : State) (f : Fin 4) (h : Drill → Drill) : (s.mapFieldDrills f h).pins = s.pins := rfl
@[simp] theorem State.mapFieldDrills_dbg (s : State) (f : Fin 4) (h : Drill → Drill) : (s.mapFieldDrills f h).dbg = s.dbg := rfl
@[simp] theorem State.mapFieldDrills_tally (s : State) (f : Fin 4) (h : Drill → Drill) : (s.mapFieldDrills f h).tally = s.tally := rfl
@[simp] theorem State.mapFieldDrills_bridgeRr (s : State) (f : Fin 4) (h : Drill → Drill) : (s.mapFieldDrills f h).bridgeRr = s.bridgeRr := rfl
@[simp] theorem State.mapFieldDrills_freeCtr (s : State) (f : Fin 4) (h : Drill → Drill) : (s.mapFieldDrills f h).freeCtr = s.freeCtr := rfl

/-! updTimer -/

@[simp] theorem State.updTimer_pending (s : State) (n : Fin 32) (h : Timer → Timer) : (s.updTimer n h).pending = s.pending := rfl
@[simp] theorem State.updTimer_mailboxes (s : State) (n : Fin 32) (h : Timer → Timer) : (s.updTimer n h).mailboxes = s.mailboxes := rfl
@[simp] theorem State.updTimer_host (s : State) (n : Fin 32) (h : Timer → Timer) : (s.updTimer n h).host = s.host := rfl
@[simp] theorem State.updTimer_ledger (s : State) (n : Fin 32) (h : Timer → Timer) : (s.updTimer n h).ledger = s.ledger := rfl
@[simp] theorem State.updTimer_fields (s : State) (n : Fin 32) (h : Timer → Timer) : (s.updTimer n h).fields = s.fields := rfl
@[simp] theorem State.updTimer_engines (s : State) (n : Fin 32) (h : Timer → Timer) : (s.updTimer n h).engines = s.engines := rfl
@[simp] theorem State.updTimer_furrows (s : State) (n : Fin 32) (h : Timer → Timer) : (s.updTimer n h).furrows = s.furrows := rfl
@[simp] theorem State.updTimer_plot (s : State) (n : Fin 32) (h : Timer → Timer) : (s.updTimer n h).plot = s.plot := rfl
@[simp] theorem State.updTimer_sower (s : State) (n : Fin 32) (h : Timer → Timer) : (s.updTimer n h).sower = s.sower := rfl
@[simp] theorem State.updTimer_sup (s : State) (n : Fin 32) (h : Timer → Timer) : (s.updTimer n h).sup = s.sup := rfl
@[simp] theorem State.updTimer_seed (s : State) (n : Fin 32) (h : Timer → Timer) : (s.updTimer n h).seed = s.seed := rfl
@[simp] theorem State.updTimer_island (s : State) (n : Fin 32) (h : Timer → Timer) : (s.updTimer n h).island = s.island := rfl
@[simp] theorem State.updTimer_reset (s : State) (n : Fin 32) (h : Timer → Timer) : (s.updTimer n h).reset? = s.reset? := rfl
@[simp] theorem State.updTimer_pins (s : State) (n : Fin 32) (h : Timer → Timer) : (s.updTimer n h).pins = s.pins := rfl
@[simp] theorem State.updTimer_dbg (s : State) (n : Fin 32) (h : Timer → Timer) : (s.updTimer n h).dbg = s.dbg := rfl
@[simp] theorem State.updTimer_tally (s : State) (n : Fin 32) (h : Timer → Timer) : (s.updTimer n h).tally = s.tally := rfl
@[simp] theorem State.updTimer_bridgeRr (s : State) (n : Fin 32) (h : Timer → Timer) : (s.updTimer n h).bridgeRr = s.bridgeRr := rfl
@[simp] theorem State.updTimer_freeCtr (s : State) (n : Fin 32) (h : Timer → Timer) : (s.updTimer n h).freeCtr = s.freeCtr := rfl

/-! updSup -/

@[simp] theorem State.updSup_pending (s : State) (h : Sup → Sup) : (s.updSup h).pending = s.pending := rfl
@[simp] theorem State.updSup_mailboxes (s : State) (h : Sup → Sup) : (s.updSup h).mailboxes = s.mailboxes := rfl
@[simp] theorem State.updSup_host (s : State) (h : Sup → Sup) : (s.updSup h).host = s.host := rfl
@[simp] theorem State.updSup_ledger (s : State) (h : Sup → Sup) : (s.updSup h).ledger = s.ledger := rfl
@[simp] theorem State.updSup_almanac (s : State) (h : Sup → Sup) : (s.updSup h).almanac = s.almanac := rfl
@[simp] theorem State.updSup_fields (s : State) (h : Sup → Sup) : (s.updSup h).fields = s.fields := rfl
@[simp] theorem State.updSup_engines (s : State) (h : Sup → Sup) : (s.updSup h).engines = s.engines := rfl
@[simp] theorem State.updSup_furrows (s : State) (h : Sup → Sup) : (s.updSup h).furrows = s.furrows := rfl
@[simp] theorem State.updSup_plot (s : State) (h : Sup → Sup) : (s.updSup h).plot = s.plot := rfl
@[simp] theorem State.updSup_sower (s : State) (h : Sup → Sup) : (s.updSup h).sower = s.sower := rfl
@[simp] theorem State.updSup_sup (s : State) (h : Sup → Sup) : (s.updSup h).sup = h s.sup := rfl
@[simp] theorem State.updSup_seed (s : State) (h : Sup → Sup) : (s.updSup h).seed = s.seed := rfl
@[simp] theorem State.updSup_island (s : State) (h : Sup → Sup) : (s.updSup h).island = s.island := rfl
@[simp] theorem State.updSup_reset (s : State) (h : Sup → Sup) : (s.updSup h).reset? = s.reset? := rfl
@[simp] theorem State.updSup_pins (s : State) (h : Sup → Sup) : (s.updSup h).pins = s.pins := rfl
@[simp] theorem State.updSup_dbg (s : State) (h : Sup → Sup) : (s.updSup h).dbg = s.dbg := rfl
@[simp] theorem State.updSup_tally (s : State) (h : Sup → Sup) : (s.updSup h).tally = s.tally := rfl
@[simp] theorem State.updSup_bridgeRr (s : State) (h : Sup → Sup) : (s.updSup h).bridgeRr = s.bridgeRr := rfl
@[simp] theorem State.updSup_freeCtr (s : State) (h : Sup → Sup) : (s.updSup h).freeCtr = s.freeCtr := rfl

/-! updDbg -/

@[simp] theorem State.updDbg_pending (s : State) (h : Debug → Debug) : (s.updDbg h).pending = s.pending := rfl
@[simp] theorem State.updDbg_mailboxes (s : State) (h : Debug → Debug) : (s.updDbg h).mailboxes = s.mailboxes := rfl
@[simp] theorem State.updDbg_host (s : State) (h : Debug → Debug) : (s.updDbg h).host = s.host := rfl
@[simp] theorem State.updDbg_ledger (s : State) (h : Debug → Debug) : (s.updDbg h).ledger = s.ledger := rfl
@[simp] theorem State.updDbg_almanac (s : State) (h : Debug → Debug) : (s.updDbg h).almanac = s.almanac := rfl
@[simp] theorem State.updDbg_fields (s : State) (h : Debug → Debug) : (s.updDbg h).fields = s.fields := rfl
@[simp] theorem State.updDbg_engines (s : State) (h : Debug → Debug) : (s.updDbg h).engines = s.engines := rfl
@[simp] theorem State.updDbg_furrows (s : State) (h : Debug → Debug) : (s.updDbg h).furrows = s.furrows := rfl
@[simp] theorem State.updDbg_plot (s : State) (h : Debug → Debug) : (s.updDbg h).plot = s.plot := rfl
@[simp] theorem State.updDbg_sower (s : State) (h : Debug → Debug) : (s.updDbg h).sower = s.sower := rfl
@[simp] theorem State.updDbg_sup (s : State) (h : Debug → Debug) : (s.updDbg h).sup = s.sup := rfl
@[simp] theorem State.updDbg_seed (s : State) (h : Debug → Debug) : (s.updDbg h).seed = s.seed := rfl
@[simp] theorem State.updDbg_island (s : State) (h : Debug → Debug) : (s.updDbg h).island = s.island := rfl
@[simp] theorem State.updDbg_reset (s : State) (h : Debug → Debug) : (s.updDbg h).reset? = s.reset? := rfl
@[simp] theorem State.updDbg_pins (s : State) (h : Debug → Debug) : (s.updDbg h).pins = s.pins := rfl
@[simp] theorem State.updDbg_dbg (s : State) (h : Debug → Debug) : (s.updDbg h).dbg = h s.dbg := rfl
@[simp] theorem State.updDbg_tally (s : State) (h : Debug → Debug) : (s.updDbg h).tally = s.tally := rfl
@[simp] theorem State.updDbg_bridgeRr (s : State) (h : Debug → Debug) : (s.updDbg h).bridgeRr = s.bridgeRr := rfl
@[simp] theorem State.updDbg_freeCtr (s : State) (h : Debug → Debug) : (s.updDbg h).freeCtr = s.freeCtr := rfl

/-! updSower -/

@[simp] theorem State.updSower_pending (s : State) (h : Sower → Sower) : (s.updSower h).pending = s.pending := rfl
@[simp] theorem State.updSower_mailboxes (s : State) (h : Sower → Sower) : (s.updSower h).mailboxes = s.mailboxes := rfl
@[simp] theorem State.updSower_host (s : State) (h : Sower → Sower) : (s.updSower h).host = s.host := rfl
@[simp] theorem State.updSower_ledger (s : State) (h : Sower → Sower) : (s.updSower h).ledger = s.ledger := rfl
@[simp] theorem State.updSower_almanac (s : State) (h : Sower → Sower) : (s.updSower h).almanac = s.almanac := rfl
@[simp] theorem State.updSower_fields (s : State) (h : Sower → Sower) : (s.updSower h).fields = s.fields := rfl
@[simp] theorem State.updSower_engines (s : State) (h : Sower → Sower) : (s.updSower h).engines = s.engines := rfl
@[simp] theorem State.updSower_furrows (s : State) (h : Sower → Sower) : (s.updSower h).furrows = s.furrows := rfl
@[simp] theorem State.updSower_plot (s : State) (h : Sower → Sower) : (s.updSower h).plot = s.plot := rfl
@[simp] theorem State.updSower_sower (s : State) (h : Sower → Sower) : (s.updSower h).sower = h s.sower := rfl
@[simp] theorem State.updSower_sup (s : State) (h : Sower → Sower) : (s.updSower h).sup = s.sup := rfl
@[simp] theorem State.updSower_seed (s : State) (h : Sower → Sower) : (s.updSower h).seed = s.seed := rfl
@[simp] theorem State.updSower_island (s : State) (h : Sower → Sower) : (s.updSower h).island = s.island := rfl
@[simp] theorem State.updSower_reset (s : State) (h : Sower → Sower) : (s.updSower h).reset? = s.reset? := rfl
@[simp] theorem State.updSower_pins (s : State) (h : Sower → Sower) : (s.updSower h).pins = s.pins := rfl
@[simp] theorem State.updSower_dbg (s : State) (h : Sower → Sower) : (s.updSower h).dbg = s.dbg := rfl
@[simp] theorem State.updSower_tally (s : State) (h : Sower → Sower) : (s.updSower h).tally = s.tally := rfl
@[simp] theorem State.updSower_bridgeRr (s : State) (h : Sower → Sower) : (s.updSower h).bridgeRr = s.bridgeRr := rfl
@[simp] theorem State.updSower_freeCtr (s : State) (h : Sower → Sower) : (s.updSower h).freeCtr = s.freeCtr := rfl

/-! updHost -/

@[simp] theorem State.updHost_pending (s : State) (h : HostWin → HostWin) : (s.updHost h).pending = s.pending := rfl
@[simp] theorem State.updHost_mailboxes (s : State) (h : HostWin → HostWin) : (s.updHost h).mailboxes = s.mailboxes := rfl
@[simp] theorem State.updHost_host (s : State) (h : HostWin → HostWin) : (s.updHost h).host = h s.host := rfl
@[simp] theorem State.updHost_ledger (s : State) (h : HostWin → HostWin) : (s.updHost h).ledger = s.ledger := rfl
@[simp] theorem State.updHost_almanac (s : State) (h : HostWin → HostWin) : (s.updHost h).almanac = s.almanac := rfl
@[simp] theorem State.updHost_fields (s : State) (h : HostWin → HostWin) : (s.updHost h).fields = s.fields := rfl
@[simp] theorem State.updHost_engines (s : State) (h : HostWin → HostWin) : (s.updHost h).engines = s.engines := rfl
@[simp] theorem State.updHost_furrows (s : State) (h : HostWin → HostWin) : (s.updHost h).furrows = s.furrows := rfl
@[simp] theorem State.updHost_plot (s : State) (h : HostWin → HostWin) : (s.updHost h).plot = s.plot := rfl
@[simp] theorem State.updHost_sower (s : State) (h : HostWin → HostWin) : (s.updHost h).sower = s.sower := rfl
@[simp] theorem State.updHost_sup (s : State) (h : HostWin → HostWin) : (s.updHost h).sup = s.sup := rfl
@[simp] theorem State.updHost_seed (s : State) (h : HostWin → HostWin) : (s.updHost h).seed = s.seed := rfl
@[simp] theorem State.updHost_island (s : State) (h : HostWin → HostWin) : (s.updHost h).island = s.island := rfl
@[simp] theorem State.updHost_reset (s : State) (h : HostWin → HostWin) : (s.updHost h).reset? = s.reset? := rfl
@[simp] theorem State.updHost_pins (s : State) (h : HostWin → HostWin) : (s.updHost h).pins = s.pins := rfl
@[simp] theorem State.updHost_dbg (s : State) (h : HostWin → HostWin) : (s.updHost h).dbg = s.dbg := rfl
@[simp] theorem State.updHost_tally (s : State) (h : HostWin → HostWin) : (s.updHost h).tally = s.tally := rfl
@[simp] theorem State.updHost_bridgeRr (s : State) (h : HostWin → HostWin) : (s.updHost h).bridgeRr = s.bridgeRr := rfl
@[simp] theorem State.updHost_freeCtr (s : State) (h : HostWin → HostWin) : (s.updHost h).freeCtr = s.freeCtr := rfl

/-! updAlm -/

@[simp] theorem State.updAlm_pending (s : State) (h : Almanac → Almanac) : (s.updAlm h).pending = s.pending := rfl
@[simp] theorem State.updAlm_mailboxes (s : State) (h : Almanac → Almanac) : (s.updAlm h).mailboxes = s.mailboxes := rfl
@[simp] theorem State.updAlm_host (s : State) (h : Almanac → Almanac) : (s.updAlm h).host = s.host := rfl
@[simp] theorem State.updAlm_ledger (s : State) (h : Almanac → Almanac) : (s.updAlm h).ledger = s.ledger := rfl
@[simp] theorem State.updAlm_almanac (s : State) (h : Almanac → Almanac) : (s.updAlm h).almanac = h s.almanac := rfl
@[simp] theorem State.updAlm_fields (s : State) (h : Almanac → Almanac) : (s.updAlm h).fields = s.fields := rfl
@[simp] theorem State.updAlm_engines (s : State) (h : Almanac → Almanac) : (s.updAlm h).engines = s.engines := rfl
@[simp] theorem State.updAlm_furrows (s : State) (h : Almanac → Almanac) : (s.updAlm h).furrows = s.furrows := rfl
@[simp] theorem State.updAlm_plot (s : State) (h : Almanac → Almanac) : (s.updAlm h).plot = s.plot := rfl
@[simp] theorem State.updAlm_sower (s : State) (h : Almanac → Almanac) : (s.updAlm h).sower = s.sower := rfl
@[simp] theorem State.updAlm_sup (s : State) (h : Almanac → Almanac) : (s.updAlm h).sup = s.sup := rfl
@[simp] theorem State.updAlm_seed (s : State) (h : Almanac → Almanac) : (s.updAlm h).seed = s.seed := rfl
@[simp] theorem State.updAlm_island (s : State) (h : Almanac → Almanac) : (s.updAlm h).island = s.island := rfl
@[simp] theorem State.updAlm_reset (s : State) (h : Almanac → Almanac) : (s.updAlm h).reset? = s.reset? := rfl
@[simp] theorem State.updAlm_pins (s : State) (h : Almanac → Almanac) : (s.updAlm h).pins = s.pins := rfl
@[simp] theorem State.updAlm_dbg (s : State) (h : Almanac → Almanac) : (s.updAlm h).dbg = s.dbg := rfl
@[simp] theorem State.updAlm_tally (s : State) (h : Almanac → Almanac) : (s.updAlm h).tally = s.tally := rfl
@[simp] theorem State.updAlm_bridgeRr (s : State) (h : Almanac → Almanac) : (s.updAlm h).bridgeRr = s.bridgeRr := rfl
@[simp] theorem State.updAlm_freeCtr (s : State) (h : Almanac → Almanac) : (s.updAlm h).freeCtr = s.freeCtr := rfl

/-! updPins -/

@[simp] theorem State.updPins_pending (s : State) (h : Pins → Pins) : (s.updPins h).pending = s.pending := rfl
@[simp] theorem State.updPins_mailboxes (s : State) (h : Pins → Pins) : (s.updPins h).mailboxes = s.mailboxes := rfl
@[simp] theorem State.updPins_host (s : State) (h : Pins → Pins) : (s.updPins h).host = s.host := rfl
@[simp] theorem State.updPins_ledger (s : State) (h : Pins → Pins) : (s.updPins h).ledger = s.ledger := rfl
@[simp] theorem State.updPins_almanac (s : State) (h : Pins → Pins) : (s.updPins h).almanac = s.almanac := rfl
@[simp] theorem State.updPins_fields (s : State) (h : Pins → Pins) : (s.updPins h).fields = s.fields := rfl
@[simp] theorem State.updPins_engines (s : State) (h : Pins → Pins) : (s.updPins h).engines = s.engines := rfl
@[simp] theorem State.updPins_furrows (s : State) (h : Pins → Pins) : (s.updPins h).furrows = s.furrows := rfl
@[simp] theorem State.updPins_plot (s : State) (h : Pins → Pins) : (s.updPins h).plot = s.plot := rfl
@[simp] theorem State.updPins_sower (s : State) (h : Pins → Pins) : (s.updPins h).sower = s.sower := rfl
@[simp] theorem State.updPins_sup (s : State) (h : Pins → Pins) : (s.updPins h).sup = s.sup := rfl
@[simp] theorem State.updPins_seed (s : State) (h : Pins → Pins) : (s.updPins h).seed = s.seed := rfl
@[simp] theorem State.updPins_island (s : State) (h : Pins → Pins) : (s.updPins h).island = s.island := rfl
@[simp] theorem State.updPins_reset (s : State) (h : Pins → Pins) : (s.updPins h).reset? = s.reset? := rfl
@[simp] theorem State.updPins_pins (s : State) (h : Pins → Pins) : (s.updPins h).pins = h s.pins := rfl
@[simp] theorem State.updPins_dbg (s : State) (h : Pins → Pins) : (s.updPins h).dbg = s.dbg := rfl
@[simp] theorem State.updPins_tally (s : State) (h : Pins → Pins) : (s.updPins h).tally = s.tally := rfl
@[simp] theorem State.updPins_bridgeRr (s : State) (h : Pins → Pins) : (s.updPins h).bridgeRr = s.bridgeRr := rfl
@[simp] theorem State.updPins_freeCtr (s : State) (h : Pins → Pins) : (s.updPins h).freeCtr = s.freeCtr := rfl

/-! updSeed -/

@[simp] theorem State.updSeed_pending (s : State) (h : Seed → Seed) : (s.updSeed h).pending = s.pending := rfl
@[simp] theorem State.updSeed_mailboxes (s : State) (h : Seed → Seed) : (s.updSeed h).mailboxes = s.mailboxes := rfl
@[simp] theorem State.updSeed_host (s : State) (h : Seed → Seed) : (s.updSeed h).host = s.host := rfl
@[simp] theorem State.updSeed_ledger (s : State) (h : Seed → Seed) : (s.updSeed h).ledger = s.ledger := rfl
@[simp] theorem State.updSeed_almanac (s : State) (h : Seed → Seed) : (s.updSeed h).almanac = s.almanac := rfl
@[simp] theorem State.updSeed_fields (s : State) (h : Seed → Seed) : (s.updSeed h).fields = s.fields := rfl
@[simp] theorem State.updSeed_engines (s : State) (h : Seed → Seed) : (s.updSeed h).engines = s.engines := rfl
@[simp] theorem State.updSeed_furrows (s : State) (h : Seed → Seed) : (s.updSeed h).furrows = s.furrows := rfl
@[simp] theorem State.updSeed_plot (s : State) (h : Seed → Seed) : (s.updSeed h).plot = s.plot := rfl
@[simp] theorem State.updSeed_sower (s : State) (h : Seed → Seed) : (s.updSeed h).sower = s.sower := rfl
@[simp] theorem State.updSeed_sup (s : State) (h : Seed → Seed) : (s.updSeed h).sup = s.sup := rfl
@[simp] theorem State.updSeed_island (s : State) (h : Seed → Seed) : (s.updSeed h).island = s.island := rfl
@[simp] theorem State.updSeed_reset (s : State) (h : Seed → Seed) : (s.updSeed h).reset? = s.reset? := rfl
@[simp] theorem State.updSeed_pins (s : State) (h : Seed → Seed) : (s.updSeed h).pins = s.pins := rfl
@[simp] theorem State.updSeed_dbg (s : State) (h : Seed → Seed) : (s.updSeed h).dbg = s.dbg := rfl
@[simp] theorem State.updSeed_tally (s : State) (h : Seed → Seed) : (s.updSeed h).tally = s.tally := rfl
@[simp] theorem State.updSeed_bridgeRr (s : State) (h : Seed → Seed) : (s.updSeed h).bridgeRr = s.bridgeRr := rfl
@[simp] theorem State.updSeed_freeCtr (s : State) (h : Seed → Seed) : (s.updSeed h).freeCtr = s.freeCtr := rfl

/-! updFurrow -/

@[simp] theorem State.updFurrow_pending (s : State) (id : Nat) (h : Furrow → Furrow) : (s.updFurrow id h).pending = s.pending := rfl
@[simp] theorem State.updFurrow_mailboxes (s : State) (id : Nat) (h : Furrow → Furrow) : (s.updFurrow id h).mailboxes = s.mailboxes := rfl
@[simp] theorem State.updFurrow_host (s : State) (id : Nat) (h : Furrow → Furrow) : (s.updFurrow id h).host = s.host := rfl
@[simp] theorem State.updFurrow_ledger (s : State) (id : Nat) (h : Furrow → Furrow) : (s.updFurrow id h).ledger = s.ledger := rfl
@[simp] theorem State.updFurrow_almanac (s : State) (id : Nat) (h : Furrow → Furrow) : (s.updFurrow id h).almanac = s.almanac := rfl
@[simp] theorem State.updFurrow_fields (s : State) (id : Nat) (h : Furrow → Furrow) : (s.updFurrow id h).fields = s.fields := rfl
@[simp] theorem State.updFurrow_engines (s : State) (id : Nat) (h : Furrow → Furrow) : (s.updFurrow id h).engines = s.engines := rfl
@[simp] theorem State.updFurrow_furrows (s : State) (id : Nat) (h : Furrow → Furrow) : (s.updFurrow id h).furrows = updWhere (fun F => F.id == id) h s.furrows := rfl
@[simp] theorem State.updFurrow_plot (s : State) (id : Nat) (h : Furrow → Furrow) : (s.updFurrow id h).plot = s.plot := rfl
@[simp] theorem State.updFurrow_sower (s : State) (id : Nat) (h : Furrow → Furrow) : (s.updFurrow id h).sower = s.sower := rfl
@[simp] theorem State.updFurrow_sup (s : State) (id : Nat) (h : Furrow → Furrow) : (s.updFurrow id h).sup = s.sup := rfl
@[simp] theorem State.updFurrow_seed (s : State) (id : Nat) (h : Furrow → Furrow) : (s.updFurrow id h).seed = s.seed := rfl
@[simp] theorem State.updFurrow_island (s : State) (id : Nat) (h : Furrow → Furrow) : (s.updFurrow id h).island = s.island := rfl
@[simp] theorem State.updFurrow_reset (s : State) (id : Nat) (h : Furrow → Furrow) : (s.updFurrow id h).reset? = s.reset? := rfl
@[simp] theorem State.updFurrow_pins (s : State) (id : Nat) (h : Furrow → Furrow) : (s.updFurrow id h).pins = s.pins := rfl
@[simp] theorem State.updFurrow_dbg (s : State) (id : Nat) (h : Furrow → Furrow) : (s.updFurrow id h).dbg = s.dbg := rfl
@[simp] theorem State.updFurrow_tally (s : State) (id : Nat) (h : Furrow → Furrow) : (s.updFurrow id h).tally = s.tally := rfl
@[simp] theorem State.updFurrow_bridgeRr (s : State) (id : Nat) (h : Furrow → Furrow) : (s.updFurrow id h).bridgeRr = s.bridgeRr := rfl
@[simp] theorem State.updFurrow_freeCtr (s : State) (id : Nat) (h : Furrow → Furrow) : (s.updFurrow id h).freeCtr = s.freeCtr := rfl

/-- The Seed store after a write of a record (R409). -/
@[simp] theorem State.updSeed_seed (s : State) (h : Seed → Seed) :
    (s.updSeed h).seed = if h s.seed = s.seed then s.seed else { h s.seed with pulse := true } := rfl

/-- A timer rewritten. -/
@[simp] theorem State.updTimer_timer (s : State) (n : Fin 32) (h : Timer → Timer) :
    (s.updTimer n h).almanac.timers[n] = h s.almanac.timers[n] := by
  simp [State.updTimer]

/-! count and log -/

@[simp] theorem State.count_pending (s : State) (g i n : Nat) : (s.count g i n).pending = s.pending := by
  unfold State.count; split <;> rfl
@[simp] theorem State.count_mailboxes (s : State) (g i n : Nat) : (s.count g i n).mailboxes = s.mailboxes := by
  unfold State.count; split <;> rfl
@[simp] theorem State.count_host (s : State) (g i n : Nat) : (s.count g i n).host = s.host := by
  unfold State.count; split <;> rfl
@[simp] theorem State.count_ledger (s : State) (g i n : Nat) : (s.count g i n).ledger = s.ledger := by
  unfold State.count; split <;> rfl
@[simp] theorem State.count_almanac (s : State) (g i n : Nat) : (s.count g i n).almanac = s.almanac := by
  unfold State.count; split <;> rfl
@[simp] theorem State.count_fields (s : State) (g i n : Nat) : (s.count g i n).fields = s.fields := by
  unfold State.count; split <;> rfl
@[simp] theorem State.count_engines (s : State) (g i n : Nat) : (s.count g i n).engines = s.engines := by
  unfold State.count; split <;> rfl
@[simp] theorem State.count_furrows (s : State) (g i n : Nat) : (s.count g i n).furrows = s.furrows := by
  unfold State.count; split <;> rfl
@[simp] theorem State.count_plot (s : State) (g i n : Nat) : (s.count g i n).plot = s.plot := by
  unfold State.count; split <;> rfl
@[simp] theorem State.count_sower (s : State) (g i n : Nat) : (s.count g i n).sower = s.sower := by
  unfold State.count; split <;> rfl
@[simp] theorem State.count_sup (s : State) (g i n : Nat) : (s.count g i n).sup = s.sup := by
  unfold State.count; split <;> rfl
@[simp] theorem State.count_seed (s : State) (g i n : Nat) : (s.count g i n).seed = s.seed := by
  unfold State.count; split <;> rfl
@[simp] theorem State.count_island (s : State) (g i n : Nat) : (s.count g i n).island = s.island := by
  unfold State.count; split <;> rfl
@[simp] theorem State.count_reset (s : State) (g i n : Nat) : (s.count g i n).reset? = s.reset? := by
  unfold State.count; split <;> rfl
@[simp] theorem State.count_pins (s : State) (g i n : Nat) : (s.count g i n).pins = s.pins := by
  unfold State.count; split <;> rfl
@[simp] theorem State.count_dbg (s : State) (g i n : Nat) : (s.count g i n).dbg = s.dbg := by
  unfold State.count; split <;> rfl
@[simp] theorem State.count_bridgeRr (s : State) (g i n : Nat) : (s.count g i n).bridgeRr = s.bridgeRr := by
  unfold State.count; split <;> rfl
@[simp] theorem State.count_freeCtr (s : State) (g i n : Nat) : (s.count g i n).freeCtr = s.freeCtr := by
  unfold State.count; split <;> rfl
@[simp] theorem State.log_pending (s : State) (c : Fin 15) (e : Nat) (f : Option (Fin 4)) (o : Nat) (a b : Word) :
    (s.log c e f o a b).pending = s.pending := by
  unfold State.log; dsimp only; split <;> simp
@[simp] theorem State.log_mailboxes (s : State) (c : Fin 15) (e : Nat) (f : Option (Fin 4)) (o : Nat) (a b : Word) :
    (s.log c e f o a b).mailboxes = s.mailboxes := by
  unfold State.log; dsimp only; split <;> simp
@[simp] theorem State.log_host (s : State) (c : Fin 15) (e : Nat) (f : Option (Fin 4)) (o : Nat) (a b : Word) :
    (s.log c e f o a b).host = s.host := by
  unfold State.log; dsimp only; split <;> simp
@[simp] theorem State.log_almanac (s : State) (c : Fin 15) (e : Nat) (f : Option (Fin 4)) (o : Nat) (a b : Word) :
    (s.log c e f o a b).almanac = s.almanac := by
  unfold State.log; dsimp only; split <;> simp
@[simp] theorem State.log_fields (s : State) (c : Fin 15) (e : Nat) (f : Option (Fin 4)) (o : Nat) (a b : Word) :
    (s.log c e f o a b).fields = s.fields := by
  unfold State.log; dsimp only; split <;> simp
@[simp] theorem State.log_engines (s : State) (c : Fin 15) (e : Nat) (f : Option (Fin 4)) (o : Nat) (a b : Word) :
    (s.log c e f o a b).engines = s.engines := by
  unfold State.log; dsimp only; split <;> simp
@[simp] theorem State.log_furrows (s : State) (c : Fin 15) (e : Nat) (f : Option (Fin 4)) (o : Nat) (a b : Word) :
    (s.log c e f o a b).furrows = s.furrows := by
  unfold State.log; dsimp only; split <;> simp
@[simp] theorem State.log_plot (s : State) (c : Fin 15) (e : Nat) (f : Option (Fin 4)) (o : Nat) (a b : Word) :
    (s.log c e f o a b).plot = s.plot := by
  unfold State.log; dsimp only; split <;> simp
@[simp] theorem State.log_sower (s : State) (c : Fin 15) (e : Nat) (f : Option (Fin 4)) (o : Nat) (a b : Word) :
    (s.log c e f o a b).sower = s.sower := by
  unfold State.log; dsimp only; split <;> simp
@[simp] theorem State.log_sup (s : State) (c : Fin 15) (e : Nat) (f : Option (Fin 4)) (o : Nat) (a b : Word) :
    (s.log c e f o a b).sup = s.sup := by
  unfold State.log; dsimp only; split <;> simp
@[simp] theorem State.log_seed (s : State) (c : Fin 15) (e : Nat) (f : Option (Fin 4)) (o : Nat) (a b : Word) :
    (s.log c e f o a b).seed = s.seed := by
  unfold State.log; dsimp only; split <;> simp
@[simp] theorem State.log_island (s : State) (c : Fin 15) (e : Nat) (f : Option (Fin 4)) (o : Nat) (a b : Word) :
    (s.log c e f o a b).island = s.island := by
  unfold State.log; dsimp only; split <;> simp
@[simp] theorem State.log_reset (s : State) (c : Fin 15) (e : Nat) (f : Option (Fin 4)) (o : Nat) (a b : Word) :
    (s.log c e f o a b).reset? = s.reset? := by
  unfold State.log; dsimp only; split <;> simp
@[simp] theorem State.log_pins (s : State) (c : Fin 15) (e : Nat) (f : Option (Fin 4)) (o : Nat) (a b : Word) :
    (s.log c e f o a b).pins = s.pins := by
  unfold State.log; dsimp only; split <;> simp
@[simp] theorem State.log_dbg (s : State) (c : Fin 15) (e : Nat) (f : Option (Fin 4)) (o : Nat) (a b : Word) :
    (s.log c e f o a b).dbg = s.dbg := by
  unfold State.log; dsimp only; split <;> simp
@[simp] theorem State.log_bridgeRr (s : State) (c : Fin 15) (e : Nat) (f : Option (Fin 4)) (o : Nat) (a b : Word) :
    (s.log c e f o a b).bridgeRr = s.bridgeRr := by
  unfold State.log; dsimp only; split <;> simp
@[simp] theorem State.log_freeCtr (s : State) (c : Fin 15) (e : Nat) (f : Option (Fin 4)) (o : Nat) (a b : Word) :
    (s.log c e f o a b).freeCtr = s.freeCtr := by
  unfold State.log; dsimp only; split <;> simp
@[simp] theorem State.raise_pending (s : State) (ev fl : Nat) : (s.raise ev fl).pending = s.pending := rfl
@[simp] theorem State.raise_host (s : State) (ev fl : Nat) : (s.raise ev fl).host = s.host := rfl
@[simp] theorem State.raise_ledger (s : State) (ev fl : Nat) : (s.raise ev fl).ledger = s.ledger := rfl
@[simp] theorem State.raise_almanac (s : State) (ev fl : Nat) : (s.raise ev fl).almanac = s.almanac := rfl
@[simp] theorem State.raise_fields (s : State) (ev fl : Nat) : (s.raise ev fl).fields = s.fields := rfl
@[simp] theorem State.raise_engines (s : State) (ev fl : Nat) : (s.raise ev fl).engines = s.engines := rfl
@[simp] theorem State.raise_furrows (s : State) (ev fl : Nat) : (s.raise ev fl).furrows = s.furrows := rfl
@[simp] theorem State.raise_plot (s : State) (ev fl : Nat) : (s.raise ev fl).plot = s.plot := rfl
@[simp] theorem State.raise_sower (s : State) (ev fl : Nat) : (s.raise ev fl).sower = s.sower := rfl
@[simp] theorem State.raise_sup (s : State) (ev fl : Nat) : (s.raise ev fl).sup = s.sup := rfl
@[simp] theorem State.raise_seed (s : State) (ev fl : Nat) : (s.raise ev fl).seed = s.seed := rfl
@[simp] theorem State.raise_island (s : State) (ev fl : Nat) : (s.raise ev fl).island = s.island := rfl
@[simp] theorem State.raise_reset (s : State) (ev fl : Nat) : (s.raise ev fl).reset? = s.reset? := rfl
@[simp] theorem State.raise_pins (s : State) (ev fl : Nat) : (s.raise ev fl).pins = s.pins := rfl
@[simp] theorem State.raise_dbg (s : State) (ev fl : Nat) : (s.raise ev fl).dbg = s.dbg := rfl
@[simp] theorem State.raise_tally (s : State) (ev fl : Nat) : (s.raise ev fl).tally = s.tally := rfl
@[simp] theorem State.raise_bridgeRr (s : State) (ev fl : Nat) : (s.raise ev fl).bridgeRr = s.bridgeRr := rfl
@[simp] theorem State.raise_freeCtr (s : State) (ev fl : Nat) : (s.raise ev fl).freeCtr = s.freeCtr := rfl

/-- A record offered leaves the Ledger's ring alone. -/
@[simp] theorem Ledger.offer_ring (L : Ledger) (c : Fin 15) (i : LedgerItem) : (L.offer c i).ring = L.ring := by
  unfold Ledger.offer; split <;> rfl

end Sys2Proof.Machine
end

