-- ==== Sys2Proof/Laws/Memory.lean ====
section
/-! SUPPORT. Sparse maps: a read after a write, keys in order. Plot: every memory operation keeps the canonical form. -/

namespace Sys2Proof.Machine

/-! Sparse maps -/

/-- Reading the key written gives what was put there, in a map whose keys rise. -/
theorem mapFind_put_same {α : Type} (k : Nat) (o : Option α) (l : List (Nat × α)) (h : mapSorted l) :
    mapFind k (mapPut k o l) = o := by
  induction l with
  | nil => cases o <;> simp [mapPut, mapFind]
  | cons e l ih =>
    obtain ⟨j, w⟩ := e
    have hl : mapSorted l := (List.pairwise_cons.mp h).2
    have hj : ∀ x ∈ l.map Prod.fst, j < x := (List.pairwise_cons.mp h).1
    have miss : ∀ (m : List (Nat × α)), (∀ x ∈ m.map Prod.fst, k < x) → mapFind k m = none := by
      intro m
      induction m with
      | nil => intro _; rfl
      | cons y m im =>
        intro hm
        have h1 : k < y.1 := hm _ (by simp)
        rw [mapFind, if_neg (by omega)]
        exact im fun x hx => hm x (by simp at hx ⊢; right; exact hx)
    unfold mapPut
    split
    · rename_i hk
      cases o with
      | some v => simp [mapFind]
      | none =>
        rw [mapFind, if_neg (by omega)]
        exact miss l fun x hx => lt_trans hk (hj x hx)
    · split
      · rename_i hk
        subst hk
        cases o with
        | some v => simp [mapFind]
        | none => exact miss l hj
      · rw [mapFind, if_neg (by omega)]
        exact ih hl

/-- Reading any other key is unchanged by a write. -/
theorem mapFind_put_other {α : Type} (k m : Nat) (o : Option α) (l : List (Nat × α)) (h : m ≠ k) :
    mapFind m (mapPut k o l) = mapFind m l := by
  induction l with
  | nil => cases o <;> simp [mapPut, mapFind, h]
  | cons e l ih =>
    obtain ⟨j, w⟩ := e
    unfold mapPut
    split
    · cases o <;> simp [mapFind, h]
    · split
      · rename_i hk
        subst hk
        cases o <;> simp [mapFind, h]
      · simp [mapFind, ih]

/-- A member of a map after a write is the pair written or was there before under another key. -/
theorem mem_mapPut {α : Type} (k : Nat) (o : Option α) (l : List (Nat × α)) (c : Nat × α) (hs : mapSorted l)
    (h : c ∈ mapPut k o l) : (c.1 = k ∧ o = some c.2) ∨ (c ∈ l ∧ c.1 ≠ k) := by
  induction l with
  | nil => cases o <;> simp_all [mapPut]
  | cons e l ih =>
    obtain ⟨j, w⟩ := e
    have hl : mapSorted l := (List.pairwise_cons.mp hs).2
    have hj : ∀ x ∈ l, j < x.1 := fun x hx => (List.pairwise_cons.mp hs).1 _ (List.mem_map_of_mem hx)
    have old : c ∈ (j, w) :: l → k < j → c ∈ (j, w) :: l ∧ c.1 ≠ k := by
      intro hc hk
      refine ⟨hc, ?_⟩
      rcases List.mem_cons.mp hc with rfl | hc'
      · exact Nat.ne_of_gt hk
      · exact Nat.ne_of_gt (lt_trans hk (hj c hc'))
    unfold mapPut at h
    split at h
    · rename_i hk
      cases o with
      | some v =>
        rcases List.mem_cons.mp h with rfl | hc
        · exact .inl ⟨rfl, rfl⟩
        · exact .inr (old hc hk)
      | none => exact .inr (old h hk)
    · split at h
      · rename_i hk
        subst hk
        have tail : c ∈ l → c ∈ (k, w) :: l ∧ c.1 ≠ k := fun hc => ⟨List.mem_cons_of_mem _ hc, Nat.ne_of_gt (hj c hc)⟩
        cases o with
        | some v =>
          rcases List.mem_cons.mp h with rfl | hc
          · exact .inl ⟨rfl, rfl⟩
          · exact .inr (tail hc)
        | none => exact .inr (tail h)
      · rename_i hk hne
        rcases List.mem_cons.mp h with rfl | hc
        · exact .inr ⟨List.mem_cons_self, fun e => hne e.symm⟩
        · rcases ih hl hc with h1 | ⟨h1, h2⟩
          · exact .inl h1
          · exact .inr ⟨List.mem_cons_of_mem _ h1, h2⟩

/-- A write keeps the keys of a map rising. -/
theorem mapPut_sorted {α : Type} (k : Nat) (o : Option α) (l : List (Nat × α)) (h : mapSorted l) : mapSorted (mapPut k o l) := by
  induction l with
  | nil => cases o <;> simp [mapPut, mapSorted]
  | cons e l ih =>
    obtain ⟨j, w⟩ := e
    obtain ⟨hj, hl⟩ := List.pairwise_cons.mp h
    unfold mapPut
    split
    · rename_i hk
      cases o with
      | some v =>
        refine List.pairwise_cons.mpr ⟨?_, h⟩
        intro x hx
        rcases List.mem_cons.mp hx with rfl | hx
        · exact hk
        · exact lt_trans hk (hj x hx)
      | none => exact h
    · split
      · rename_i hk
        subst hk
        cases o with
        | some v => exact List.pairwise_cons.mpr ⟨hj, hl⟩
        | none => exact hl
      · rename_i hk hne
        refine List.pairwise_cons.mpr ⟨?_, ih hl⟩
        intro x hx
        obtain ⟨c, hc, rfl⟩ := List.mem_map.mp hx
        rcases mem_mapPut k o l c hl hc with ⟨h1, _⟩ | ⟨h1, _⟩
        · have : (j, w).1 = j := rfl
          omega
        · exact hj _ (List.mem_map_of_mem h1)

/-- Leaving members out keeps the keys rising. -/
theorem mapSorted_filter {α : Type} (p : Nat × α → Bool) (l : List (Nat × α)) (h : mapSorted l) : mapSorted (l.filter p) :=
  List.Pairwise.sublist (List.filter_sublist.map _) h

/-! Plot -/

theorem plotKey_lt (f : Fin 4) (a : Nat) : plotKey f a < 16777216 := by
  unfold plotKey; have := f.isLt; omega

theorem cellField_plotKey (f : Fin 4) (a : Nat) : cellField (plotKey f a) = f := by
  unfold cellField plotKey; apply Fin.ext; have := f.isLt; simp only; omega

theorem plotKey_mod (f : Fin 4) (a : Nat) : plotKey f a % 4194304 = a % 4194304 := by
  unfold plotKey; omega

theorem bankOf_mod (a : Nat) : bankOf (a % 4194304) = bankOf a := by
  unfold bankOf; apply Fin.ext; simp only; omega

theorem plotKey_of_mod (f : Fin 4) (a : Nat) : plotKey f (a % 4194304) = plotKey f a := by
  unfold plotKey; omega

theorem State.plotDefault_mod (s : State) (f : Fin 4) (a : Nat) : s.plotDefault f (a % 4194304) = s.plotDefault f a := by
  unfold State.plotDefault; simp only [bankOf_mod, plotKey_of_mod]

/-- A byte written keeps the canonical form. -/
theorem State.putByte_wf (s : State) (f : Fin 4) (a : Nat) (b : Byte) (h : Memory.wf s) : Memory.wf (s.putByte f a b) := by
  refine ⟨mapPut_sorted _ _ _ h.1, ?_⟩
  intro c hc
  rcases mem_mapPut _ _ _ c h.1 hc with ⟨h1, h2⟩ | ⟨h1, _⟩
  · rw [h1, cellField_plotKey, plotKey_mod]
    refine ⟨plotKey_lt f a, ?_⟩
    show c.2 ≠ s.plotDefault f (a % 4194304)
    rw [State.plotDefault_mod]
    split at h2
    · cases h2
    · rename_i hne
      cases h2
      exact hne
  · exact h.2 c h1

/-- Bytes written keep it. -/
theorem State.putBytes_wf (l : List Byte) (s : State) (f : Fin 4) (a : Nat) (h : Memory.wf s) : Memory.wf (s.putBytes f a l) := by
  induction l generalizing s a with
  | nil => exact h
  | cons b l ih => exact ih _ _ (s.putByte_wf f a b h)

/-- The canonical form rests on Plot and on what its banks read as alone. -/
theorem Memory.wf_of (s t : State) (hp : t.plot = s.plot)
    (hd : ∀ (f : Fin 4) (b : Fin 32), t.fields[f].banks[b].epoch = s.fields[f].banks[b].epoch) (h : Memory.wf s) : Memory.wf t := by
  have e : ∀ f a, t.plotDefault f a = s.plotDefault f a := by
    intro f a; unfold State.plotDefault; rw [hd]
  refine ⟨hp ▸ h.1, fun c hc => ?_⟩
  rw [e]
  exact h.2 c (hp ▸ hc)

/-- A bank rewritten without a change of its loss count. -/
theorem State.updBank_epoch (s : State) (f : Fin 4) (b : Fin 32) (h : Bank → Bank) (he : ∀ B, (h B).epoch = B.epoch)
    (g : Fin 4) (c : Fin 32) : (s.updBank f b h).fields[g].banks[c].epoch = s.fields[g].banks[c].epoch := by
  unfold State.updBank State.updField
  by_cases hf : f = g
  · subst hf
    rw [vupd_same]
    by_cases hb : b = c
    · subst hb; rw [vupd_same]; exact he _
    · rw [vupd_other _ _ _ _ hb]
  · rw [vupd_other _ _ _ _ hf]

/-- A Field rewritten without a change of its banks. -/
theorem State.updField_epoch (s : State) (f : Fin 4) (h : Field → Field) (he : ∀ F, (h F).banks = F.banks)
    (g : Fin 4) (c : Fin 32) : (s.updField f h).fields[g].banks[c].epoch = s.fields[g].banks[c].epoch := by
  unfold State.updField
  by_cases hf : f = g
  · subst hf; rw [vupd_same, he]
  · rw [vupd_other _ _ _ _ hf]

/-- A Field rewritten without a change of its banks keeps the canonical form. -/
theorem State.updField_wf (s : State) (f : Fin 4) (k : Field → Field) (he : ∀ F, (k F).banks = F.banks) (h : Memory.wf s) :
    Memory.wf (s.updField f k) :=
  Memory.wf_of s _ rfl (fun g c => s.updField_epoch f k he g c) h

theorem State.count_wf (s : State) (g i n : Nat) (h : Memory.wf s) : Memory.wf (s.count g i n) :=
  Memory.wf_of s _ (by simp) (by simp) h

theorem State.log_wf (s : State) (c : Fin 15) (e : Nat) (f : Option (Fin 4)) (o : Nat) (a b : Word) (h : Memory.wf s) :
    Memory.wf (s.log c e f o a b) :=
  Memory.wf_of s _ (by simp) (by simp) h

theorem State.updSeed_wf (s : State) (k : Seed → Seed) (h : Memory.wf s) : Memory.wf (s.updSeed k) :=
  Memory.wf_of s _ rfl (fun _ _ => rfl) h

theorem State.flagRow_wf (s : State) (f : Fin 4) (a : Nat) (h : Memory.wf s) : Memory.wf (s.flagRow f a) := by
  unfold State.flagRow
  dsimp only
  split <;> split <;> first | exact h | exact s.updSeed_wf _ h | exact State.log_wf _ _ _ _ _ _ _ h

theorem State.noteCorr_wf (s : State) (f : Fin 4) (a : Nat) (h : Memory.wf s) : Memory.wf (s.noteCorr f a) := by
  have one : ∀ (t : State) (k : Bank → Bank), (∀ B, (k B).epoch = B.epoch) → Memory.wf t → Memory.wf (t.updBank f (bankOf a) k) :=
    fun t k hk ht => Memory.wf_of t _ rfl (fun g c => t.updBank_epoch _ _ _ hk g c) ht
  unfold State.noteCorr
  dsimp only
  split
  · exact State.flagRow_wf _ _ _ (one _ _ (fun _ => rfl) (s.count_wf _ _ _ h))
  · exact one _ _ (fun _ => rfl) (s.count_wf _ _ _ h)

theorem State.noteUncorr_wf (s : State) (f : Fin 4) (a e : Nat) (h : Memory.wf s) : Memory.wf (s.noteUncorr f a e) := by
  have h1 := State.flagRow_wf _ f a (State.log_wf _ 4 e (some f) (bankOf a).val (nw (a % 4194304 / 16 * 16)) 0
    (s.count_wf 1 (f.val * 6 + 5) 1 h))
  unfold State.noteUncorr
  dsimp only
  split
  · exact s.count_wf _ _ _ h
  · split
    · exact State.updField_wf _ f (fun F => { F with known := F.known ++ [wordOf a] }) (fun _ => rfl) h1
    · exact h1

theorem State.setEcc_wf (s : State) (f : Fin 4) (a : Nat) (e : Option EccSt) (h : Memory.wf s) : Memory.wf (s.setEcc f a e) :=
  s.updField_wf f (fun F => { F with ecc := mapPut (wordOf a) e F.ecc }) (fun _ => rfl) h

theorem State.clearEcc_wf (s : State) (f : Fin 4) (a : Nat) (h : Memory.wf s) : Memory.wf (s.clearEcc f a) :=
  s.updField_wf f (fun F => { F with ecc := mapPut (wordOf a) none F.ecc, known := F.known.filter (· ≠ wordOf a) }) (fun _ => rfl) h

/-- A write within a 16-byte word keeps the canonical form. -/
theorem State.writeWord_wf (s : State) (f : Fin 4) (a : Nat) (l : List Byte) (h : Memory.wf s) : Memory.wf (s.writeWord f a l) := by
  unfold State.writeWord
  split
  · exact State.putBytes_wf _ _ _ _ (s.clearEcc_wf f a h)
  · split
    · exact State.putBytes_wf _ _ _ _ h
    · exact State.putBytes_wf _ _ _ _ (State.setEcc_wf _ _ _ _ (s.noteCorr_wf f a h))
    · exact State.putBytes_wf _ _ _ _ (State.setEcc_wf _ _ _ _ (s.noteUncorr_wf f a 2 h))

theorem State.writeWords_wf (n : Nat) (s : State) (f : Fin 4) (a : Nat) (l : List Byte) (h : Memory.wf s) :
    Memory.wf (s.writeWords f a l n) := by
  induction n generalizing s a l with
  | zero => exact h
  | succ n ih =>
    unfold State.writeWords
    split
    · exact h
    · exact ih _ _ _ (s.writeWord_wf f a _ h)

/-- Bytes written to Plot by any master keep the canonical form. -/
theorem State.plotWrite_wf (s : State) (f : Fin 4) (a : Nat) (l : List Byte) (h : Memory.wf s) : Memory.wf (s.plotWrite f a l) :=
  State.writeWords_wf _ _ _ _ _ h

theorem State.zeroFill_wf (s : State) (f : Fin 4) (a n : Nat) (h : Memory.wf s) : Memory.wf (s.zeroFill f a n) :=
  State.plotWrite_wf _ _ _ _ h

/-- Plot after a reset lists nothing. -/
theorem State.reset_wf : Memory.wf State.reset := by
  refine ⟨List.Pairwise.nil, fun c hc => ?_⟩
  cases hc

/-- Outside a bank whose contents are dropped, addresses read as before. -/
theorem State.plotDefault_bank (s t : State) (f : Fin 4) (b : Fin 32)
    (hd : ∀ (g : Fin 4) (c : Fin 32), (g, c) ≠ (f, b) → t.fields[g].banks[c].epoch = s.fields[g].banks[c].epoch) (k : Nat)
    (hk : ¬(plotKey f (b.val * 131072) ≤ k ∧ k < plotKey f (b.val * 131072) + 131072)) (hb : k < 16777216) :
    t.plotDefault (cellField k) (k % 4194304) = s.plotDefault (cellField k) (k % 4194304) := by
  unfold State.plotDefault
  rw [hd]
  intro e
  rw [Prod.mk.injEq] at e
  apply hk
  have h1 := congrArg Fin.val e.1
  have h2 := congrArg Fin.val e.2
  unfold cellField at h1
  unfold bankOf at h2
  unfold plotKey
  simp only at h1 h2
  have := b.isLt
  have := f.isLt
  omega

/-- A bank whose contents are dropped leaves the canonical form. -/
theorem Memory.wf_drop (s t : State) (f : Fin 4) (b : Fin 32)
    (hp : t.plot = s.plot.filter fun c => decide (¬(plotKey f (b.val * 131072) ≤ c.1 ∧ c.1 < plotKey f (b.val * 131072) + 131072)))
    (hd : ∀ (g : Fin 4) (c : Fin 32), (g, c) ≠ (f, b) → t.fields[g].banks[c].epoch = s.fields[g].banks[c].epoch) (h : Memory.wf s) : Memory.wf t := by
  refine ⟨hp ▸ mapSorted_filter _ _ h.1, fun c hc => ?_⟩
  rw [hp] at hc
  obtain ⟨h1, h2⟩ := List.mem_filter.mp hc
  refine ⟨(h.2 c h1).1, ?_⟩
  rw [State.plotDefault_bank s t f b hd c.1 (of_decide_eq_true h2) (h.2 c h1).1]
  exact (h.2 c h1).2

theorem State.loseBank_wf (s : State) (f : Fin 4) (b : Fin 32) (h : Memory.wf s) : Memory.wf (s.loseBank f b) := by
  refine Memory.wf_drop s _ f b rfl ?_ h
  intro g c hne
  show (vupd s.fields f _)[g].banks[c].epoch = _
  by_cases hf : f = g
  · subst hf
    rw [vupd_same, vupd_other _ _ _ _ fun e => hne (by rw [e])]
  · rw [vupd_other _ _ _ _ hf]

theorem State.zeroBank_wf (s : State) (f : Fin 4) (b : Fin 32) (h : Memory.wf s) : Memory.wf (s.zeroBank f b) := by
  refine Memory.wf_drop s _ f b rfl ?_ h
  intro g c hne
  show (vupd s.fields f _)[g].banks[c].epoch = _
  by_cases hf : f = g
  · subst hf
    rw [vupd_same, vupd_other _ _ _ _ fun e => hne (by rw [e])]
  · rw [vupd_other _ _ _ _ hf]

/-! Reads after writes -/

theorem State.putByte_plotDefault (s : State) (f h : Fin 4) (a k : Nat) (b : Byte) : (s.putByte f a b).plotDefault h k = s.plotDefault h k := rfl

theorem plotDefault_key (s : State) {f h : Fin 4} {a k : Nat} (e : plotKey f a = plotKey h k) : s.plotDefault f a = s.plotDefault h k := by
  have hf : f = h := by rw [← cellField_plotKey f a, e, cellField_plotKey]
  have hm : a % 4194304 = k % 4194304 := by rw [← plotKey_mod f a, e, plotKey_mod]
  rw [← State.plotDefault_mod s f a, hm, hf, State.plotDefault_mod]

/-- A byte reads back after its write. -/
theorem State.plotByte_putByte_same (s : State) (f h : Fin 4) (a k : Nat) (b : Byte) (hs : mapSorted s.plot) (e : plotKey f a = plotKey h k) :
    (s.putByte h k b).plotByte f a = b := by
  unfold State.plotByte
  rw [State.putByte_plotDefault, plotDefault_key s e, e]
  unfold State.putByte mapGet mapSet
  rw [mapFind_put_same _ _ _ hs]
  split
  · rename_i hb; rw [hb]; rfl
  · rfl

/-- Every other byte reads as before the write. -/
theorem State.plotByte_putByte_other (s : State) (f h : Fin 4) (a k : Nat) (b : Byte) (e : plotKey f a ≠ plotKey h k) :
    (s.putByte h k b).plotByte f a = s.plotByte f a := by
  unfold State.plotByte
  rw [State.putByte_plotDefault]
  unfold State.putByte mapGet mapSet
  rw [mapFind_put_other _ _ _ _ e]

theorem State.putBytes_plot (s : State) (f : Fin 4) (a : Nat) (l : List Byte) : s.putBytes f a l = { s with plot := (s.putBytes f a l).plot } := by
  induction l generalizing s a with
  | nil => rfl
  | cons b l ih =>
    unfold State.putBytes
    rw [ih]
    rfl

theorem State.putByte_sorted (s : State) (f : Fin 4) (a : Nat) (b : Byte) (h : mapSorted s.plot) : mapSorted (s.putByte f a b).plot :=
  mapPut_sorted _ _ _ h

theorem State.plotByte_putBytes_other (l : List Byte) (s : State) (f h : Fin 4) (a k : Nat)
    (e : ∀ j, j < l.length → plotKey f a ≠ plotKey h (k + j)) : (s.putBytes h k l).plotByte f a = s.plotByte f a := by
  induction l generalizing s k with
  | nil => rfl
  | cons b l ih =>
    unfold State.putBytes
    rw [ih _ _ fun j hj => by have := e (j + 1) (by simp; omega); rwa [show k + 1 + j = k + (j + 1) by omega]]
    exact State.plotByte_putByte_other _ _ _ _ _ _ (e 0 (by simp))

theorem plotKey_add_ne (f : Fin 4) (a i : Nat) (h : 0 < i) (hi : i < 4194304) : plotKey f a ≠ plotKey f (a + i) := by
  unfold plotKey
  omega

theorem State.plotByte_putBytes_same (l : List Byte) (s : State) (f : Fin 4) (a : Nat) (hs : mapSorted s.plot) (hl : l.length < 4194304)
    (j : Nat) (hj : j < l.length) : (s.putBytes f a l).plotByte f (a + j) = l.getD j 0 := by
  induction l generalizing s a j with
  | nil => cases hj
  | cons b l ih =>
    unfold State.putBytes
    cases j with
    | zero =>
      rw [State.plotByte_putBytes_other]
      · exact State.plotByte_putByte_same _ _ _ _ _ _ hs rfl
      · intro i hi
        rw [show a + 1 + i = a + 0 + (i + 1) by omega]
        exact plotKey_add_ne _ _ _ (by omega) (by simp at hl; omega)
    | succ j =>
      rw [show a + (j + 1) = a + 1 + j by omega]
      rw [ih _ _ (s.putByte_sorted f a b hs) (by simp at hl; omega) j (by simp at hj; omega)]
      simp

/-- A write within one 16-byte word without an error, less than the whole word, changes the bytes alone. -/
theorem State.plotWrite_part (s : State) (f : Fin 4) (a : Nat) (l : List Byte) (h0 : l ≠ []) (h1 : a % 16 + l.length ≤ 16) (h2 : l.length ≠ 16)
    (he : s.eccAt f a = none) : s.plotWrite f a l = s.putBytes f a l := by
  unfold State.plotWrite
  rw [show l.length / 16 + 2 = (l.length / 16 + 1) + 1 from rfl]
  unfold State.writeWords
  have hl : l.isEmpty = false := by simpa using h0
  rw [hl]
  have ht : l.take (16 - a % 16) = l := List.take_of_length_le (by omega)
  have hd : l.drop (16 - a % 16) = [] := List.drop_of_length_le (by omega)
  simp only [Bool.false_eq_true, if_false, ht, hd]
  have hw : s.writeWord f a l = s.putBytes f a l := by
    unfold State.writeWord
    rw [if_neg h2, he]
  rw [hw]
  unfold State.writeWords
  simp

end Sys2Proof.Machine
end

