-- ==== Sys2Proof/Laws/Inv.lean ====
section
/-! SUPPORT. The invariant through the shared updates, the Ledger's intake and one byte of Plot. -/

namespace Sys2Proof.Machine

variable {cmds : List Instr}

/-- The invariant rests on three fields of the state. -/
theorem Inv.mk_inv {a b c d e f g h i j k l m n o p r t u} (H : Sound cmds a i d) :
    Inv cmds (State.mk a b c d e f g h i j k l m n o p r t u) := H

theorem foldl_inv {α : Type} {f : State → α → State} {l : List α} {s : State} (hI : Inv cmds s)
    (hf : ∀ t a, Inv cmds t → Inv cmds (f t a)) : Inv cmds (l.foldl f s) := by
  induction l generalizing s with
  | nil => exact hI
  | cons a l ih => exact ih (hf s a hI)

theorem State.updField_inv (s : State) (f : Fin 4) (h : Field → Field) (hI : Inv cmds s) : Inv cmds (s.updField f h) := hI
theorem State.updEngine_inv (s : State) (g : Fin 96) (h : Engine → Engine) (hI : Inv cmds s) : Inv cmds (s.updEngine g h) := hI
theorem State.updMailbox_inv (s : State) (m : Fin 16) (h : Mailbox → Mailbox) (hI : Inv cmds s) : Inv cmds (s.updMailbox m h) := hI
theorem State.updPorts_inv (s : State) (f : Fin 4) (h : Ports → Ports) (hI : Inv cmds s) : Inv cmds (s.updPorts f h) := hI
theorem State.updBank_inv (s : State) (f : Fin 4) (b : Fin 32) (h : Bank → Bank) (hI : Inv cmds s) : Inv cmds (s.updBank f b h) := hI
theorem State.updDrill_inv (s : State) (f : Fin 4) (d : Fin 16) (h : Drill → Drill) (hI : Inv cmds s) : Inv cmds (s.updDrill f d h) := hI
theorem State.mapDrills_inv (s : State) (h : Drill → Drill) (hI : Inv cmds s) : Inv cmds (s.mapDrills h) := hI
theorem State.mapFieldDrills_inv (s : State) (f : Fin 4) (h : Drill → Drill) (hI : Inv cmds s) : Inv cmds (s.mapFieldDrills f h) := hI
theorem State.updTimer_inv (s : State) (n : Fin 32) (h : Timer → Timer) (hI : Inv cmds s) : Inv cmds (s.updTimer n h) := hI
theorem State.updSup_inv (s : State) (h : Sup → Sup) (hI : Inv cmds s) : Inv cmds (s.updSup h) := hI
theorem State.updDbg_inv (s : State) (h : Debug → Debug) (hI : Inv cmds s) : Inv cmds (s.updDbg h) := hI
theorem State.updSower_inv (s : State) (h : Sower → Sower) (hI : Inv cmds s) : Inv cmds (s.updSower h) := hI
theorem State.updHost_inv (s : State) (h : HostWin → HostWin) (hI : Inv cmds s) : Inv cmds (s.updHost h) := hI
theorem State.updAlm_inv (s : State) (h : Almanac → Almanac) (hI : Inv cmds s) : Inv cmds (s.updAlm h) := hI
theorem State.updPins_inv (s : State) (h : Pins → Pins) (hI : Inv cmds s) : Inv cmds (s.updPins h) := hI
theorem State.updSeed_inv (s : State) (h : Seed → Seed) (hI : Inv cmds s) : Inv cmds (s.updSeed h) := hI
theorem State.updFurrow_inv (s : State) (id : Nat) (h : Furrow → Furrow) (hI : Inv cmds s) : Inv cmds (s.updFurrow id h) := hI

/-- A record offered keeps every source's queue at 4 or less (R384). -/
theorem Ledger.offer_queues (L : Ledger) (c : Fin 15) (i : LedgerItem) (h : ∀ c : Fin 15, L.queues[c].length ≤ 4) (d : Fin 15) :
    (L.offer c i).queues[d].length ≤ 4 := by
  unfold Ledger.offer
  split
  · rename_i hc
    by_cases e : c = d
    · subst e; simp; omega
    · have hv : c.val ≠ d.val := fun x => e (Fin.ext x)
      simpa [Vector.getElem_set, hv] using h d
  · exact h d

theorem State.log_inv (s : State) (c : Fin 15) (e : Nat) (f : Option (Fin 4)) (o : Nat) (a b : Word) (hI : Inv cmds s) :
    Inv cmds (s.log c e f o a b) := by
  have base : ∀ i, Sound cmds s.pending s.plot (s.ledger.offer c i) := fun i =>
    { hI with
      ring := by rw [Ledger.offer_ring]; exact hI.ring
      fill := by unfold Ledger.offer; split <;> exact hI.fill
      queues := s.ledger.offer_queues c i hI.queues }
  unfold State.log
  dsimp only
  split
  · exact base _
  · show Sound cmds _ _ _
    simp only [State.count_pending, State.count_plot, State.count_ledger]
    exact base _

/-- A byte written keeps the order and the range of Plot's list. -/
theorem State.putByte_inv (s : State) (f : Fin 4) (a : Nat) (b : Byte) (hI : Inv cmds s) : Inv cmds (s.putByte f a b) :=
  { hI with
    sorted := mapPut_sorted _ _ _ hI.sorted
    bound := fun c hc => by
      rcases mem_mapPut _ _ _ c hI.sorted hc with ⟨h1, _⟩ | ⟨h1, _⟩
      · rw [h1]; exact plotKey_lt f a
      · exact hI.bound c h1 }

/-- Bytes of Plot dropped keep them as well. -/
theorem filter_inv (s : State) (p : Host.Cell → Bool) (hI : Inv cmds s) : Sound cmds s.pending (s.plot.filter p) s.ledger :=
  { hI with
    sorted := mapSorted_filter p _ hI.sorted
    bound := fun c hc => hI.bound c (List.mem_filter.mp hc).1 }

/-- The machine right after reset has the invariant. -/
theorem State.reset_inv : Inv [] State.reset := by
  refine ⟨rfl, List.Pairwise.nil, fun c hc => (List.not_mem_nil hc).elim, Nat.zero_le _, Nat.zero_le _, ?_⟩
  decide

end Sys2Proof.Machine
end

