-- ==== Sys2Proof/Laws/InvOps.lean ====
section
/-! SUPPORT. The invariant through the operations of Machine/Ops.lean: each keeps it. -/

set_option linter.unusedTactic false
set_option linter.unreachableTactic false

namespace Sys2Proof.Machine

theorem State.fresh_inv {cmds : List Instr} (s : State) (w : Nat) (hI : Inv cmds s) : Inv cmds (State.fresh s w).2 := by
  unfold State.fresh
  repeat' first
    | with_unfolding_none assumption
    | split
    | (lift_lets; intro)
    | intro _
    | with_reducible apply foldl_inv
    | dsimp +zetaDelta only
    | (with_reducible refine Inv.mk_inv ?_; show Inv cmds _)

theorem State.fresh_inv_eq {cmds : List Instr} {s : State} {w : Nat} {r : BitVec w × State} (hr : State.fresh s w = r) (hI : Inv cmds s) : Inv cmds r.2 :=
  hr ▸ State.fresh_inv _ _ hI

theorem State.count_inv {cmds : List Instr} (s : State) (group i n : Nat) (hI : Inv cmds s) : Inv cmds (State.count s group i n) := by
  unfold State.count
  repeat' first
    | with_unfolding_none assumption
    | split
    | (lift_lets; intro)
    | intro _
    | with_reducible apply foldl_inv
    | dsimp +zetaDelta only
    | (with_reducible refine Inv.mk_inv ?_; show Inv cmds _)

theorem State.raise_inv {cmds : List Instr} (s : State) (ev : Nat) (field : Nat) (hI : Inv cmds s) : Inv cmds (State.raise s ev field) := by
  unfold State.raise
  repeat' first
    | with_unfolding_none assumption
    | split
    | (lift_lets; intro)
    | intro _
    | with_reducible apply foldl_inv
    | dsimp +zetaDelta only
    | (with_reducible refine Inv.mk_inv ?_; show Inv cmds _)

theorem State.setFieldSt_inv {cmds : List Instr} (s : State) (f : Fin 4) (st : FieldSt) (hI : Inv cmds s) : Inv cmds (State.setFieldSt s f st) := by
  unfold State.setFieldSt
  repeat' first
    | with_unfolding_none assumption
    | split
    | (lift_lets; intro)
    | intro _
    | with_reducible apply State.raise_inv
    | with_reducible apply State.updAlm_inv
    | with_reducible apply State.updField_inv
    | with_reducible apply foldl_inv
    | dsimp +zetaDelta only
    | (with_reducible refine Inv.mk_inv ?_; show Inv cmds _)

end Sys2Proof.Machine
end

