-- ==== Sys2Proof/Laws/InvAlmanac.lean ====
section
/-! SUPPORT. The invariant through the operations of Machine/Almanac.lean: each keeps it. -/

set_option linter.unusedTactic false
set_option linter.unreachableTactic false

namespace Sys2Proof.Machine

theorem State.tickDrills_inv {cmds : List Instr} (s : State) (mask : BitVec 32) (hI : Inv cmds s) : Inv cmds (State.tickDrills s mask) := by
  unfold State.tickDrills
  repeat' first
    | with_unfolding_none assumption
    | split
    | (lift_lets; intro)
    | intro _
    | with_reducible apply State.mapDrills_inv
    | with_reducible apply foldl_inv
    | dsimp +zetaDelta only
    | (with_reducible refine Inv.mk_inv ?_; show Inv cmds _)

theorem State.latch_inv {cmds : List Instr} (s : State) (fid k : Nat) (hI : Inv cmds s) : Inv cmds (State.latch s fid k) := by
  unfold State.latch
  repeat' first
    | with_unfolding_none assumption
    | split
    | (lift_lets; intro)
    | intro _
    | with_reducible apply State.updFurrow_inv
    | with_reducible apply foldl_inv
    | dsimp +zetaDelta only
    | (with_reducible refine Inv.mk_inv ?_; show Inv cmds _)

theorem State.matchTimer_inv {cmds : List Instr} (s : State) (n : Fin 32) (hI : Inv cmds s) : Inv cmds (State.matchTimer s n) := by
  unfold State.matchTimer
  repeat' first
    | with_unfolding_none assumption
    | split
    | (lift_lets; intro)
    | intro _
    | with_reducible apply State.latch_inv
    | with_reducible apply State.tickDrills_inv
    | with_reducible apply State.updTimer_inv
    | with_reducible apply foldl_inv
    | dsimp +zetaDelta only
    | (with_reducible refine Inv.mk_inv ?_; show Inv cmds _)

theorem State.settle_inv {cmds : List Instr} (s : State) (hI : Inv cmds s) : Inv cmds (State.settle s) := by
  unfold State.settle
  repeat' first
    | with_unfolding_none assumption
    | split
    | (lift_lets; intro)
    | intro _
    | with_reducible apply State.matchTimer_inv
    | with_reducible apply foldl_inv
    | dsimp +zetaDelta only
    | (with_reducible refine Inv.mk_inv ?_; show Inv cmds _)

theorem State.writeTimerCtl_inv {cmds : List Instr} (s : State) (n : Fin 32) (v : Word) (hI : Inv cmds s) : Inv cmds (State.writeTimerCtl s n v) := by
  unfold State.writeTimerCtl
  repeat' first
    | with_unfolding_none assumption
    | split
    | (lift_lets; intro)
    | intro _
    | with_reducible apply State.log_inv
    | with_reducible apply State.updTimer_inv
    | with_reducible apply foldl_inv
    | dsimp +zetaDelta only
    | (with_reducible refine Inv.mk_inv ?_; show Inv cmds _)

theorem State.writeTimer_inv {cmds : List Instr} (s : State) (n : Fin 32) (off : Nat) (x : Word) (hI : Inv cmds s) : Inv cmds (State.writeTimer s n off x) := by
  unfold State.writeTimer
  repeat' first
    | with_unfolding_none assumption
    | split
    | (lift_lets; intro)
    | intro _
    | with_reducible apply State.writeTimerCtl_inv
    | with_reducible apply foldl_inv
    | dsimp +zetaDelta only
    | (with_reducible refine Inv.mk_inv ?_; show Inv cmds _)

theorem State.almMask_inv {cmds : List Instr} (s : State) (w : AlmParty) (mask : Word) (h : Timer → Timer) (hI : Inv cmds s) : Inv cmds (State.almMask s w mask h) := by
  unfold State.almMask
  repeat' first
    | with_unfolding_none assumption
    | split
    | (lift_lets; intro)
    | intro _
    | with_reducible apply State.log_inv
    | with_reducible apply State.updTimer_inv
    | with_reducible apply foldl_inv
    | dsimp +zetaDelta only
    | (with_reducible refine Inv.mk_inv ?_; show Inv cmds _)

theorem State.leaveDormant_inv {cmds : List Instr} (s : State) (hI : Inv cmds s) : Inv cmds (State.leaveDormant s) := by
  unfold State.leaveDormant
  repeat' first
    | with_unfolding_none assumption
    | split
    | (lift_lets; intro)
    | intro _
    | with_reducible apply foldl_inv
    | dsimp +zetaDelta only
    | (with_reducible refine Inv.mk_inv ?_; show Inv cmds _)

theorem State.almTick_inv {cmds : List Instr} (s : State) (hI : Inv cmds s) : Inv cmds (State.almTick s) := by
  unfold State.almTick
  repeat' first
    | with_unfolding_none assumption
    | split
    | (lift_lets; intro)
    | intro _
    | with_reducible apply State.settle_inv
    | with_reducible apply State.updAlm_inv
    | with_reducible apply foldl_inv
    | dsimp +zetaDelta only
    | (with_reducible refine Inv.mk_inv ?_; show Inv cmds _)

theorem State.retrim_inv {cmds : List Instr} (s : State) (hI : Inv cmds s) : Inv cmds (State.retrim s) := by
  unfold State.retrim
  repeat' first
    | with_unfolding_none assumption
    | split
    | (lift_lets; intro)
    | intro _
    | with_reducible apply State.mapDrills_inv
    | with_reducible apply foldl_inv
    | dsimp +zetaDelta only
    | (with_reducible refine Inv.mk_inv ?_; show Inv cmds _)

theorem State.ppsEdge_inv {cmds : List Instr} (s : State) (sec : BitVec 48) (valid : Bool) (hI : Inv cmds s) : Inv cmds (State.ppsEdge s sec valid) := by
  unfold State.ppsEdge
  repeat' first
    | with_unfolding_none assumption
    | split
    | (lift_lets; intro)
    | intro _
    | with_reducible apply State.log_inv
    | with_reducible apply State.retrim_inv
    | with_reducible apply State.updAlm_inv
    | with_reducible apply foldl_inv
    | dsimp +zetaDelta only
    | (with_reducible refine Inv.mk_inv ?_; show Inv cmds _)

theorem execTimeBaseIncrement_inv {cmds : List Instr} (s : State) (hI : Inv cmds s) : OutInv cmds (execTimeBaseIncrement s) := by
  unfold execTimeBaseIncrement
  show Inv cmds _
  repeat' first
    | with_unfolding_none assumption
    | split
    | (lift_lets; intro)
    | intro _
    | with_reducible apply State.almTick_inv
    | with_reducible apply foldl_inv
    | dsimp +zetaDelta only
    | (with_reducible refine Inv.mk_inv ?_; show Inv cmds _)

theorem execPtpPpsEdge_inv {cmds : List Instr} (sec : BitVec 48) (valid : Bool) (s : State) (hI : Inv cmds s) : OutInv cmds (execPtpPpsEdge sec valid s) := by
  unfold execPtpPpsEdge
  show Inv cmds _
  repeat' first
    | with_unfolding_none assumption
    | split
    | (lift_lets; intro)
    | intro _
    | with_reducible apply State.ppsEdge_inv
    | with_reducible apply foldl_inv
    | dsimp +zetaDelta only
    | (with_reducible refine Inv.mk_inv ?_; show Inv cmds _)

theorem execPpsHoldTimeout_inv {cmds : List Instr} (s : State) (hI : Inv cmds s) : OutInv cmds (execPpsHoldTimeout s) := by
  unfold execPpsHoldTimeout
  show Inv cmds _
  repeat' first
    | with_unfolding_none assumption
    | split
    | (lift_lets; intro)
    | intro _
    | with_reducible apply State.updAlm_inv
    | with_reducible apply foldl_inv
    | dsimp +zetaDelta only
    | (with_reducible refine Inv.mk_inv ?_; show Inv cmds _)

theorem execPpsEdgeTimeout_inv {cmds : List Instr} (s : State) (hI : Inv cmds s) : OutInv cmds (execPpsEdgeTimeout s) := by
  unfold execPpsEdgeTimeout
  show Inv cmds _
  repeat' first
    | with_unfolding_none assumption
    | split
    | (lift_lets; intro)
    | intro _
    | with_reducible apply State.updAlm_inv
    | with_reducible apply foldl_inv
    | dsimp +zetaDelta only
    | (with_reducible refine Inv.mk_inv ?_; show Inv cmds _)

theorem execLfModeExit_inv {cmds : List Instr} (s : State) (hI : Inv cmds s) : OutInv cmds (execLfModeExit s) := by
  unfold execLfModeExit
  show Inv cmds _
  repeat' first
    | with_unfolding_none assumption
    | split
    | (lift_lets; intro)
    | intro _
    | with_reducible apply State.updAlm_inv
    | with_reducible apply foldl_inv
    | dsimp +zetaDelta only
    | (with_reducible refine Inv.mk_inv ?_; show Inv cmds _)

theorem execTimerMatch_inv {cmds : List Instr} (n : Fin 32) (s : State) (hI : Inv cmds s) : OutInv cmds (execTimerMatch n s) := by
  unfold execTimerMatch
  show Inv cmds _
  repeat' first
    | with_unfolding_none assumption
    | split
    | (lift_lets; intro)
    | intro _
    | with_reducible apply State.matchTimer_inv
    | with_reducible apply foldl_inv
    | dsimp +zetaDelta only
    | (with_reducible refine Inv.mk_inv ?_; show Inv cmds _)

theorem execTimerWriteLanding_inv {cmds : List Instr} (n : Fin 32) (s : State) (hI : Inv cmds s) : OutInv cmds (execTimerWriteLanding n s) := by
  unfold execTimerWriteLanding
  show Inv cmds _
  repeat' first
    | with_unfolding_none assumption
    | split
    | (lift_lets; intro)
    | intro _
    | with_reducible apply State.updAlm_inv
    | with_reducible apply foldl_inv
    | dsimp +zetaDelta only
    | (with_reducible refine Inv.mk_inv ?_; show Inv cmds _)

theorem execAtnCtlWrite_inv {cmds : List Instr} (w : AlmParty) (n : Fin 32) (v : Word) (s : State) (hI : Inv cmds s) : OutInv cmds (execAtnCtlWrite w n v s) := by
  unfold execAtnCtlWrite
  show Inv cmds _
  repeat' first
    | with_unfolding_none assumption
    | split
    | (lift_lets; intro)
    | intro _
    | with_reducible apply State.log_inv
    | with_reducible apply State.writeTimerCtl_inv
    | with_reducible apply foldl_inv
    | dsimp +zetaDelta only
    | (with_reducible refine Inv.mk_inv ?_; show Inv cmds _)

theorem execCapnow_inv {cmds : List Instr} (w : AlmParty) (n : Fin 32) (s : State) (hI : Inv cmds s) : OutInv cmds (execCapnow w n s) := by
  unfold execCapnow
  show Inv cmds _
  repeat' first
    | with_unfolding_none assumption
    | split
    | (lift_lets; intro)
    | intro _
    | with_reducible apply State.log_inv
    | with_reducible apply State.updAlm_inv
    | with_reducible apply foldl_inv
    | dsimp +zetaDelta only
    | (with_reducible refine Inv.mk_inv ?_; show Inv cmds _)

theorem execTimerCapture_inv {cmds : List Instr} (n : Fin 32) (s : State) (hI : Inv cmds s) : OutInv cmds (execTimerCapture n s) := by
  unfold execTimerCapture
  show Inv cmds _
  repeat' first
    | with_unfolding_none assumption
    | split
    | (lift_lets; intro)
    | intro _
    | with_reducible apply State.updAlm_inv
    | with_reducible apply foldl_inv
    | dsimp +zetaDelta only
    | (with_reducible refine Inv.mk_inv ?_; show Inv cmds _)

theorem execAlmStart_inv {cmds : List Instr} (w : AlmParty) (mask : Word) (s : State) (hI : Inv cmds s) : OutInv cmds (execAlmStart w mask s) := by
  unfold execAlmStart
  show Inv cmds _
  repeat' first
    | with_unfolding_none assumption
    | split
    | (lift_lets; intro)
    | intro _
    | with_reducible apply State.almMask_inv
    | with_reducible apply foldl_inv
    | dsimp +zetaDelta only
    | (with_reducible refine Inv.mk_inv ?_; show Inv cmds _)

theorem execAlmStop_inv {cmds : List Instr} (w : AlmParty) (mask : Word) (s : State) (hI : Inv cmds s) : OutInv cmds (execAlmStop w mask s) := by
  unfold execAlmStop
  show Inv cmds _
  repeat' first
    | with_unfolding_none assumption
    | split
    | (lift_lets; intro)
    | intro _
    | with_reducible apply State.almMask_inv
    | with_reducible apply foldl_inv
    | dsimp +zetaDelta only
    | (with_reducible refine Inv.mk_inv ?_; show Inv cmds _)

theorem execAtnCapRead_inv {cmds : List Instr} (w : AlmParty) (n : Fin 32) (s : State) (hI : Inv cmds s) : OutInv cmds (execAtnCapRead w n s) := by
  unfold execAtnCapRead
  show Inv cmds _
  repeat' first
    | with_unfolding_none assumption
    | split
    | (lift_lets; intro)
    | intro _
    | with_reducible apply State.updAlm_inv
    | with_reducible apply State.updHost_inv
    | with_reducible apply foldl_inv
    | dsimp +zetaDelta only
    | (with_reducible refine Inv.mk_inv ?_; show Inv cmds _)

theorem execTbLoRead_inv {cmds : List Instr} (rid : Rid) (s : State) (hI : Inv cmds s) : OutInv cmds (execTbLoRead rid s) := by
  unfold execTbLoRead
  show Inv cmds _
  repeat' first
    | with_unfolding_none assumption
    | split
    | (lift_lets; intro)
    | intro _
    | with_reducible apply State.updAlm_inv
    | with_reducible apply State.updHost_inv
    | with_reducible apply foldl_inv
    | dsimp +zetaDelta only
    | (with_reducible refine Inv.mk_inv ?_; show Inv cmds _)

end Sys2Proof.Machine
end

