-- ==== Sys2Proof/Laws/InvPlot.lean ====
section
/-! SUPPORT. The invariant through the operations of Machine/Plot.lean: each keeps it. -/

set_option linter.unusedTactic false
set_option linter.unreachableTactic false

namespace Sys2Proof.Machine

theorem State.putBytes_inv {cmds : List Instr} (s : State) (f : Fin 4) (a : Nat) (l : List Byte) (hI : Inv cmds s) : Inv cmds (s.putBytes f a l) := by
  induction l generalizing s a with
  | nil => exact hI
  | cons b l ih => exact ih _ _ (s.putByte_inv f a b hI)

theorem State.flagRow_inv {cmds : List Instr} (s : State) (f : Fin 4) (a : Nat) (hI : Inv cmds s) : Inv cmds (State.flagRow s f a) := by
  unfold State.flagRow
  repeat' first
    | with_unfolding_none assumption
    | split
    | (lift_lets; intro)
    | intro _
    | with_reducible apply State.log_inv
    | with_reducible apply State.updSeed_inv
    | with_reducible apply foldl_inv
    | dsimp +zetaDelta only
    | (with_reducible refine Inv.mk_inv ?_; show Inv cmds _)

theorem State.noteCorr_inv {cmds : List Instr} (s : State) (f : Fin 4) (a : Nat) (hI : Inv cmds s) : Inv cmds (State.noteCorr s f a) := by
  unfold State.noteCorr
  repeat' first
    | with_unfolding_none assumption
    | split
    | (lift_lets; intro)
    | intro _
    | with_reducible apply State.count_inv
    | with_reducible apply State.flagRow_inv
    | with_reducible apply State.updBank_inv
    | with_reducible apply foldl_inv
    | dsimp +zetaDelta only
    | (with_reducible refine Inv.mk_inv ?_; show Inv cmds _)

theorem State.noteUncorr_inv {cmds : List Instr} (s : State) (f : Fin 4) (a : Nat) (event : Nat) (hI : Inv cmds s) : Inv cmds (State.noteUncorr s f a event) := by
  unfold State.noteUncorr
  repeat' first
    | with_unfolding_none assumption
    | split
    | (lift_lets; intro)
    | intro _
    | with_reducible apply State.count_inv
    | with_reducible apply State.flagRow_inv
    | with_reducible apply State.log_inv
    | with_reducible apply State.updField_inv
    | with_reducible apply foldl_inv
    | dsimp +zetaDelta only
    | (with_reducible refine Inv.mk_inv ?_; show Inv cmds _)

theorem State.setEcc_inv {cmds : List Instr} (s : State) (f : Fin 4) (a : Nat) (e : Option EccSt) (hI : Inv cmds s) : Inv cmds (State.setEcc s f a e) := by
  unfold State.setEcc
  repeat' first
    | with_unfolding_none assumption
    | split
    | (lift_lets; intro)
    | intro _
    | with_reducible apply State.updField_inv
    | with_reducible apply foldl_inv
    | dsimp +zetaDelta only
    | (with_reducible refine Inv.mk_inv ?_; show Inv cmds _)

theorem State.clearEcc_inv {cmds : List Instr} (s : State) (f : Fin 4) (a : Nat) (hI : Inv cmds s) : Inv cmds (State.clearEcc s f a) := by
  unfold State.clearEcc
  repeat' first
    | with_unfolding_none assumption
    | split
    | (lift_lets; intro)
    | intro _
    | with_reducible apply State.updField_inv
    | with_reducible apply foldl_inv
    | dsimp +zetaDelta only
    | (with_reducible refine Inv.mk_inv ?_; show Inv cmds _)

theorem State.noteRead_inv {cmds : List Instr} (s : State) (f : Fin 4) (a : Nat) (event : Nat) (hI : Inv cmds s) : Inv cmds (State.noteRead s f a event).1 := by
  unfold State.noteRead
  repeat' first
    | with_unfolding_none assumption
    | split
    | (lift_lets; intro)
    | intro _
    | with_reducible apply State.noteCorr_inv
    | with_reducible apply State.noteUncorr_inv
    | with_reducible apply foldl_inv
    | dsimp +zetaDelta only
    | (with_reducible refine Inv.mk_inv ?_; show Inv cmds _)

theorem State.noteRead_inv_eq {cmds : List Instr} {s : State} {f : Fin 4} {a : Nat} {event : Nat} {r : State × Bool} (hr : State.noteRead s f a event = r) (hI : Inv cmds s) : Inv cmds r.1 :=
  hr ▸ State.noteRead_inv _ _ _ _ hI

theorem State.noteRange_inv {cmds : List Instr} (s : State) (f : Fin 4) (a event n : Nat) (hI : Inv cmds s) : Inv cmds (s.noteRange f a event n).1 := by
  induction n generalizing s a with
  | zero => exact hI
  | succ n ih => exact ih _ _ (State.noteRead_inv s f a event hI)

theorem State.noteRange_inv_eq {cmds : List Instr} (s : State) (f : Fin 4) (a event n : Nat) {r : State × Bool} (hr : s.noteRange f a event n = r)
    (hI : Inv cmds s) : Inv cmds r.1 :=
  hr ▸ State.noteRange_inv s f a event n hI

theorem State.writeWord_inv {cmds : List Instr} (s : State) (f : Fin 4) (a : Nat) (l : List Byte) (hI : Inv cmds s) : Inv cmds (State.writeWord s f a l) := by
  unfold State.writeWord
  repeat' first
    | with_unfolding_none assumption
    | split
    | (lift_lets; intro)
    | intro _
    | with_reducible apply State.clearEcc_inv
    | with_reducible apply State.noteCorr_inv
    | with_reducible apply State.noteUncorr_inv
    | with_reducible apply State.putBytes_inv
    | with_reducible apply State.setEcc_inv
    | with_reducible apply foldl_inv
    | dsimp +zetaDelta only
    | (with_reducible refine Inv.mk_inv ?_; show Inv cmds _)

theorem State.writeWords_inv {cmds : List Instr} (s : State) (f : Fin 4) (a : Nat) (l : List Byte) (n : Nat) (hI : Inv cmds s) :
    Inv cmds (s.writeWords f a l n) := by
  induction n generalizing s a l with
  | zero => exact hI
  | succ n ih =>
    unfold State.writeWords
    split
    · exact hI
    · exact ih _ _ _ (State.writeWord_inv s f a _ hI)

theorem State.plotWrite_inv {cmds : List Instr} (s : State) (f : Fin 4) (a : Nat) (l : List Byte) (hI : Inv cmds s) : Inv cmds (State.plotWrite s f a l) := by
  unfold State.plotWrite
  repeat' first
    | with_unfolding_none assumption
    | split
    | (lift_lets; intro)
    | intro _
    | with_reducible apply State.writeWords_inv
    | with_reducible apply foldl_inv
    | dsimp +zetaDelta only
    | (with_reducible refine Inv.mk_inv ?_; show Inv cmds _)

theorem State.zeroFill_inv {cmds : List Instr} (s : State) (f : Fin 4) (a n : Nat) (hI : Inv cmds s) : Inv cmds (State.zeroFill s f a n) := by
  unfold State.zeroFill
  repeat' first
    | with_unfolding_none assumption
    | split
    | (lift_lets; intro)
    | intro _
    | with_reducible apply State.plotWrite_inv
    | with_reducible apply foldl_inv
    | dsimp +zetaDelta only
    | (with_reducible refine Inv.mk_inv ?_; show Inv cmds _)

theorem State.loseBank_inv {cmds : List Instr} (s : State) (f : Fin 4) (b : Fin 32) (hI : Inv cmds s) : Inv cmds (s.loseBank f b) :=
  filter_inv s _ hI

theorem State.zeroBank_inv {cmds : List Instr} (s : State) (f : Fin 4) (b : Fin 32) (hI : Inv cmds s) : Inv cmds (s.zeroBank f b) :=
  filter_inv s _ hI

end Sys2Proof.Machine
end

