-- ==== Sys2Proof/Laws/InvRings.lean ====
section
/-! SUPPORT. The invariant through the operations of Machine/Rings.lean: each keeps it. -/

set_option linter.unusedTactic false
set_option linter.unreachableTactic false

namespace Sys2Proof.Machine

theorem State.putHeader_inv {cmds : List Instr} (s : State) (F : Furrow) (h w : Nat) (v : Word) (hI : Inv cmds s) : Inv cmds (State.putHeader s F h w v) := by
  unfold State.putHeader
  repeat' first
    | with_unfolding_none assumption
    | split
    | (lift_lets; intro)
    | intro _
    | with_reducible apply State.plotWrite_inv
    | with_reducible apply foldl_inv
    | dsimp +zetaDelta only
    | (with_reducible refine Inv.mk_inv ?_; show Inv cmds _)

theorem State.updRing_inv {cmds : List Instr} (s : State) (fid h : Nat) (k : Ring → Ring) (hI : Inv cmds s) : Inv cmds (State.updRing s fid h k) := by
  unfold State.updRing
  repeat' first
    | with_unfolding_none assumption
    | split
    | (lift_lets; intro)
    | intro _
    | with_reducible apply State.updFurrow_inv
    | with_reducible apply foldl_inv
    | dsimp +zetaDelta only
    | (with_reducible refine Inv.mk_inv ?_; show Inv cmds _)

end Sys2Proof.Machine
end

