-- ==== Sys2Proof/Laws/InvDrills.lean ====
section
/-! SUPPORT. The invariant through the operations of Machine/Drills.lean: each keeps it. -/

set_option linter.unusedTactic false
set_option linter.unreachableTactic false

namespace Sys2Proof.Machine

theorem State.drillRefused_inv {cmds : List Instr} (s : State) (f : Fin 4) (d : Fin 16) (v : Word) (hI : Inv cmds s) : Inv cmds (State.drillRefused s f d v) := by
  unfold State.drillRefused
  repeat' first
    | with_unfolding_none assumption
    | split
    | (lift_lets; intro)
    | intro _
    | with_reducible apply State.log_inv
    | with_reducible apply foldl_inv
    | dsimp +zetaDelta only
    | (with_reducible refine Inv.mk_inv ?_; show Inv cmds _)

theorem State.writeRun_inv {cmds : List Instr} (s : State) (f : Fin 4) (n : Fin 16) (r : RunReg) (v : Word) (hI : Inv cmds s) : Inv cmds (State.writeRun s f n r v) := by
  unfold State.writeRun
  repeat' first
    | with_unfolding_none assumption
    | split
    | (lift_lets; intro)
    | intro _
    | with_reducible apply State.drillRefused_inv
    | with_reducible apply State.updDrill_inv
    | with_reducible apply foldl_inv
    | dsimp +zetaDelta only
    | (with_reducible refine Inv.mk_inv ?_; show Inv cmds _)

theorem State.drillCmd_inv {cmds : List Instr} (s : State) (f : Fin 4) (n : Fin 16) (cmd : Nat) (hI : Inv cmds s) : Inv cmds (State.drillCmd s f n cmd) := by
  unfold State.drillCmd
  repeat' first
    | with_unfolding_none assumption
    | split
    | (lift_lets; intro)
    | intro _
    | with_reducible apply State.drillRefused_inv
    | with_reducible apply State.updDrill_inv
    | with_reducible apply State.updField_inv
    | with_reducible apply foldl_inv
    | dsimp +zetaDelta only
    | (with_reducible refine Inv.mk_inv ?_; show Inv cmds _)

theorem State.dctl_inv {cmds : List Instr} (s : State) (f : Fin 4) (n : Fin 16) (cmd : Nat) (group allowed : BitVec 16) (hI : Inv cmds s) : Inv cmds (State.dctl s f n cmd group allowed) := by
  unfold State.dctl
  repeat' first
    | with_unfolding_none assumption
    | split
    | (lift_lets; intro)
    | intro _
    | with_reducible apply State.drillCmd_inv
    | with_reducible apply State.log_inv
    | with_reducible apply foldl_inv
    | dsimp +zetaDelta only
    | (with_reducible refine Inv.mk_inv ?_; show Inv cmds _)

theorem State.drillError_inv {cmds : List Instr} (s : State) (f : Fin 4) (n : Fin 16) (hI : Inv cmds s) : Inv cmds (State.drillError s f n) := by
  unfold State.drillError
  repeat' first
    | with_unfolding_none assumption
    | split
    | (lift_lets; intro)
    | intro _
    | with_reducible apply State.log_inv
    | with_reducible apply State.updDrill_inv
    | with_reducible apply foldl_inv
    | dsimp +zetaDelta only
    | (with_reducible refine Inv.mk_inv ?_; show Inv cmds _)

theorem State.pulse_inv {cmds : List Instr} (s : State) (f : Fin 4) (n : Fin 16) (hI : Inv cmds s) : Inv cmds (State.pulse s f n) := by
  unfold State.pulse
  repeat' first
    | with_unfolding_none assumption
    | split
    | (lift_lets; intro)
    | intro _
    | with_reducible apply State.mapFieldDrills_inv
    | with_reducible apply foldl_inv
    | dsimp +zetaDelta only
    | (with_reducible refine Inv.mk_inv ?_; show Inv cmds _)

theorem State.drillEnd_inv {cmds : List Instr} (s : State) (f : Fin 4) (n : Fin 16) (w : Word) (d : Drill) (hI : Inv cmds s) : Inv cmds (State.drillEnd s f n w d) := by
  unfold State.drillEnd
  repeat' first
    | with_unfolding_none assumption
    | split
    | (lift_lets; intro)
    | intro _
    | with_reducible apply State.count_inv
    | with_reducible apply State.pulse_inv
    | with_reducible apply State.updDrill_inv
    | with_reducible apply foldl_inv
    | dsimp +zetaDelta only
    | (with_reducible refine Inv.mk_inv ?_; show Inv cmds _)

theorem State.drillShift_inv {cmds : List Instr} (s : State) (f : Fin 4) (n : Fin 16) (w : Word) (pins : List Word) (d : Drill) (hI : Inv cmds s) : Inv cmds (State.drillShift s f n w pins d) := by
  unfold State.drillShift
  repeat' first
    | with_unfolding_none assumption
    | split
    | (lift_lets; intro)
    | intro _
    | with_reducible apply State.count_inv
    | with_reducible apply State.drillEnd_inv
    | with_reducible apply State.updDrill_inv
    | with_reducible apply State.updField_inv
    | with_reducible apply foldl_inv
    | dsimp +zetaDelta only
    | (with_reducible refine Inv.mk_inv ?_; show Inv cmds _)

theorem State.drillFetch_inv {cmds : List Instr} (s : State) (f : Fin 4) (n : Fin 16) (w : Word) (pins : List Word) (d : Drill) (hI : Inv cmds s) : Inv cmds (State.drillFetch s f n w pins d) := by
  unfold State.drillFetch
  repeat' first
    | with_unfolding_none assumption
    | split
    | (lift_lets; intro)
    | intro _
    | with_reducible apply State.count_inv
    | with_reducible apply State.drillShift_inv
    | with_reducible apply State.updDrill_inv
    | with_reducible apply foldl_inv
    | dsimp +zetaDelta only
    | (with_reducible refine Inv.mk_inv ?_; show Inv cmds _)

theorem execDrillWord_inv {cmds : List Instr} (f : Fin 4) (d : Fin 16) (pins : List Word) (s : State) (hI : Inv cmds s) : OutInv cmds (execDrillWord f d pins s) := by
  unfold execDrillWord
  show Inv cmds _
  repeat' first
    | with_unfolding_none assumption
    | split
    | (lift_lets; intro)
    | intro _
    | with_reducible apply State.drillError_inv
    | with_reducible apply State.drillFetch_inv
    | with_reducible apply State.drillShift_inv
    | with_reducible apply State.updDrill_inv
    | with_reducible apply State.updField_inv
    | with_reducible apply foldl_inv
    | dsimp +zetaDelta only
    | (with_reducible refine Inv.mk_inv ?_; show Inv cmds _)

theorem execDrillWaitCompletion_inv {cmds : List Instr} (f : Fin 4) (d : Fin 16) (s : State) (hI : Inv cmds s) : OutInv cmds (execDrillWaitCompletion f d s) := by
  unfold execDrillWaitCompletion
  show Inv cmds _
  repeat' first
    | with_unfolding_none assumption
    | split
    | (lift_lets; intro)
    | intro _
    | with_reducible apply State.updDrill_inv
    | with_reducible apply State.updField_inv
    | with_reducible apply foldl_inv
    | dsimp +zetaDelta only
    | (with_reducible refine Inv.mk_inv ?_; show Inv cmds _)

theorem execDrillStallEnd_inv {cmds : List Instr} (f : Fin 4) (d : Fin 16) (s : State) (hI : Inv cmds s) : OutInv cmds (execDrillStallEnd f d s) := by
  unfold execDrillStallEnd
  show Inv cmds _
  repeat' first
    | with_unfolding_none assumption
    | split
    | (lift_lets; intro)
    | intro _
    | with_reducible apply State.drillEnd_inv
    | with_reducible apply State.updDrill_inv
    | with_reducible apply foldl_inv
    | dsimp +zetaDelta only
    | (with_reducible refine Inv.mk_inv ?_; show Inv cmds _)

theorem execDrillProgramRewrite_inv {cmds : List Instr} (f : Fin 4) (a : Fin 1024) (s : State) (hI : Inv cmds s) : OutInv cmds (execDrillProgramRewrite f a s) := by
  unfold execDrillProgramRewrite
  show Inv cmds _
  repeat' first
    | with_unfolding_none assumption
    | split
    | (lift_lets; intro)
    | intro _
    | with_reducible apply State.updField_inv
    | with_reducible apply foldl_inv
    | dsimp +zetaDelta only
    | (with_reducible refine Inv.mk_inv ?_; show Inv cmds _)

theorem State.debugRefused_inv {cmds : List Instr} (s : State) (off : Nat) (hI : Inv cmds s) : Inv cmds (State.debugRefused s off) := by
  unfold State.debugRefused
  repeat' first
    | with_unfolding_none assumption
    | split
    | (lift_lets; intro)
    | intro _
    | with_reducible apply State.log_inv
    | with_reducible apply foldl_inv
    | dsimp +zetaDelta only
    | (with_reducible refine Inv.mk_inv ?_; show Inv cmds _)

theorem State.debugWrote_inv {cmds : List Instr} (s : State) (f : Option (Fin 4)) (obj : Nat) (a v : Word) (hI : Inv cmds s) : Inv cmds (State.debugWrote s f obj a v) := by
  unfold State.debugWrote
  repeat' first
    | with_unfolding_none assumption
    | split
    | (lift_lets; intro)
    | intro _
    | with_reducible apply State.log_inv
    | with_reducible apply foldl_inv
    | dsimp +zetaDelta only
    | (with_reducible refine Inv.mk_inv ?_; show Inv cmds _)

theorem State.drillBy_inv {cmds : List Instr} (s : State) (w : DrillWriter) (d : Fin 16) (a v : Word) (k : Fin 4 → BitVec 16 → State → State) (hI : Inv cmds s) (hF : ∀ a0 a1 a2, Inv cmds a2 → Inv cmds (k a0 a1 a2)) : Inv cmds (State.drillBy s w d a v k) := by
  unfold State.drillBy
  repeat' first
    | with_unfolding_none assumption
    | split
    | (lift_lets; intro)
    | intro _
    | with_reducible apply State.debugRefused_inv
    | with_reducible apply State.debugWrote_inv
    | with_reducible apply hF
    | with_reducible apply foldl_inv
    | dsimp +zetaDelta only
    | (with_reducible refine Inv.mk_inv ?_; show Inv cmds _)

theorem execStop_inv {cmds : List Instr} (w : DrillWriter) (d : Fin 16) (group : BitVec 16) (s : State) (hI : Inv cmds s) : OutInv cmds (execStop w d group s) := by
  unfold execStop
  show Inv cmds _
  repeat' first
    | with_unfolding_none assumption
    | split
    | (lift_lets; intro)
    | intro _
    | with_reducible apply State.dctl_inv
    | with_reducible apply State.drillBy_inv
    | with_reducible apply foldl_inv
    | dsimp +zetaDelta only
    | (with_reducible refine Inv.mk_inv ?_; show Inv cmds _)

theorem execResume_inv {cmds : List Instr} (w : DrillWriter) (d : Fin 16) (group : BitVec 16) (s : State) (hI : Inv cmds s) : OutInv cmds (execResume w d group s) := by
  unfold execResume
  show Inv cmds _
  repeat' first
    | with_unfolding_none assumption
    | split
    | (lift_lets; intro)
    | intro _
    | with_reducible apply State.dctl_inv
    | with_reducible apply State.drillBy_inv
    | with_reducible apply foldl_inv
    | dsimp +zetaDelta only
    | (with_reducible refine Inv.mk_inv ?_; show Inv cmds _)

theorem execClean_inv {cmds : List Instr} (w : DrillWriter) (d : Fin 16) (group : BitVec 16) (s : State) (hI : Inv cmds s) : OutInv cmds (execClean w d group s) := by
  unfold execClean
  show Inv cmds _
  repeat' first
    | with_unfolding_none assumption
    | split
    | (lift_lets; intro)
    | intro _
    | with_reducible apply State.dctl_inv
    | with_reducible apply State.drillBy_inv
    | with_reducible apply foldl_inv
    | dsimp +zetaDelta only
    | (with_reducible refine Inv.mk_inv ?_; show Inv cmds _)

theorem execPark_inv {cmds : List Instr} (w : DrillWriter) (d : Fin 16) (group : BitVec 16) (s : State) (hI : Inv cmds s) : OutInv cmds (execPark w d group s) := by
  unfold execPark
  show Inv cmds _
  repeat' first
    | with_unfolding_none assumption
    | split
    | (lift_lets; intro)
    | intro _
    | with_reducible apply State.dctl_inv
    | with_reducible apply State.drillBy_inv
    | with_reducible apply foldl_inv
    | dsimp +zetaDelta only
    | (with_reducible refine Inv.mk_inv ?_; show Inv cmds _)

theorem execDrillRunRegisterWrite_inv {cmds : List Instr} (w : DrillWriter) (d : Fin 16) (r : RunReg) (v : Word) (s : State) (hI : Inv cmds s) : OutInv cmds (execDrillRunRegisterWrite w d r v s) := by
  unfold execDrillRunRegisterWrite
  show Inv cmds _
  repeat' first
    | with_unfolding_none assumption
    | split
    | (lift_lets; intro)
    | intro _
    | with_reducible apply State.drillBy_inv
    | with_reducible apply State.writeRun_inv
    | with_reducible apply foldl_inv
    | dsimp +zetaDelta only
    | (with_reducible refine Inv.mk_inv ?_; show Inv cmds _)

theorem execDrxDataRead_inv {cmds : List Instr} (w : DrillWriter) (d : Fin 16) (s : State) (hI : Inv cmds s) : OutInv cmds (execDrxDataRead w d s) := by
  unfold execDrxDataRead
  show Inv cmds _
  repeat' first
    | with_unfolding_none assumption
    | split
    | (lift_lets; intro)
    | intro _
    | with_reducible apply State.updDrill_inv
    | with_reducible apply State.updHost_inv
    | with_reducible apply foldl_inv
    | dsimp +zetaDelta only
    | (with_reducible refine Inv.mk_inv ?_; show Inv cmds _)

theorem execDtxDataWrite_inv {cmds : List Instr} (w : DrillWriter) (d : Fin 16) (v : Word) (s : State) (hI : Inv cmds s) : OutInv cmds (execDtxDataWrite w d v s) := by
  unfold execDtxDataWrite
  show Inv cmds _
  repeat' first
    | with_unfolding_none assumption
    | split
    | (lift_lets; intro)
    | intro _
    | with_reducible apply State.drillBy_inv
    | with_reducible apply State.updDrill_inv
    | with_reducible apply foldl_inv
    | dsimp +zetaDelta only
    | (with_reducible refine Inv.mk_inv ?_; show Inv cmds _)

end Sys2Proof.Machine
end

