-- ==== Sys2Proof/Laws/InvFabric.lean ====
section
/-! SUPPORT. The invariant through the operations of Machine/Fabric.lean: each keeps it. -/

set_option linter.unusedTactic false
set_option linter.unreachableTactic false

namespace Sys2Proof.Machine

theorem State.issueTxn_inv {cmds : List Instr} {s : State} {f : Fin 4} {ids : List Nat} {write : Bool} {addr : DWord} {len : Nat} {l : List Byte}
    {owner : TxnOwner} {r : BitVec 10 × State} (hr : s.issueTxn f ids write addr len l owner = some r) (hI : Inv cmds s) : Inv cmds r.2 := by
  unfold State.issueTxn at hr
  dsimp only at hr
  split at hr
  · cases hr
  · split at hr
    · cases hr
    · cases hr; exact hI

theorem State.asks_inv {cmds : List Instr} (s : State) (mb : Fin 16) (l : List Txn) (hI : Inv cmds s) : Inv cmds (s.asks mb l) :=
  State.updMailbox_inv _ _ _ hI

end Sys2Proof.Machine
end

