-- ==== Sys2Proof/Laws/InvMailbox.lean ====
section
/-! SUPPORT. The invariant through the operations of Machine/Mailbox.lean: each keeps it. -/

set_option linter.unusedTactic false
set_option linter.unreachableTactic false

namespace Sys2Proof.Machine

theorem State.finish_inv {cmds : List Instr} (s : State) (mb : Fin 16) (k : BitVec 16) (status : Nat) (r : List Word) (reset : Option Bool := none) (hI : Inv cmds s) : Inv cmds (State.finish s mb k status r reset) := by
  unfold State.finish
  repeat' first
    | with_unfolding_none assumption
    | split
    | (lift_lets; intro)
    | intro _
    | with_reducible apply State.reset_inv
    | with_reducible apply State.updMailbox_inv
    | with_reducible apply foldl_inv
    | dsimp +zetaDelta only
    | (with_reducible refine Inv.mk_inv ?_; show Inv cmds _)

theorem State.beginCmd_inv {cmds : List Instr} (s : State) (mb : Fin 16) (k : BitVec 16) (hI : Inv cmds s) :
    Inv cmds (State.beginCmd s mb k) := by
  unfold State.beginCmd
  dsimp only
  split
  · split
    · exact State.updSup_inv _ _ (State.updMailbox_inv _ _ _ hI)
    · exact hI
  · exact hI

theorem State.beginWaiting_inv {cmds : List Instr} (s : State) (mb : Fin 16) (hI : Inv cmds s) : Inv cmds (State.beginWaiting s mb) :=
  foldl_inv hI fun t c h => State.beginCmd_inv t mb c.k h

theorem State.takeDesc_inv {cmds : List Instr} (s : State) (mb : Fin 16) (l : List Byte) (hI : Inv cmds s) : Inv cmds (State.takeDesc s mb l) := by
  unfold State.takeDesc
  have h := State.beginWaiting_inv s mb hI
  generalize s.beginWaiting mb = t at h
  have h' := State.updMailbox_inv t mb (fun M => { M with cmdHead := M.cmdHead + 1, ringFault := false, retryFetch := false }) h
  extract_lets s0 M k tag op u now old retry
  have hu : Inv cmds u := h'
  clear_value u
  split
  · exact State.updMailbox_inv _ _ _ hu
  · split
    · exact State.updMailbox_inv _ _ _ hu
    · split
      · exact State.updMailbox_inv _ _ _ hu
      · generalize u.checkDesc mb l = e
        obtain ⟨e, r0⟩ := e
        dsimp only
        split
        · exact State.updMailbox_inv _ _ _ hu
        · exact State.beginCmd_inv _ _ _ (State.updMailbox_inv _ _ _ hu)

theorem State.fetchDesc_inv {cmds : List Instr} (s : State) (mb : Fin 16) (r : Reply) (hI : Inv cmds s) : Inv cmds (State.fetchDesc s mb r) := by
  unfold State.fetchDesc
  repeat' first
    | with_unfolding_none assumption
    | split
    | (lift_lets; intro)
    | intro _
    | with_reducible apply State.takeDesc_inv
    | with_reducible apply State.asks_inv
    | with_reducible apply State.updMailbox_inv
    | with_reducible apply foldl_inv
    | dsimp +zetaDelta only
    | (with_reducible refine Inv.mk_inv ?_; show Inv cmds _)

theorem execDescriptorFetch_inv {cmds : List Instr} (r : Reply) (s : State) (hI : Inv cmds s) : OutInv cmds (execDescriptorFetch r s) := by
  unfold execDescriptorFetch
  show Inv cmds _
  repeat' first
    | with_unfolding_none assumption
    | split
    | (lift_lets; intro)
    | intro _
    | with_reducible apply State.fetchDesc_inv
    | with_reducible apply State.updSup_inv
    | with_reducible apply foldl_inv
    | dsimp +zetaDelta only
    | (with_reducible refine Inv.mk_inv ?_; show Inv cmds _)

theorem State.acked_inv {cmds : List Instr} (s : State) (src : Fin 22) (cond : Bool) (hI : Inv cmds s) : Inv cmds (State.acked s src cond) := by
  unfold State.acked
  repeat' first
    | with_unfolding_none assumption
    | split
    | (lift_lets; intro)
    | intro _
    | with_reducible apply State.updHost_inv
    | with_reducible apply foldl_inv
    | dsimp +zetaDelta only
    | (with_reducible refine Inv.mk_inv ?_; show Inv cmds _)

theorem State.endWaits_inv {cmds : List Instr} (s : State) (mb : Fin 16) (hI : Inv cmds s) : Inv cmds (State.endWaits s mb) := by
  unfold State.endWaits
  repeat' first
    | with_unfolding_none assumption
    | split
    | (lift_lets; intro)
    | intro _
    | with_reducible apply State.finish_inv
    | with_reducible apply foldl_inv
    | dsimp +zetaDelta only
    | (with_reducible refine Inv.mk_inv ?_; show Inv cmds _)

theorem State.writeMbCtrl_inv {cmds : List Instr} (s : State) (rid : Rid) (mb : Fin 16) (v : Word) (hI : Inv cmds s) : Inv cmds (State.writeMbCtrl s rid mb v) := by
  unfold State.writeMbCtrl
  repeat' first
    | with_unfolding_none assumption
    | split
    | (lift_lets; intro)
    | intro _
    | with_reducible apply State.endWaits_inv
    | with_reducible apply State.log_inv
    | with_reducible apply State.settle_inv
    | with_reducible apply State.updMailbox_inv
    | with_reducible apply foldl_inv
    | dsimp +zetaDelta only
    | (with_reducible refine Inv.mk_inv ?_; show Inv cmds _)

theorem State.mbWrite_inv {cmds : List Instr} (s : State) (rid : Rid) (mb : Fin 16) (off : Nat) (v : Word) (hI : Inv cmds s) : Inv cmds (State.mbWrite s rid mb off v) := by
  unfold State.mbWrite
  repeat' first
    | with_unfolding_none assumption
    | split
    | (lift_lets; intro)
    | intro _
    | with_reducible apply State.acked_inv
    | with_reducible apply State.leaveDormant_inv
    | with_reducible apply State.log_inv
    | with_reducible apply State.updMailbox_inv
    | with_reducible apply State.writeMbCtrl_inv
    | with_reducible apply foldl_inv
    | dsimp +zetaDelta only
    | (with_reducible refine Inv.mk_inv ?_; show Inv cmds _)

theorem execCmdTailDoorbell_inv {cmds : List Instr} (rid : Rid) (mb : Fin 16) (tail : BitVec 16) (s : State) (hI : Inv cmds s) : OutInv cmds (execCmdTailDoorbell rid mb tail s) := by
  unfold execCmdTailDoorbell
  show Inv cmds _
  repeat' first
    | with_unfolding_none assumption
    | split
    | (lift_lets; intro)
    | intro _
    | with_reducible apply State.mbWrite_inv
    | with_reducible apply foldl_inv
    | dsimp +zetaDelta only
    | (with_reducible refine Inv.mk_inv ?_; show Inv cmds _)

theorem execMailboxEnable_inv {cmds : List Instr} (rid : Rid) (mb : Fin 16) (v : Word) (s : State) (hI : Inv cmds s) : OutInv cmds (execMailboxEnable rid mb v s) := by
  unfold execMailboxEnable
  show Inv cmds _
  repeat' first
    | with_unfolding_none assumption
    | split
    | (lift_lets; intro)
    | intro _
    | with_reducible apply State.writeMbCtrl_inv
    | with_reducible apply foldl_inv
    | dsimp +zetaDelta only
    | (with_reducible refine Inv.mk_inv ?_; show Inv cmds _)

theorem execMailboxDisable_inv {cmds : List Instr} (rid : Rid) (mb : Fin 16) (v : Word) (s : State) (hI : Inv cmds s) : OutInv cmds (execMailboxDisable rid mb v s) := by
  unfold execMailboxDisable
  show Inv cmds _
  repeat' first
    | with_unfolding_none assumption
    | split
    | (lift_lets; intro)
    | intro _
    | with_reducible apply State.writeMbCtrl_inv
    | with_reducible apply foldl_inv
    | dsimp +zetaDelta only
    | (with_reducible refine Inv.mk_inv ?_; show Inv cmds _)

theorem execCplHeadWrite_inv {cmds : List Instr} (rid : Rid) (mb : Fin 16) (head : BitVec 16) (s : State) (hI : Inv cmds s) : OutInv cmds (execCplHeadWrite rid mb head s) := by
  unfold execCplHeadWrite
  show Inv cmds _
  repeat' first
    | with_unfolding_none assumption
    | split
    | (lift_lets; intro)
    | intro _
    | with_reducible apply State.mbWrite_inv
    | with_reducible apply foldl_inv
    | dsimp +zetaDelta only
    | (with_reducible refine Inv.mk_inv ?_; show Inv cmds _)

theorem execMailboxHoldoffExpiry_inv {cmds : List Instr} (mb : Fin 16) (s : State) (hI : Inv cmds s) : OutInv cmds (execMailboxHoldoffExpiry mb s) := by
  unfold execMailboxHoldoffExpiry
  show Inv cmds _
  repeat' first
    | with_unfolding_none assumption
    | split
    | (lift_lets; intro)
    | intro _
    | with_reducible apply State.updMailbox_inv
    | with_reducible apply foldl_inv
    | dsimp +zetaDelta only
    | (with_reducible refine Inv.mk_inv ?_; show Inv cmds _)

theorem State.updCmd_inv {cmds : List Instr} (s : State) (mb : Fin 16) (k : BitVec 16) (h : ActiveCmd → ActiveCmd) (hI : Inv cmds s) : Inv cmds (State.updCmd s mb k h) := by
  unfold State.updCmd
  repeat' first
    | with_unfolding_none assumption
    | split
    | (lift_lets; intro)
    | intro _
    | with_reducible apply State.updMailbox_inv
    | with_reducible apply foldl_inv
    | dsimp +zetaDelta only
    | (with_reducible refine Inv.mk_inv ?_; show Inv cmds _)

theorem State.start_inv {cmds : List Instr} (s : State) (mb : Fin 16) (k : BitVec 16) (hI : Inv cmds s) : Inv cmds (State.start s mb k) := by
  unfold State.start
  repeat' first
    | with_unfolding_none assumption
    | split
    | (lift_lets; intro)
    | intro _
    | with_reducible apply State.updCmd_inv
    | with_reducible apply foldl_inv
    | dsimp +zetaDelta only
    | (with_reducible refine Inv.mk_inv ?_; show Inv cmds _)

theorem State.answer_inv {cmds : List Instr} (s : State) (mb : Fin 16) (c : ActiveCmd) (resp : BitVec 3) (l : List Byte) (r : List Word) (hI : Inv cmds s) : Inv cmds (State.answer s mb c resp l r) := by
  unfold State.answer
  repeat' first
    | with_unfolding_none assumption
    | split
    | (lift_lets; intro)
    | intro _
    | with_reducible apply State.finish_inv
    | with_reducible apply State.asks_inv
    | with_reducible apply State.updMailbox_inv
    | with_reducible apply foldl_inv
    | dsimp +zetaDelta only
    | (with_reducible refine Inv.mk_inv ?_; show Inv cmds _)

end Sys2Proof.Machine
end

