-- ==== Sys2Proof/Laws/InvGranules.lean ====
section
/-! SUPPORT. The invariant through the operations of Machine/Granules.lean: each keeps it. -/

set_option linter.unusedTactic false
set_option linter.unreachableTactic false

namespace Sys2Proof.Machine

theorem State.freeBank_inv {cmds : List Instr} (s : State) (f : Fin 4) (b : Fin 32) (hI : Inv cmds s) : Inv cmds (State.freeBank s f b) := by
  unfold State.freeBank
  repeat' first
    | with_unfolding_none assumption
    | split
    | (lift_lets; intro)
    | intro _
    | with_reducible apply State.updBank_inv
    | with_reducible apply foldl_inv
    | dsimp +zetaDelta only
    | (with_reducible refine Inv.mk_inv ?_; show Inv cmds _)

theorem State.dropHeadlands_inv {cmds : List Instr} (s : State) (f : Fin 4) (hI : Inv cmds s) : Inv cmds (State.dropHeadlands s f) := by
  unfold State.dropHeadlands
  repeat' first
    | with_unfolding_none assumption
    | split
    | (lift_lets; intro)
    | intro _
    | with_reducible apply State.updEngine_inv
    | with_reducible apply foldl_inv
    | dsimp +zetaDelta only
    | (with_reducible refine Inv.mk_inv ?_; show Inv cmds _)

theorem State.releaseEmpty_inv {cmds : List Instr} (s : State) (f : Fin 4) (hI : Inv cmds s) : Inv cmds (State.releaseEmpty s f) := by
  unfold State.releaseEmpty
  repeat' first
    | with_unfolding_none assumption
    | split
    | (lift_lets; intro)
    | intro _
    | with_reducible apply State.dropHeadlands_inv
    | with_reducible apply State.freeBank_inv
    | with_reducible apply foldl_inv
    | dsimp +zetaDelta only
    | (with_reducible refine Inv.mk_inv ?_; show Inv cmds _)

theorem State.endMig_inv {cmds : List Instr} (s : State) (fid : Nat) (hI : Inv cmds s) : Inv cmds (State.endMig s fid) := by
  unfold State.endMig
  split
  · exact hI
  · rename_i m _
    have h := State.releaseEmpty_inv
      ((s.updSower fun W => { W with migs := W.migs.filter fun x => x.fid ≠ fid }).updPorts (fieldOf m.src) fun P =>
        { P with own := P.own.filter fun o => o.copy || o.fid != fid }) (fieldOf m.dst) hI
    dsimp only
    split
    · exact State.finish_inv _ _ _ _ _ _ h
    · exact h

end Sys2Proof.Machine
end

