-- ==== Sys2Proof/Laws/InvTrace.lean ====
section
/-! SUPPORT. The invariant through the operations of Machine/Trace.lean: each keeps it. -/

set_option linter.unusedTactic false
set_option linter.unreachableTactic false

namespace Sys2Proof.Machine

theorem State.countPacket_inv {cmds : List Instr} (s : State) (n : Nat) (hI : Inv cmds s) : Inv cmds (State.countPacket s n) := by
  unfold State.countPacket
  repeat' first
    | with_unfolding_none assumption
    | split
    | (lift_lets; intro)
    | intro _
    | with_reducible apply State.count_inv
    | with_reducible apply foldl_inv
    | dsimp +zetaDelta only
    | (with_reducible refine Inv.mk_inv ?_; show Inv cmds _)

theorem State.emit_inv {cmds : List Instr} (s : State) (g : Fin 96) (furrow : Nat) (c : Ctx) (p : List DWord) (hI : Inv cmds s) : Inv cmds (State.emit s g furrow c p) := by
  unfold State.emit
  repeat' first
    | with_unfolding_none assumption
    | split
    | (lift_lets; intro)
    | intro _
    | with_reducible apply State.updDbg_inv
    | with_reducible apply State.updEngine_inv
    | with_reducible apply foldl_inv
    | dsimp +zetaDelta only
    | (with_reducible refine Inv.mk_inv ?_; show Inv cmds _)

theorem State.emitFurrow_inv {cmds : List Instr} (s : State) (g : Fin 96) (fid : Nat) (c : Ctx) (p : List DWord) (hI : Inv cmds s) : Inv cmds (State.emitFurrow s g fid c p) := by
  unfold State.emitFurrow
  repeat' first
    | with_unfolding_none assumption
    | split
    | (lift_lets; intro)
    | intro _
    | with_reducible apply State.emit_inv
    | with_reducible apply State.updEngine_inv
    | with_reducible apply foldl_inv
    | dsimp +zetaDelta only
    | (with_reducible refine Inv.mk_inv ?_; show Inv cmds _)

theorem State.emitFlow_inv {cmds : List Instr} (s : State) (g : Fin 96) (fid : Nat) (c : Ctx) (vector : Nat) (entry retx : Bool) (hI : Inv cmds s) : Inv cmds (State.emitFlow s g fid c vector entry retx) := by
  unfold State.emitFlow
  repeat' first
    | with_unfolding_none assumption
    | split
    | (lift_lets; intro)
    | intro _
    | with_reducible apply State.emitFurrow_inv
    | with_reducible apply State.updEngine_inv
    | with_reducible apply foldl_inv
    | dsimp +zetaDelta only
    | (with_reducible refine Inv.mk_inv ?_; show Inv cmds _)

theorem State.emitSync_inv {cmds : List Instr} (s : State) (g : Fin 96) (fid : Nat) (c : Ctx) (hI : Inv cmds s) : Inv cmds (State.emitSync s g fid c) := by
  unfold State.emitSync
  repeat' first
    | with_unfolding_none assumption
    | split
    | (lift_lets; intro)
    | intro _
    | with_reducible apply State.emitFurrow_inv
    | with_reducible apply State.updEngine_inv
    | with_reducible apply foldl_inv
    | dsimp +zetaDelta only
    | (with_reducible refine Inv.mk_inv ?_; show Inv cmds _)

theorem State.emitEngine_inv {cmds : List Instr} (s : State) (g : Fin 96) (furrow : Nat) (c : Ctx) (p : List DWord) (hI : Inv cmds s) : Inv cmds (State.emitEngine s g furrow c p) := by
  unfold State.emitEngine
  repeat' first
    | with_unfolding_none assumption
    | split
    | (lift_lets; intro)
    | intro _
    | with_reducible apply State.emit_inv
    | with_reducible apply foldl_inv
    | dsimp +zetaDelta only
    | (with_reducible refine Inv.mk_inv ?_; show Inv cmds _)

theorem State.emitHalt_inv {cmds : List Instr} (s : State) (g : Fin 96) (furrow : Nat) (c : Ctx) (cause : BitVec 5) (rel : Bool) (hI : Inv cmds s) : Inv cmds (State.emitHalt s g furrow c cause rel) := by
  unfold State.emitHalt
  repeat' first
    | with_unfolding_none assumption
    | split
    | (lift_lets; intro)
    | intro _
    | with_reducible apply State.emitEngine_inv
    | with_reducible apply foldl_inv
    | dsimp +zetaDelta only
    | (with_reducible refine Inv.mk_inv ?_; show Inv cmds _)

end Sys2Proof.Machine
end

