-- ==== Sys2Proof/Laws/InvRunCtl.lean ====
section
/-! SUPPORT. The invariant through the operations of Machine/RunCtl.lean: each keeps it. -/

set_option linter.unusedTactic false
set_option linter.unreachableTactic false

namespace Sys2Proof.Machine

theorem State.breakHold_inv {cmds : List Instr} (s : State) (g : Fin 96) (hI : Inv cmds s) : Inv cmds (State.breakHold s g) := by
  unfold State.breakHold
  repeat' first
    | with_unfolding_none assumption
    | split
    | (lift_lets; intro)
    | intro _
    | with_reducible apply State.updEngine_inv
    | with_reducible apply State.updFurrow_inv
    | with_reducible apply foldl_inv
    | dsimp +zetaDelta only
    | (with_reducible refine Inv.mk_inv ?_; show Inv cmds _)

theorem State.noteCs_inv {cmds : List Instr} (s : State) (g : Fin 96) (a : Nat) (hI : Inv cmds s) : Inv cmds (State.noteCs s g a) := by
  unfold State.noteCs
  repeat' first
    | with_unfolding_none assumption
    | split
    | (lift_lets; intro)
    | intro _
    | with_reducible apply State.updEngine_inv
    | with_reducible apply foldl_inv
    | dsimp +zetaDelta only
    | (with_reducible refine Inv.mk_inv ?_; show Inv cmds _)

theorem State.csFetch_inv {cmds : List Instr} {s : State} {g : Fin 96} {a : Nat} {r : State} (hr : s.csFetch g a = some r) (hI : Inv cmds s) :
    Inv cmds r := by
  unfold State.csFetch at hr
  split at hr
  · cases hr; exact hI
  · cases hr; exact State.noteCs_inv s g a hI
  · cases hr

theorem State.applyFreeze_inv {cmds : List Instr} (s : State) (f : Fin 4) (hI : Inv cmds s) : Inv cmds (State.applyFreeze s f) := by
  unfold State.applyFreeze
  repeat' first
    | with_unfolding_none assumption
    | split
    | (lift_lets; intro)
    | intro _
    | with_reducible apply State.mapFieldDrills_inv
    | with_reducible apply State.updAlm_inv
    | with_reducible apply State.updField_inv
    | with_reducible apply foldl_inv
    | dsimp +zetaDelta only
    | (with_reducible refine Inv.mk_inv ?_; show Inv cmds _)

end Sys2Proof.Machine
end

