-- ==== Sys2Proof/Laws/InvPlace.lean ====
section
/-! SUPPORT. The invariant through the operations of Machine/Place.lean: each keeps it. -/

set_option linter.unusedTactic false
set_option linter.unreachableTactic false

namespace Sys2Proof.Machine

theorem State.takeAlloc_inv {cmds : List Instr} (s : State) (g : Fin 96) (a : Alloc) (hI : Inv cmds s) : Inv cmds (State.takeAlloc s g a) := by
  unfold State.takeAlloc
  repeat' first
    | with_unfolding_none assumption
    | split
    | (lift_lets; intro)
    | intro _
    | with_reducible apply State.plotWrite_inv
    | with_reducible apply State.updBank_inv
    | with_reducible apply State.updEngine_inv
    | with_reducible apply foldl_inv
    | dsimp +zetaDelta only
    | (with_reducible refine Inv.mk_inv ?_; show Inv cmds _)

theorem State.fillAlloc_inv {cmds : List Instr} (s : State) (f : Fin 4) (a : Alloc) (hI : Inv cmds s) : Inv cmds (State.fillAlloc s f a) := by
  unfold State.fillAlloc
  repeat' first
    | with_unfolding_none assumption
    | split
    | (lift_lets; intro)
    | intro _
    | with_reducible apply State.zeroBank_inv
    | with_reducible apply State.zeroFill_inv
    | with_reducible apply foldl_inv
    | dsimp +zetaDelta only
    | (with_reducible refine Inv.mk_inv ?_; show Inv cmds _)

theorem State.releasePlot_inv {cmds : List Instr} (s : State) (fid : Nat) (hI : Inv cmds s) : Inv cmds (State.releasePlot s fid) := by
  unfold State.releasePlot
  repeat' first
    | with_unfolding_none assumption
    | split
    | (lift_lets; intro)
    | intro _
    | with_reducible apply State.releaseEmpty_inv
    | with_reducible apply State.updFurrow_inv
    | with_reducible apply foldl_inv
    | dsimp +zetaDelta only
    | (with_reducible refine Inv.mk_inv ?_; show Inv cmds _)

theorem State.wake_inv {cmds : List Instr} (s : State) (g : Fin 96) (hI : Inv cmds s) : Inv cmds (State.wake s g) := by
  unfold State.wake
  repeat' first
    | with_unfolding_none assumption
    | split
    | (lift_lets; intro)
    | intro _
    | with_reducible apply State.emitEngine_inv
    | with_reducible apply State.updEngine_inv
    | with_reducible apply foldl_inv
    | dsimp +zetaDelta only
    | (with_reducible refine Inv.mk_inv ?_; show Inv cmds _)

theorem State.leaveEngine_inv {cmds : List Instr} (s : State) (fid : Nat) (g : Fin 96) (hI : Inv cmds s) : Inv cmds (State.leaveEngine s fid g) := by
  unfold State.leaveEngine
  repeat' first
    | with_unfolding_none assumption
    | split
    | (lift_lets; intro)
    | intro _
    | with_reducible apply State.updEngine_inv
    | with_reducible apply foldl_inv
    | dsimp +zetaDelta only
    | (with_reducible refine Inv.mk_inv ?_; show Inv cmds _)

theorem State.joinEngine_inv {cmds : List Instr} (s : State) (fid : Nat) (g : Fin 96) (hI : Inv cmds s) : Inv cmds (State.joinEngine s fid g) := by
  unfold State.joinEngine
  repeat' first
    | with_unfolding_none assumption
    | split
    | (lift_lets; intro)
    | intro _
    | with_reducible apply State.updEngine_inv
    | with_reducible apply State.wake_inv
    | with_reducible apply foldl_inv
    | dsimp +zetaDelta only
    | (with_reducible refine Inv.mk_inv ?_; show Inv cmds _)

theorem State.putExtent0_inv {cmds : List Instr} (s : State) (f : Fin 4) (e : List Extent) (off : Nat) (l : List Byte) (hI : Inv cmds s) : Inv cmds (State.putExtent0 s f e off l) := by
  unfold State.putExtent0
  repeat' first
    | with_unfolding_none assumption
    | split
    | (lift_lets; intro)
    | intro _
    | with_reducible apply State.plotWrite_inv
    | with_reducible apply foldl_inv
    | dsimp +zetaDelta only
    | (with_reducible refine Inv.mk_inv ?_; show Inv cmds _)

theorem State.startOn_inv {cmds : List Instr} (s : State) (fid : Nat) (g : Fin 96) (extents : List Extent) (code : Option (List Byte)) (cause : Nat) (hI : Inv cmds s) : Inv cmds (State.startOn s fid g extents code cause) := by
  unfold State.startOn
  repeat' first
    | with_unfolding_none assumption
    | split
    | (lift_lets; intro)
    | intro _
    | with_reducible apply State.joinEngine_inv
    | with_reducible apply State.putExtent0_inv
    | with_reducible apply State.updFurrow_inv
    | with_reducible apply foldl_inv
    | dsimp +zetaDelta only
    | (with_reducible refine Inv.mk_inv ?_; show Inv cmds _)

theorem State.handOver_inv {cmds : List Instr} (s : State) (F : Furrow) (g : Fin 96) (hI : Inv cmds s) : Inv cmds (State.handOver s F g) := by
  unfold State.handOver
  repeat' first
    | with_unfolding_none assumption
    | split
    | (lift_lets; intro)
    | intro _
    | with_reducible apply State.updBank_inv
    | with_reducible apply foldl_inv
    | dsimp +zetaDelta only
    | (with_reducible refine Inv.mk_inv ?_; show Inv cmds _)

theorem State.adopt_inv {cmds : List Instr} (s : State) (F : Furrow) (g : Fin 96) (hI : Inv cmds s) : Inv cmds (State.adopt s F g) := by
  unfold State.adopt
  repeat' first
    | with_unfolding_none assumption
    | split
    | (lift_lets; intro)
    | intro _
    | with_reducible apply State.updBank_inv
    | with_reducible apply foldl_inv
    | dsimp +zetaDelta only
    | (with_reducible refine Inv.mk_inv ?_; show Inv cmds _)

theorem State.copyBad_inv {cmds : List Instr} (s : State) (f : Fin 4) (a : Nat) (g : Fin 4) (b n : Nat) (hI : Inv cmds s) :
    Inv cmds (State.copyBad s f a g b n) := by
  induction n generalizing s a b with
  | zero => exact hI
  | succ n ih =>
    unfold State.copyBad
    apply ih
    split
    · exact hI
    · exact hI
    · exact State.setEcc_inv _ _ _ _ hI

theorem State.copyRange_inv {cmds : List Instr} (s : State) (f : Fin 4) (a : Nat) (g : Fin 4) (b n : Nat) (hI : Inv cmds s) :
    Inv cmds (State.copyRange s f a g b n) :=
  State.copyBad_inv _ _ _ _ _ _ (State.plotWrite_inv _ _ _ _ (State.noteRange_inv _ _ _ _ _ hI))

theorem State.copyExtents_inv {cmds : List Instr} (s : State) (f : Fin 4) (old new : List Extent) (hI : Inv cmds s) :
    Inv cmds (State.copyExtents s f old new) :=
  foldl_inv hI fun t p h => State.copyRange_inv t f p.1.base f p.2.base p.1.len h

theorem State.restartOn_inv {cmds : List Instr} (s : State) (fid : Nat) (g : Fin 96) (only : Option Word) (code : List Byte) (cause : Option Nat) (hI : Inv cmds s) : Inv cmds (State.restartOn s fid g only code cause) := by
  unfold State.restartOn
  repeat' first
    | with_unfolding_none assumption
    | split
    | (lift_lets; intro)
    | intro _
    | with_reducible apply State.adopt_inv
    | with_reducible apply State.copyExtents_inv
    | with_reducible apply State.fillAlloc_inv
    | with_reducible apply State.handOver_inv
    | with_reducible apply State.releaseEmpty_inv
    | with_reducible apply State.releasePlot_inv
    | with_reducible apply State.startOn_inv
    | with_reducible apply State.takeAlloc_inv
    | with_reducible apply State.updFurrow_inv
    | with_reducible apply foldl_inv
    | dsimp +zetaDelta only
    | (with_reducible refine Inv.mk_inv ?_; show Inv cmds _)

theorem State.abortJobs_inv {cmds : List Instr} (s : State) (fid : Nat) (hI : Inv cmds s) : Inv cmds (State.abortJobs s fid) := by
  unfold State.abortJobs
  repeat' first
    | with_unfolding_none assumption
    | split
    | (lift_lets; intro)
    | intro _
    | with_reducible apply foldl_inv
    | dsimp +zetaDelta only
    | (with_reducible refine Inv.mk_inv ?_; show Inv cmds _)

theorem State.takeOff_inv {cmds : List Instr} (s : State) (fid : Nat) (st : FurrowSt) (hI : Inv cmds s) : Inv cmds (State.takeOff s fid st) := by
  unfold State.takeOff
  repeat' first
    | with_unfolding_none assumption
    | split
    | (lift_lets; intro)
    | intro _
    | with_reducible apply State.abortJobs_inv
    | with_reducible apply State.breakHold_inv
    | with_reducible apply State.endMig_inv
    | with_reducible apply State.leaveEngine_inv
    | with_reducible apply State.updFurrow_inv
    | with_reducible apply foldl_inv
    | dsimp +zetaDelta only
    | (with_reducible refine Inv.mk_inv ?_; show Inv cmds _)

theorem State.restartLater_inv {cmds : List Instr} (s : State) (fid how : Nat) (hI : Inv cmds s) : Inv cmds (State.restartLater s fid how) := by
  unfold State.restartLater
  repeat' first
    | with_unfolding_none assumption
    | split
    | (lift_lets; intro)
    | intro _
    | with_reducible apply State.takeOff_inv
    | with_reducible apply State.updSower_inv
    | with_reducible apply foldl_inv
    | dsimp +zetaDelta only
    | (with_reducible refine Inv.mk_inv ?_; show Inv cmds _)

theorem State.loseFurrow_inv {cmds : List Instr} (s : State) (fid cause : Nat) (lostField : Option (Fin 4)) (hI : Inv cmds s) : Inv cmds (State.loseFurrow s fid cause lostField) := by
  unfold State.loseFurrow
  repeat' first
    | with_unfolding_none assumption
    | split
    | (lift_lets; intro)
    | intro _
    | with_reducible apply State.log_inv
    | with_reducible apply State.restartLater_inv
    | with_reducible apply State.takeOff_inv
    | with_reducible apply foldl_inv
    | dsimp +zetaDelta only
    | (with_reducible refine Inv.mk_inv ?_; show Inv cmds _)

theorem State.loseAll_inv {cmds : List Instr} (s : State) (g : Fin 96) (cause : Nat) (hI : Inv cmds s) : Inv cmds (State.loseAll s g cause) := by
  unfold State.loseAll
  repeat' first
    | with_unfolding_none assumption
    | split
    | (lift_lets; intro)
    | intro _
    | with_reducible apply State.loseFurrow_inv
    | with_reducible apply foldl_inv
    | dsimp +zetaDelta only
    | (with_reducible refine Inv.mk_inv ?_; show Inv cmds _)

end Sys2Proof.Machine
end

