-- ==== Sys2Proof/Laws/InvHalts.lean ====
section
/-! SUPPORT. The invariant through the operations of Machine/Halts.lean: each keeps it. -/

set_option linter.unusedTactic false
set_option linter.unreachableTactic false
set_option linter.tactic.unusedName false

namespace Sys2Proof.Machine

theorem State.quiesceAbort_inv {cmds : List Instr} (s : State) (fid : Nat) (hI : Inv cmds s) : Inv cmds (State.quiesceAbort s fid) := by
  unfold State.quiesceAbort
  repeat' first
    | with_unfolding_none assumption
    | (extract_lets +onlyGivenNames s1; refine (fun (h : Inv cmds s1) => ?_) ?_; on_goal 1 => clear_value s1; on_goal 2 => (unfold s1; clear s1))
    | split
    | extract_lets +onlyGivenNames x1
    | intro _
    | with_reducible apply State.endMig_inv
    | with_reducible apply State.log_inv
    | with_reducible apply State.loseFurrow_inv
    | with_reducible apply State.updFurrow_inv
    | with_reducible apply State.updSower_inv
    | with_reducible apply foldl_inv
    | dsimp only
    | (with_reducible refine Inv.mk_inv ?_; show Inv cmds _)

theorem State.haltOne_inv {cmds : List Instr} (s : State) (g : Fin 96) (cause : BitVec 5) (hI : Inv cmds s) : Inv cmds (State.haltOne s g cause) := by
  unfold State.haltOne
  repeat' first
    | with_unfolding_none assumption
    | (extract_lets +onlyGivenNames s1; refine (fun (h : Inv cmds s1) => ?_) ?_; on_goal 1 => clear_value s1; on_goal 2 => (unfold s1; clear s1))
    | split
    | extract_lets +onlyGivenNames x1
    | intro _
    | with_reducible apply State.applyFreeze_inv
    | with_reducible apply State.breakHold_inv
    | with_reducible apply State.emitHalt_inv
    | with_reducible apply State.quiesceAbort_inv
    | with_reducible apply State.updEngine_inv
    | with_reducible apply foldl_inv
    | dsimp only
    | (with_reducible refine Inv.mk_inv ?_; show Inv cmds _)

theorem State.askHalt_inv {cmds : List Instr} (s : State) (g : Fin 96) (cause : BitVec 5) (hI : Inv cmds s) : Inv cmds (State.askHalt s g cause) := by
  unfold State.askHalt
  repeat' first
    | with_unfolding_none assumption
    | (extract_lets +onlyGivenNames s1; refine (fun (h : Inv cmds s1) => ?_) ?_; on_goal 1 => clear_value s1; on_goal 2 => (unfold s1; clear s1))
    | split
    | extract_lets +onlyGivenNames x1
    | intro _
    | with_reducible apply State.haltOne_inv
    | with_reducible apply State.updEngine_inv
    | with_reducible apply foldl_inv
    | dsimp only
    | (with_reducible refine Inv.mk_inv ?_; show Inv cmds _)

theorem State.halt_inv {cmds : List Instr} (s : State) (g : Fin 96) (cause : BitVec 5) (hI : Inv cmds s) : Inv cmds (State.halt s g cause) := by
  unfold State.halt
  repeat' first
    | with_unfolding_none assumption
    | (extract_lets +onlyGivenNames s1; refine (fun (h : Inv cmds s1) => ?_) ?_; on_goal 1 => clear_value s1; on_goal 2 => (unfold s1; clear s1))
    | split
    | extract_lets +onlyGivenNames x1
    | intro _
    | with_reducible apply State.askHalt_inv
    | with_reducible apply State.haltOne_inv
    | with_reducible apply foldl_inv
    | dsimp only
    | (with_reducible refine Inv.mk_inv ?_; show Inv cmds _)

theorem State.takeHalt_inv {cmds : List Instr} (s : State) (g : Fin 96) (hI : Inv cmds s) : Inv cmds (State.takeHalt s g) := by
  unfold State.takeHalt
  repeat' first
    | with_unfolding_none assumption
    | (extract_lets +onlyGivenNames s1; refine (fun (h : Inv cmds s1) => ?_) ?_; on_goal 1 => clear_value s1; on_goal 2 => (unfold s1; clear s1))
    | split
    | extract_lets +onlyGivenNames x1
    | intro _
    | with_reducible apply State.halt_inv
    | with_reducible apply foldl_inv
    | dsimp only
    | (with_reducible refine Inv.mk_inv ?_; show Inv cmds _)

end Sys2Proof.Machine
end

