-- ==== Sys2Proof/Laws/InvExec.lean ====
section
/-! SUPPORT. The invariant through the operations of Machine/Exec.lean: each keeps it. -/

set_option linter.unusedTactic false
set_option linter.unreachableTactic false
set_option linter.tactic.unusedName false

namespace Sys2Proof.Machine


theorem State.noteFound_inv {cmds : List Instr} (s : State) (f : Fin 4) (l : List (Nat × Bool)) (hI : Inv cmds s) : Inv cmds (State.noteFound s f l) := by
  unfold State.noteFound
  repeat' first
    | with_unfolding_none assumption
    | split
    | (lift_lets; intro)
    | intro _
    | with_reducible apply State.noteRead_inv
    | with_reducible (refine State.noteRead_inv_eq (r := (_, _)) (by assumption) ?_)
    | with_reducible apply foldl_inv
    | dsimp +zetaDelta only
    | (with_reducible refine Inv.mk_inv ?_; show Inv cmds _)

theorem State.noteUnits_inv {cmds : List Instr} (s : State) (f : Fin 4) (r : List (Fin 8) × List (Fin 8) × List (Fin 8)) (hI : Inv cmds s) : Inv cmds (State.noteUnits s f r) := by
  unfold State.noteUnits
  repeat' first
    | with_unfolding_none assumption
    | split
    | (lift_lets; intro)
    | intro _
    | with_reducible apply State.updField_inv
    | with_reducible apply foldl_inv
    | dsimp +zetaDelta only
    | (with_reducible refine Inv.mk_inv ?_; show Inv cmds _)

theorem State.unitAct_inv {cmds : List Instr} (s : State) (g : Fin 96) (fid : Nat) (c : Ctx) (pc : Word) (u : Fin 8) (watch : Option Access) (hI : Inv cmds s) : Inv cmds (State.unitAct s g fid c pc u watch) := by
  unfold State.unitAct
  repeat' first
    | with_unfolding_none assumption
    | split
    | (lift_lets; intro)
    | intro _
    | with_reducible apply State.emitFurrow_inv
    | with_reducible apply State.halt_inv
    | with_reducible apply State.updEngine_inv
    | with_reducible apply foldl_inv
    | dsimp +zetaDelta only
    | (with_reducible refine Inv.mk_inv ?_; show Inv cmds _)

theorem State.watch_inv {cmds : List Instr} (s : State) (g : Fin 96) (fid : Nat) (c : Ctx) (pc : Word) (l : List Access) (hI : Inv cmds s) : Inv cmds (State.watch s g fid c pc l) := by
  unfold State.watch
  repeat' first
    | with_unfolding_none assumption
    | split
    | (lift_lets; intro)
    | intro _
    | with_reducible apply State.noteUnits_inv
    | with_reducible apply State.unitAct_inv
    | with_reducible apply foldl_inv
    | dsimp +zetaDelta only
    | (with_reducible refine Inv.mk_inv ?_; show Inv cmds _)

theorem State.stick_inv {cmds : List Instr} (s : State) (g : Fin 96) (code : Fin 8) (hI : Inv cmds s) : Inv cmds (State.stick s g code) :=
  State.updEngine_inv _ _ _ hI

theorem State.fetchEntry_inv {cmds : List Instr} (s : State) (g : Fin 96) (fid : Nat) (hI : Inv cmds s) : Inv cmds (State.fetchEntry s g fid) := by
  unfold State.fetchEntry
  split
  · exact hI
  · split
    · exact hI
    · split
      · exact State.stick_inv _ _ _ hI
      · rename_i h
        exact State.csFetch_inv h hI

theorem Ex.commit_inv {cmds : List Instr} (x : Ex) (hI : Inv cmds x.st) : Inv cmds (Ex.commit x) := by
  unfold Ex.commit
  repeat' first
    | with_unfolding_none assumption
    | (extract_lets +onlyGivenNames s1; refine (fun (h : Inv cmds s1) => ?_) ?_; on_goal 1 => clear_value s1; on_goal 2 => (unfold s1; clear s1))
    | split
    | extract_lets +onlyGivenNames x1
    | intro _
    | with_reducible apply Ex.faulted_inv
    | with_reducible apply State.count_inv
    | with_reducible apply State.emitFlow_inv
    | with_reducible apply State.fetchEntry_inv
    | with_reducible apply State.noteFound_inv
    | with_reducible apply State.takeHalt_inv
    | with_reducible apply State.updEngine_inv
    | with_reducible apply State.updFurrow_inv
    | with_reducible apply State.watch_inv
    | with_reducible apply filter_inv
    | with_reducible apply foldl_inv
    | dsimp only
    | (with_reducible refine Inv.mk_inv ?_; show Inv cmds _)

theorem Ex.partial_inv {cmds : List Instr} (x : Ex) (p : Phase) (hI : Inv cmds x.st) : Inv cmds (Ex.partial_ x p) := by
  unfold Ex.partial_
  repeat' first
    | with_unfolding_none assumption
    | split
    | (lift_lets; intro)
    | intro _
    | with_reducible apply State.noteFound_inv
    | with_reducible apply State.updEngine_inv
    | with_reducible apply State.updFurrow_inv
    | with_reducible apply State.watch_inv
    | with_reducible apply foldl_inv
    | dsimp +zetaDelta only
    | (with_reducible refine Inv.mk_inv ?_; show Inv cmds _)

theorem State.noteMismatch_inv {cmds : List Instr} (s : State) (g : Fin 96) (e : EngFault) (hI : Inv cmds s) : Inv cmds (State.noteMismatch s g e) := by
  unfold State.noteMismatch
  repeat' first
    | with_unfolding_none assumption
    | split
    | (lift_lets; intro)
    | intro _
    | with_reducible apply State.count_inv
    | with_reducible apply State.updEngine_inv
    | with_reducible apply foldl_inv
    | dsimp +zetaDelta only
    | (with_reducible refine Inv.mk_inv ?_; show Inv cmds _)

theorem Ex.faulted_inv {cmds : List Instr} (x : Ex) (s0 : State) (e : EngFault) (hI : Inv cmds x.st) (hI : Inv cmds s0) : Inv cmds (Ex.faulted x s0 e) := by
  unfold Ex.faulted
  repeat' first
    | with_unfolding_none assumption
    | split
    | (lift_lets; intro)
    | intro _
    | with_reducible apply Ex.partial_inv
    | with_reducible apply State.noteFound_inv
    | with_reducible apply State.noteMismatch_inv
    | with_reducible apply State.updEngine_inv
    | with_reducible apply foldl_inv
    | dsimp +zetaDelta only
    | (with_reducible refine Inv.mk_inv ?_; show Inv cmds _)

theorem State.waiting_inv {cmds : List Instr} (s : State) (g : Fin 96) (fid : Nat) (h : Furrow → Furrow) (hI : Inv cmds s) :
    Inv cmds (State.waiting s g fid h) :=
  State.takeHalt_inv _ _ (State.updEngine_inv _ _ _ (State.updFurrow_inv _ _ _ hI))

theorem Ex.stopped_inv {cmds : List Instr} (x : Ex) (s0 : State) (word : Word) (e : Stop) (hx : Inv cmds x.st) (h0 : Inv cmds s0) :
    Inv cmds (x.stopped s0 word e) := by
  have hp : ∀ p, Inv cmds (x.partial_ p) := fun p => Ex.partial_inv x p hx
  have hr : ∀ p : Phase, Inv cmds (if x.keep then x.partial_ p else s0.updEngine x.g fun E => { E with phase := p }) := by
    intro p
    split
    · exact hp p
    · exact h0
  have hk : Inv cmds (if x.keep then x.partial_ .ready else s0) := by
    split
    · exact hp _
    · exact h0
  unfold Ex.stopped
  dsimp only
  split
  · exact Ex.faulted_inv x s0 _ hx h0
  · split
    · rename_i h
      exact State.updEngine_inv _ _ _ (State.issueTxn_inv h (hr _))
    · exact hr _
  · exact hr _
  · exact State.waiting_inv _ _ _ _ h0
  · exact h0
  · exact State.halt_inv _ _ _ h0
  · exact State.takeHalt_inv _ _ (State.updEngine_inv _ _ _ (hp _))
  · exact State.waiting_inv _ _ _ _ h0
  · exact State.stick_inv _ _ _ hk
  · exact State.updEngine_inv _ _ _ hk

/-- The steps of a word keep the invariant of the state that they work on, whether the word completes or stops. -/
def Keeps {α : Type} (cmds : List Instr) (m : M α) : Prop :=
  ∀ x : Ex, Inv cmds x.st → match m x with
    | .ok _ y => Inv cmds y.st
    | .error _ y => Inv cmds y.st

theorem runM_inv {cmds : List Instr} (s : State) (g : Fin 96) (F : Furrow) (word : Word) (m : M Unit) (hm : Keeps cmds m) (hI : Inv cmds s) :
    Inv cmds (runM s g F word m) := by
  have h := hm { enter s g F with eoi := !s.engines[g].csErr.isEmpty && Config.endsEoi word } hI
  unfold runM
  split
  · rename_i e
    rw [e] at h
    exact Ex.commit_inv _ h
  · rename_i e
    rw [e] at h
    exact Ex.stopped_inv _ _ _ _ h hI

end Sys2Proof.Machine
end

