-- ==== Sys2Proof/Laws/InvLocal.lean ====
section
/-! SUPPORT. The invariant through the operations of Machine/Local.lean: each keeps it. -/

set_option linter.unusedTactic false
set_option linter.unreachableTactic false

namespace Sys2Proof.Machine

theorem State.postLine_inv {cmds : List Instr} (s : State) (g : Fin 96) (fid : Nat) (v : Word) (hI : Inv cmds s) : Inv cmds (State.postLine s g fid v) := by
  unfold State.postLine
  repeat' first
    | with_unfolding_none assumption
    | split
    | (lift_lets; intro)
    | intro _
    | with_reducible apply State.updField_inv
    | with_reducible apply foldl_inv
    | dsimp +zetaDelta only
    | (with_reducible refine Inv.mk_inv ?_; show Inv cmds _)

theorem execLinePost3_inv {cmds : List Instr} (g : Fin 96) (v : Word) (s : State) (hI : Inv cmds s) : OutInv cmds (execLinePost3 g v s) := by
  unfold execLinePost3
  show Inv cmds _
  repeat' first
    | with_unfolding_none assumption
    | split
    | (lift_lets; intro)
    | intro _
    | with_reducible apply State.postLine_inv
    | with_reducible apply foldl_inv
    | dsimp +zetaDelta only
    | (with_reducible refine Inv.mk_inv ?_; show Inv cmds _)

theorem execTimeLoRead_inv {cmds : List Instr} (g : Fin 96) (s : State) (hI : Inv cmds s) : OutInv cmds (execTimeLoRead g s) := by
  unfold execTimeLoRead
  show Inv cmds _
  repeat' first
    | with_unfolding_none assumption
    | split
    | (lift_lets; intro)
    | intro _
    | with_reducible apply State.updFurrow_inv
    | with_reducible apply foldl_inv
    | dsimp +zetaDelta only
    | (with_reducible refine Inv.mk_inv ?_; show Inv cmds _)

end Sys2Proof.Machine
end

