-- ==== Sys2Proof/Laws/InvMover.lean ====
section
/-! SUPPORT. The invariant through the operations of Machine/Mover.lean: each keeps it. -/

set_option linter.unusedTactic false
set_option linter.unreachableTactic false

namespace Sys2Proof.Machine

theorem State.updJob_inv {cmds : List Instr} (s : State) (f : Fin 4) (fid : Nat) (idx : Word) (h : Job → Job) (hI : Inv cmds s) : Inv cmds (State.updJob s f fid idx h) := by
  unfold State.updJob
  repeat' first
    | with_unfolding_none assumption
    | split
    | (lift_lets; intro)
    | intro _
    | with_reducible apply State.updPorts_inv
    | with_reducible apply foldl_inv
    | dsimp +zetaDelta only
    | (with_reducible refine Inv.mk_inv ?_; show Inv cmds _)

theorem State.readGood_inv {cmds : List Instr} (s : State) (f : Fin 4) (a n k : Nat) (hI : Inv cmds s) : Inv cmds (s.readGood f a n k).1 := by
  induction k generalizing s a n with
  | zero => exact hI
  | succ k ih =>
    unfold State.readGood
    dsimp only
    split
    · exact hI
    · split
      · rename_i h
        exact State.noteRead_inv_eq (r := (_, _)) h hI
      · rename_i h
        exact ih _ _ _ (State.noteRead_inv_eq (r := (_, _)) h hI)

theorem State.readGood_inv_eq {cmds : List Instr} {s : State} {f : Fin 4} {a n k : Nat} {r : State × List Byte × Bool}
    (hr : s.readGood f a n k = r) (hI : Inv cmds s) : Inv cmds r.1 :=
  hr ▸ State.readGood_inv s f a n k hI

theorem State.moverRead_inv {cmds : List Instr} (s : State) (F : Furrow) (key n : Nat) (hI : Inv cmds s) : Inv cmds (State.moverRead s F key n).1 := by
  unfold State.moverRead
  repeat' first
    | with_unfolding_none assumption
    | split
    | (lift_lets; intro)
    | intro _
    | with_reducible apply State.readGood_inv
    | with_reducible (refine State.readGood_inv_eq (r := (_, _, _)) (by assumption) ?_)
    | with_reducible apply foldl_inv
    | dsimp +zetaDelta only
    | (with_reducible refine Inv.mk_inv ?_; show Inv cmds _)

theorem State.moverRead_inv_eq {cmds : List Instr} {s : State} {F : Furrow} {key n : Nat} {r : State × List Byte × Nat} (hr : State.moverRead s F key n = r) (hI : Inv cmds s) : Inv cmds r.1 :=
  hr ▸ State.moverRead_inv _ _ _ _ hI

theorem State.moverWrite_inv {cmds : List Instr} {s : State} {F : Furrow} {key : Nat} {l : List Byte} {r : State}
    (hr : s.moverWrite F key l = some r) (hI : Inv cmds s) : Inv cmds r := by
  unfold State.moverWrite at hr
  split at hr
  · cases hr; exact hI
  · split at hr
    · cases hr
    · split at hr
      · cases hr; exact State.plotWrite_inv _ _ _ _ hI
      · cases hr

theorem State.jobTxn_inv {cmds : List Instr} (s : State) (f : Fin 4) (j : Job) (write : Bool) (addr n : Nat) (l : List Byte) (hI : Inv cmds s) : Inv cmds (State.jobTxn s f j write addr n l).1 := by
  unfold State.jobTxn
  repeat' first
    | with_unfolding_none assumption
    | split
    | (lift_lets; intro)
    | intro _
    | with_reducible (refine State.issueTxn_inv (r := (_, _)) (by assumption) ?_)
    | with_reducible apply foldl_inv
    | dsimp +zetaDelta only
    | (with_reducible refine Inv.mk_inv ?_; show Inv cmds _)

theorem State.jobStore_inv {cmds : List Instr} (s : State) (F : Furrow) (j : Job) (l : List Byte) (st : Nat) (hI : Inv cmds s) :
    Inv cmds (s.jobStore F j l st).1 := by
  unfold State.jobStore
  split
  · exact hI
  · split
    · rename_i h
      exact State.moverWrite_inv h hI
    · exact hI

theorem State.jobUnit_inv {cmds : List Instr} (s : State) (f : Fin 4) (F : Furrow) (j : Job) (hI : Inv cmds s) : Inv cmds (State.jobUnit s f F j).1 := by
  unfold State.jobUnit
  dsimp only
  split
  · exact hI
  · split
    · split
      · split
        · exact State.jobTxn_inv _ _ _ _ _ _ _ hI
        · exact State.jobStore_inv _ _ _ _ _ hI
      · generalize (if j.dst.1 = true then fabChunk (j.dst.2 + j.moved) (j.len - j.moved) else min 4096 (j.len - j.moved)) = n
        split
        · exact hI
        · have h := State.moverRead_inv s F (j.src.2 + j.moved) n hI
          generalize s.moverRead F (j.src.2 + j.moved) n = r at h
          obtain ⟨t, l, st⟩ := r
          dsimp only
          split
          · exact State.jobStore_inv _ _ _ _ _ h
          · split
            · exact State.jobTxn_inv _ _ _ _ _ _ _ h
            · exact h
    · split
      · exact State.jobTxn_inv _ _ _ _ _ _ _ hI
      · exact State.jobStore_inv _ _ _ _ _ hI
    · split
      · split
        · exact State.jobTxn_inv _ _ _ _ _ _ _ hI
        · split
          · exact hI
          · have h := State.moverRead_inv s F (j.src.2 + j.got.length) (min 4096 (j.len - j.got.length)) hI
            generalize s.moverRead F (j.src.2 + j.got.length) (min 4096 (j.len - j.got.length)) = r at h
            obtain ⟨t, l, st⟩ := r
            exact h
      · split <;> exact hI

theorem State.tryJob_inv {cmds : List Instr} {s : State} {f : Fin 4} {j : Job} {r : State} (hr : s.tryJob f j = some r) (hI : Inv cmds s) :
    Inv cmds r := by
  unfold State.tryJob at hr
  split at hr
  · cases hr
  · rename_i F _
    dsimp only at hr
    split at hr
    · cases hr
    · cases hr
      exact State.updJob_inv _ _ _ _ _ (State.jobUnit_inv _ _ _ _ hI)

theorem State.moverTurn_inv {cmds : List Instr} {s : State} {f : Fin 4} {r : State} (hr : s.moverTurn f = some r) (hI : Inv cmds s) :
    Inv cmds r := by
  unfold State.moverTurn at hr
  obtain ⟨e, _, he⟩ := List.exists_of_findSome?_eq_some hr
  rw [Option.map_eq_some_iff] at he
  obtain ⟨t, ht, rfl⟩ := he
  obtain ⟨j, _, hj⟩ := List.exists_of_findSome?_eq_some ht
  exact State.updPorts_inv _ _ _ (State.tryJob_inv hj hI)

theorem State.moverTurns_inv {cmds : List Instr} (s : State) (f : Fin 4) (go : State → Bool) (n : Nat) (hI : Inv cmds s) :
    Inv cmds (s.moverTurns f go n) := by
  induction n generalizing s with
  | zero => exact hI
  | succ n ih =>
    unfold State.moverTurns
    split
    · split
      · rename_i h
        exact ih _ (State.moverTurn_inv h hI)
      · exact hI
    · exact hI

theorem State.moverData_inv {cmds : List Instr} (s : State) (f : Fin 4) (fid : Nat) (idx : Word) (n : Nat) (r : Reply) (hI : Inv cmds s) : Inv cmds (State.moverData s f fid idx n r) := by
  unfold State.moverData
  repeat' first
    | with_unfolding_none assumption
    | split
    | (lift_lets; intro)
    | intro _
    | with_reducible (refine State.moverWrite_inv (by assumption) ?_)
    | with_reducible apply State.updJob_inv
    | with_reducible apply foldl_inv
    | dsimp +zetaDelta only
    | (with_reducible refine Inv.mk_inv ?_; show Inv cmds _)

theorem State.moverWrote_inv {cmds : List Instr} (s : State) (f : Fin 4) (fid : Nat) (idx : Word) (n : Nat) (resp : BitVec 3) (hI : Inv cmds s) : Inv cmds (State.moverWrote s f fid idx n resp) := by
  unfold State.moverWrote
  repeat' first
    | with_unfolding_none assumption
    | split
    | (lift_lets; intro)
    | intro _
    | with_reducible apply State.updJob_inv
    | with_reducible apply foldl_inv
    | dsimp +zetaDelta only
    | (with_reducible refine Inv.mk_inv ?_; show Inv cmds _)

theorem State.putRecord_inv {cmds : List Instr} {s : State} {F : Furrow} {h need : Nat} {hdr data : List Byte} {r : State}
    (hr : s.putRecord F h need hdr data = some (some r)) (hI : Inv cmds s) : Inv cmds r := by
  unfold State.putRecord at hr
  dsimp only at hr
  repeat' split at hr
  all_goals first
    | (simp at hr; done)
    | (have e := Option.some.inj (Option.some.inj hr)
       rw [← e]
       apply State.putHeader_inv
       apply State.plotWrite_inv
       first
         | exact hI
         | exact State.plotWrite_inv _ _ _ _ hI)

theorem State.deliver_inv {cmds : List Instr} {s : State} {F : Furrow} {j : Job} {r : State × Nat}
    (hr : s.deliver F j = some r) (hI : Inv cmds s) : Inv cmds r.1 := by
  unfold State.deliver at hr
  split at hr
  · cases hr; exact hI
  · split at hr
    · cases hr
    · split at hr
      · cases hr; exact hI
      · split at hr
        · rename_i h
          cases hr
          exact State.putRecord_inv h hI
        · cases hr; exact hI
        · cases hr; exact hI

theorem State.takeJob_inv {cmds : List Instr} (s : State) (f : Fin 4) (F : Furrow) (j : Job) (hI : Inv cmds s) : Inv cmds (s.takeJob f F j) := by
  unfold State.takeJob
  have h := State.putHeader_inv (s.updRing F.id 8 fun r => { r with fetched := j.idx + 1 }) F 8 4 (j.idx + 1) (State.updRing_inv _ _ _ _ hI)
  extract_lets a b c
  have hc : Inv cmds c := State.updPorts_inv b f _ h
  cases hm : c.moverTurn f with
  | none => exact hc
  | some v => exact State.moverTurn_inv hm hc

theorem execMoverDescriptorStart_inv {cmds : List Instr} (fid : Nat) (s : State) (hI : Inv cmds s) : OutInv cmds (execMoverDescriptorStart fid s) := by
  unfold execMoverDescriptorStart
  show Inv cmds _
  split
  · exact hI
  · rename_i F _
    split
    · rename_i f r _ _
      dsimp only
      split
      · exact hI
      · rename_i d _
        have h := State.moverRead_inv s F (extKey r.ext (r.off + r.fetched.toNat % 2 ^ r.size * 64)) 64 hI
        generalize s.moverRead F (extKey r.ext (r.off + r.fetched.toNat % 2 ^ r.size * 64)) 64 = q at h
        obtain ⟨t, l, st⟩ := q
        have both : ∀ (c : Prop) [Decidable c] (a b : State), Inv cmds a → Inv cmds b → Inv cmds (if c then a else b) := by
          intro c _ a b ha hb
          split
          · exact ha
          · exact hb
        exact both _ _ _ hI (State.takeJob_inv _ _ _ _ h)
    · exact hI

theorem State.spoilRest_inv {cmds : List Instr} (s : State) (F : Furrow) (j : Job) (hI : Inv cmds s) : Inv cmds (s.spoilRest F j) := by
  unfold State.spoilRest
  split
  · have h := State.fresh_inv s (8 * (j.len - j.moved)) hI
    generalize hr : s.fresh (8 * (j.len - j.moved)) = r at h
    obtain ⟨r, t⟩ := r
    dsimp only
    rw [hr]
    dsimp only
    generalize hm : t.moverWrite F _ _ = m
    cases m with
    | none => exact hI
    | some v => exact State.moverWrite_inv hm h
  · exact hI

theorem State.endJob_inv {cmds : List Instr} (s : State) (f : Fin 4) (F : Furrow) (j : Job) (hI : Inv cmds s) : Inv cmds (State.endJob s f F j) := by
  unfold State.endJob
  have h := State.spoilRest_inv s F j hI
  generalize s.spoilRest F j = t at h
  dsimp only
  have h' : Inv cmds (match t.moverWrite F (j.slotAddr + 48) (completionBytes j t.now) with
      | some u => u
      | none => t) := by
    split
    · rename_i hm
      exact State.moverWrite_inv hm h
    · exact h
  split
  · exact State.latch_inv _ _ _ (State.count_inv _ _ _ _ (State.count_inv _ _ _ _ (State.updPorts_inv _ _ _ h')))
  · exact State.count_inv _ _ _ _ (State.count_inv _ _ _ _ (State.updPorts_inv _ _ _ h'))

theorem State.completeJob_inv {cmds : List Instr} (s : State) (f : Fin 4) (F : Furrow) (j : Job) (hI : Inv cmds s) :
    Inv cmds (s.completeJob f F j) := by
  unfold State.completeJob
  split
  · exact hI
  · split
    · split
      · exact State.updPorts_inv _ _ _ hI
      · split
        · exact hI
        · rename_i h
          exact State.endJob_inv _ _ _ _ (State.deliver_inv h hI)
    · exact State.endJob_inv _ _ _ _ hI

theorem execMoverCompletion_inv {cmds : List Instr} (fid : Nat) (idx : Word) (s : State) (hI : Inv cmds s) : OutInv cmds (execMoverCompletion fid idx s) := by
  unfold execMoverCompletion
  show Inv cmds _
  split
  · exact hI
  · rename_i f _
    have h := State.moverTurns_inv s f (fun s => ((s.job? f fid idx).map fun j => !j.worked) == some true) (s.unitsLeft f) hI
    generalize s.moverTurns f (fun s => ((s.job? f fid idx).map fun j => !j.worked) == some true) (s.unitsLeft f) = t at h
    dsimp only
    split
    · split
      · exact State.completeJob_inv _ _ _ _ h
      · exact h
    · exact h

theorem State.copyPart_inv {cmds : List Instr} (s : State) (f g : Fin 4) (l : List (Extent × Extent)) (lo n : Nat) (hI : Inv cmds s) :
    Inv cmds (s.copyPart f g l lo n) := by
  induction l generalizing s lo n with
  | nil => exact hI
  | cons p l ih =>
    unfold State.copyPart
    split
    · exact ih _ _ _ hI
    · exact ih _ _ _ (State.copyRange_inv _ _ _ _ _ _ hI)

theorem State.moveUnit_inv {cmds : List Instr} (s : State) (fid lo n : Nat) (hI : Inv cmds s) : Inv cmds (s.moveUnit fid lo n) := by
  unfold State.moveUnit
  split
  · exact State.copyPart_inv _ _ _ _ _ _ hI
  · exact hI

theorem State.crossUnit_inv {cmds : List Instr} (s : State) (f : Fin 4) (ord : Nat) (hI : Inv cmds s) : Inv cmds (s.crossUnit f ord) := by
  have hb (s : State) (t : Fin 4) (n : Nat) (h : Inv cmds s) : Inv cmds ((s.count 3 (f.val * 5 + 3) n).count 3 (t.val * 5 + 4) n) :=
    State.count_inv _ _ _ _ (State.count_inv _ _ _ _ h)
  unfold State.crossUnit
  dsimp only
  split
  · split
    · exact hb _ _ _ (State.updJob_inv _ _ _ _ _ hI)
    · exact State.updJob_inv _ _ _ _ _ hI
  · split
    · exact hI
    · apply hb
      split
      · exact State.updPorts_inv _ _ _ hI
      · exact State.moveUnit_inv _ _ _ _ (State.updPorts_inv _ _ _ hI)

theorem execBridgeGrant_inv {cmds : List Instr} (s : State) (hI : Inv cmds s) : OutInv cmds (execBridgeGrant s) := by
  unfold execBridgeGrant
  show Inv cmds _
  split
  · exact hI
  · split
    · exact hI
    · exact State.crossUnit_inv _ _ _ (show Inv cmds { s with bridgeRr := _ } from hI)

theorem State.landUnits_inv {cmds : List Instr} (s : State) (t : Fin 4) (j : Job) (hI : Inv cmds s) : Inv cmds (s.landUnits t j) := by
  unfold State.landUnits
  split
  · exact hI
  · split
    · exact hI
    · dsimp only
      split
      · exact hI
      · split
        · exact hI
        · exact State.plotWrite_inv _ _ _ _ hI

theorem State.bridgeAbort_inv {cmds : List Instr} (s : State) (f : Fin 4) (hI : Inv cmds s) : Inv cmds (State.bridgeAbort s f) := by
  unfold State.bridgeAbort
  dsimp only
  apply Inv.mk_inv
  refine foldl_inv (s := s) hI fun t k h => foldl_inv h fun u j h => ?_
  split
  · exact State.landUnits_inv _ _ _ h
  · exact h

theorem State.pumpDump_inv {cmds : List Instr} (s : State) (n : Nat) (hI : Inv cmds s) : Inv cmds (s.pumpDump n) := by
  induction n generalizing s with
  | zero => exact hI
  | succ n ih =>
    unfold State.pumpDump
    dsimp only
    split
    · exact hI
    · split
      · exact hI
      · rename_i h
        exact ih _ (State.updDbg_inv _ _ (State.issueTxn_inv (r := (_, _)) h hI))

end Sys2Proof.Machine
end

