-- ==== Sys2Proof/Laws/InvRepair.lean ====
section
/-! SUPPORT. The invariant through the operations of Machine/Repair.lean: each keeps it. -/

set_option linter.unusedTactic false
set_option linter.unreachableTactic false

namespace Sys2Proof.Machine

theorem State.remapRow_inv {cmds : List Instr} (s : State) (f : Fin 4) (b : Fin 32) (row : Nat) (hI : Inv cmds s) : Inv cmds (State.remapRow s f b row) := by
  unfold State.remapRow
  repeat' first
    | with_unfolding_none assumption
    | split
    | (lift_lets; intro)
    | intro _
    | with_reducible apply State.updBank_inv
    | with_reducible apply State.updField_inv
    | with_reducible apply State.updSeed_inv
    | with_reducible apply foldl_inv
    | dsimp +zetaDelta only
    | (with_reducible refine Inv.mk_inv ?_; show Inv cmds _)

theorem State.badSpares_inv {cmds : List Instr} (s : State) (f : Fin 4) (b : Fin 32) (failing : List Nat) (hI : Inv cmds s) : Inv cmds (State.badSpares s f b failing) := by
  unfold State.badSpares
  repeat' first
    | with_unfolding_none assumption
    | split
    | (lift_lets; intro)
    | intro _
    | with_reducible apply State.updBank_inv
    | with_reducible apply State.updSeed_inv
    | with_reducible apply foldl_inv
    | dsimp +zetaDelta only
    | (with_reducible refine Inv.mk_inv ?_; show Inv cmds _)

theorem State.retireBank_inv {cmds : List Instr} (s : State) (f : Fin 4) (b : Fin 32) (hI : Inv cmds s) : Inv cmds (State.retireBank s f b) := by
  unfold State.retireBank
  repeat' first
    | with_unfolding_none assumption
    | split
    | (lift_lets; intro)
    | intro _
    | with_reducible apply State.updBank_inv
    | with_reducible apply State.updSeed_inv
    | with_reducible apply foldl_inv
    | dsimp +zetaDelta only
    | (with_reducible refine Inv.mk_inv ?_; show Inv cmds _)

theorem State.passBank_inv {cmds : List Instr} (s : State) (f : Fin 4) (b : Fin 32) (hI : Inv cmds s) : Inv cmds (State.passBank s f b) := by
  unfold State.passBank
  repeat' first
    | with_unfolding_none assumption
    | split
    | (lift_lets; intro)
    | intro _
    | with_reducible apply State.updBank_inv
    | with_reducible apply State.updSeed_inv
    | with_reducible apply State.zeroBank_inv
    | with_reducible apply foldl_inv
    | dsimp +zetaDelta only
    | (with_reducible refine Inv.mk_inv ?_; show Inv cmds _)

theorem State.logRows_inv {cmds : List Instr} (s : State) (f : Fin 4) (b : Fin 32) (failing : List Nat) (hI : Inv cmds s) : Inv cmds (State.logRows s f b failing) := by
  unfold State.logRows
  repeat' first
    | with_unfolding_none assumption
    | split
    | (lift_lets; intro)
    | intro _
    | with_reducible apply State.log_inv
    | with_reducible apply foldl_inv
    | dsimp +zetaDelta only
    | (with_reducible refine Inv.mk_inv ?_; show Inv cmds _)

theorem State.remapFlagged_inv {cmds : List Instr} (s : State) (f : Fin 4) (b : Fin 32) (hI : Inv cmds s) : Inv cmds (State.remapFlagged s f b).1 := by
  unfold State.remapFlagged
  repeat' first
    | with_unfolding_none assumption
    | split
    | (lift_lets; intro)
    | intro _
    | with_reducible apply State.remapRow_inv
    | with_reducible apply State.retireBank_inv
    | with_reducible apply State.updSeed_inv
    | with_reducible apply foldl_inv
    | dsimp +zetaDelta only
    | (with_reducible refine Inv.mk_inv ?_; show Inv cmds _)

theorem State.remapFlagged_inv_eq {cmds : List Instr} {s : State} {f : Fin 4} {b : Fin 32} {r : State × Bool} (hr : State.remapFlagged s f b = r) (hI : Inv cmds s) : Inv cmds r.1 :=
  hr ▸ State.remapFlagged_inv _ _ _ hI

theorem State.destructiveTest_inv {cmds : List Instr} (s : State) (f : Fin 4) (b : Fin 32) (failing : List Nat) (again : Bool) (hI : Inv cmds s) : Inv cmds (State.destructiveTest s f b failing again).1 := by
  unfold State.destructiveTest
  repeat' first
    | with_unfolding_none assumption
    | split
    | (lift_lets; intro)
    | intro _
    | with_reducible apply State.badSpares_inv
    | with_reducible apply State.logRows_inv
    | with_reducible apply State.passBank_inv
    | with_reducible apply State.remapRow_inv
    | with_reducible apply State.retireBank_inv
    | with_reducible apply foldl_inv
    | dsimp +zetaDelta only
    | (with_reducible refine Inv.mk_inv ?_; show Inv cmds _)

theorem State.destructiveTest_inv_eq {cmds : List Instr} {s : State} {f : Fin 4} {b : Fin 32} {failing : List Nat} {again : Bool} {r : State × Bool} (hr : State.destructiveTest s f b failing again = r) (hI : Inv cmds s) : Inv cmds r.1 :=
  hr ▸ State.destructiveTest_inv _ _ _ _ _ hI

theorem State.startTest_inv {cmds : List Instr} (s : State) (f : Fin 4) (defects : List (Nat × List Nat)) (hI : Inv cmds s) : Inv cmds (State.startTest s f defects) := by
  unfold State.startTest
  repeat' first
    | with_unfolding_none assumption
    | split
    | (lift_lets; intro)
    | intro _
    | with_reducible apply State.destructiveTest_inv
    | with_reducible (refine State.destructiveTest_inv_eq (r := (_, _)) (by assumption) ?_)
    | with_reducible apply State.remapFlagged_inv
    | with_reducible (refine State.remapFlagged_inv_eq (r := (_, _)) (by assumption) ?_)
    | with_reducible apply foldl_inv
    | dsimp +zetaDelta only
    | (with_reducible refine Inv.mk_inv ?_; show Inv cmds _)

end Sys2Proof.Machine
end

