-- ==== Sys2Proof/Laws/Words.lean ====
section
/-! SUPPORT. What a word that issues undisturbed leaves: the shared path from issue to the boundary after it, once for all words. -/

namespace Sys2Proof.Machine

/-! Furrows -/

theorem find_updWhere (l : List Furrow) (id : Nat) (h : Furrow → Furrow) (hid : ∀ F, (h F).id = F.id) (k : Nat) :
    (updWhere (fun F => F.id == id) h l).find? (fun F => F.id == k) =
      if k = id then (l.find? fun F => F.id == k).map h else l.find? fun F => F.id == k := by
  induction l with
  | nil => split <;> rfl
  | cons a l ih =>
    have e : updWhere (fun F => F.id == id) h (a :: l) =
        (if a.id = id then h a else a) :: updWhere (fun F => F.id == id) h l := by simp [updWhere]
    rw [e, List.find?_cons, List.find?_cons, ih]
    by_cases ha : a.id = id <;> by_cases hk : k = id
    · simp [ha, hk, hid]
    · have h1 : (id == k) = false := by simpa using fun e => hk e.symm
      simp [ha, hk, hid, h1]
    · have h1 : (a.id == id) = false := by simpa using ha
      simp [ha, hk, h1]
    · by_cases h1 : a.id = k <;> simp [ha, hk, h1]

theorem updFurrow_furrow (s : State) (id : Nat) (h : Furrow → Furrow) (hid : ∀ F, (h F).id = F.id) (k : Nat) :
    (s.updFurrow id h).furrow? k = if k = id then (s.furrow? k).map h else s.furrow? k :=
  find_updWhere s.furrows id h hid k

theorem furrow_id {s : State} {k : Nat} {F : Furrow} (h : s.furrow? k = some F) : F.id = k := by
  have := List.find?_some h
  simpa using this

/-! The trace port beside a word -/

/-- Trace packets of an engine and their losses are all that changes. -/
structure TraceOnly (s t : State) (g : Fin 96) : Prop where
  rest : t = { s with engines := t.engines, dbg := t.dbg }
  dbg : t.dbg = { s.dbg with trcLostFull := t.dbg.trcLostFull }
  engine : t.engines[g] = { s.engines[g] with
    traceWords := t.engines[g].traceWords, trace := t.engines[g].trace, traceLost := t.engines[g].traceLost
    traceSync := t.engines[g].traceSync, traceCount := t.engines[g].traceCount }
  engines : ∀ k : Fin 96, k ≠ g → t.engines[k] = s.engines[k]

theorem TraceOnly.refl (s : State) (g : Fin 96) : TraceOnly s s g := ⟨rfl, rfl, rfl, fun _ _ => rfl⟩

theorem TraceOnly.trans {s t u : State} {g : Fin 96} (h : TraceOnly s t g) (h' : TraceOnly t u g) : TraceOnly s u g := by
  refine ⟨?_, ?_, ?_, fun k hk => (h'.engines k hk).trans (h.engines k hk)⟩
  · rw [h'.rest, h.rest]
  · rw [h'.dbg, h.dbg]
  · rw [h'.engine, h.engine]

theorem updEngine_traceOnly (s : State) (g : Fin 96) (f : Engine → Engine)
    (hf : ∀ E, f E = { E with
      traceWords := (f E).traceWords, trace := (f E).trace, traceLost := (f E).traceLost, traceSync := (f E).traceSync
      traceCount := (f E).traceCount }) : TraceOnly s (s.updEngine g f) g := by
  refine ⟨rfl, rfl, ?_, fun k hk => vupd_other _ _ _ _ fun e => hk e.symm⟩
  show (vupd s.engines g f)[g] = _
  have e : ((s.updEngine g f).engines)[g] = f s.engines[g] := vupd_same _ _ _
  rw [vupd_same, e]
  exact hf _

theorem emit_traceOnly (s : State) (g : Fin 96) (n : Nat) (c : Ctx) (p : List DWord) : TraceOnly s (s.emit g n c p) g := by
  unfold State.emit
  extract_lets E pre all
  clear_value all
  split
  · exact updEngine_traceOnly _ _ _ fun _ => rfl
  · refine (updEngine_traceOnly s g _ fun _ => rfl).trans ⟨rfl, rfl, rfl, fun _ _ => rfl⟩

theorem emitFurrow_traceOnly (s : State) (g : Fin 96) (n : Nat) (c : Ctx) (p : List DWord) : TraceOnly s (s.emitFurrow g n c p) g := by
  unfold State.emitFurrow
  dsimp only
  split
  · split
    · exact ((emit_traceOnly _ _ _ _ _).trans (emit_traceOnly _ _ _ _ _)).trans (updEngine_traceOnly _ _ _ fun _ => rfl)
    · exact emit_traceOnly _ _ _ _ _
  · exact TraceOnly.refl _ _

theorem emitFlow_traceOnly (s : State) (g : Fin 96) (n : Nat) (c : Ctx) (v : Nat) (e r : Bool) :
    TraceOnly s (s.emitFlow g n c v e r) g := by
  unfold State.emitFlow
  dsimp only
  split
  · exact (emitFurrow_traceOnly _ _ _ _ _).trans (updEngine_traceOnly _ _ _ fun _ => rfl)
  · exact emitFurrow_traceOnly _ _ _ _ _

/-! Tally -/

theorem count_rest (s : State) (p i n : Nat) : s.count p i n = { s with tally := (s.count p i n).tally } := by
  unfold State.count
  split <;> rfl

/-! The boundary after a word -/

theorem takeHalt_quiet (s : State) (g : Fin 96) (hp : s.engines[g].ctl.pend = false) (hs : s.engines[g].ctl.stepping = false) :
    s.takeHalt g = s := by
  unfold State.takeHalt
  simp only [hp, hs]
  split <;> rfl

theorem watch_quiet (s : State) (g : Fin 96) (n : Nat) (c : Ctx) (pc : Word) (l : List Access)
    (h : ∀ u : Fin 8, bwKind s.fields[fieldOf g].units[u].ctl ≠ 2) : s.watch g n c pc l = s := by
  unfold State.watch
  dsimp only
  rw [if_neg]
  simp only [List.any_eq_true, not_exists, not_and]
  intro u _ a _
  have := h u
  simp only [BwUnit.watchHit]
  have e : (bwKind s.fields[fieldOf g].units[u].ctl == 2) = false := by simpa using this
  rw [e]
  simp

theorem mapGet_mapSet_ne {α : Type} [DecidableEq α] (d : α) (k m : Nat) (v : α) (l : List (Nat × α)) (h : k ≠ m) :
    mapGet d k (mapSet d m v l) = mapGet d k l := by
  unfold mapGet mapSet
  rw [mapFind_put_other _ _ _ _ h]

/-! A word that completes -/

/-- The furrow's registers and the engine's record of a completed word (R119). -/
def Ex.atEnd (x : Ex) : Ctx :=
  let c := if x.jump then x.c else { x.c with pc := x.orig.pc + 4 }
  let c := if x.retx then c else Ctx.land x.orig c x.ld
  { c with nosample := x.nosample }

theorem commit_done {x : Ex} {F : Furrow} {p : Phase} (hF : x.st.furrow? x.F.id = some F) (hid : F.id = x.F.id)
    (hy : x.yields = false) (he : x.eoi = false) (hf : x.found = []) (hp : p = match x.trap with
      | some e => .faulted e
      | none => .ready)
    (hw : ∀ u : Fin 8, bwKind x.st.fields[fieldOf x.g].units[u].ctl ≠ 2) (h1 : x.st.engines[x.g].ctl.pend = false)
    (h2 : x.st.engines[x.g].ctl.stepping = false) :
    WordDone x.st x.commit x.g F x.atEnd x.sh p := by
  let a := x.st.updFurrow x.F.id fun F => { F with ctx := x.atEnd, waitMask := none, mbar := false }
  let b := a.updEngine x.g fun E =>
    { E with
      sheaf := x.sh, data := [], beat := true, micro := none, traceWords := E.traceWords + 1, phase := p
      ctl := { E.ctl with skipBreak := false } }
  let d := b.count 2 (x.g.val * 9 + 2) 1
  have hb : b = a.updEngine x.g fun E =>
      { E with
        sheaf := x.sh, data := [], beat := true, micro := none, traceWords := E.traceWords + 1
        phase := match x.trap with
          | some e => .faulted e
          | none => .ready
        sliceUp := E.sliceUp || x.yields
        order := if x.yields then E.order.filter (· ≠ x.F.id) ++ [x.F.id] else E.order
        ctl := { E.ctl with skipBreak := false } } := by
    simp only [b, hy, hp, Bool.or_false, Bool.false_eq_true, if_false]
  have hn : b.noteFound (fieldOf x.g) x.found = b := by simp [hf, State.noteFound]
  let e := if x.jump then d.emitFlow x.g x.F.id x.atEnd 0 false x.retx else d
  have ht : TraceOnly d e x.g := by
    by_cases hj : x.jump = true
    · simp only [e, hj, if_true]; exact emitFlow_traceOnly _ _ _ _ _ _ _
    · simp only [e, hj]; exact TraceOnly.refl _ _
  have hc : x.commit = (e.watch x.g x.F.id x.atEnd x.atEnd.pc x.acc).takeHalt x.g := by
    unfold Ex.commit
    rw [he]
    simp only [e, d]
    rw [← hn, hb]
    rfl
  have hd : d = { b with tally := d.tally } := count_rest _ _ _ _
  have hde : d.engines = b.engines := by rw [hd]
  have hbg : b.engines[x.g] = { x.st.engines[x.g] with
      sheaf := x.sh, data := [], beat := true, micro := none, traceWords := x.st.engines[x.g].traceWords + 1, phase := p
      ctl := { x.st.engines[x.g].ctl with skipBreak := false } } := vupd_same _ _ _
  have heg : e.engines[x.g] = { x.st.engines[x.g] with
      sheaf := x.sh, data := [], beat := true, micro := none, phase := p, ctl := { x.st.engines[x.g].ctl with skipBreak := false }
      traceWords := e.engines[x.g].traceWords, trace := e.engines[x.g].trace, traceLost := e.engines[x.g].traceLost
      traceSync := e.engines[x.g].traceSync, traceCount := e.engines[x.g].traceCount } := by
    rw [ht.engine, hde, hbg]
  have hfields : e.fields = x.st.fields := by rw [ht.rest, hd]; rfl
  have hq : x.commit = e := by
    rw [hc, watch_quiet e _ _ _ _ _ (by rw [hfields]; exact hw)]
    exact takeHalt_quiet _ _ (by rw [heg]; exact h1) (by rw [heg]; exact h2)
  have hfur : e.furrows = a.furrows := by rw [ht.rest, hd]; rfl
  have ha : ∀ k, a.furrow? k = if k = x.F.id then (x.st.furrow? k).map fun F => { F with ctx := x.atEnd, waitMask := none, mbar := false }
      else x.st.furrow? k := fun k => updFurrow_furrow x.st x.F.id (fun F => { F with ctx := x.atEnd, waitMask := none, mbar := false }) (fun _ => rfl) k
  have hfind : ∀ k, e.furrow? k = a.furrow? k := fun k => by unfold State.furrow?; rw [hfur]
  rw [hq]
  refine ⟨?_, ?_, ?_, ?_, heg, ?_, ?_⟩
  · rw [ht.rest, hd]; rfl
  · rw [ht.dbg, hd]; rfl
  · have h3 : x.st.furrow? F.id = some F := by rw [hid]; exact hF
    rw [hfind, ha, if_pos hid, h3]; rfl
  · intro k hk
    rw [hfind, ha, if_neg (by rw [← hid]; exact hk)]
  · intro k hk
    rw [ht.engines k hk, hde]
    exact vupd_other _ _ _ _ fun e => hk e.symm
  · intro k hk
    have : e.tally = d.tally := by rw [ht.rest]
    rw [this]
    show mapGet 0 k (b.count 2 (x.g.val * 9 + 2) 1).tally = _
    unfold State.count
    split
    · rfl
    · exact mapGet_mapSet_ne _ _ _ _ _ hk

/-! Issue -/

theorem bind_ok {α β : Type} {m : M α} {f : α → M β} {x y : Ex} {a : α} (h : m x = .ok a y) : (m >>= f) x = f a y := by
  show EStateM.bind m f x = f a y
  simp only [EStateM.bind, h]

theorem bind_error {α β : Type} {m : M α} {f : α → M β} {x y : Ex} {e : Stop} (h : m x = .error e y) :
    (m >>= f) x = .error e y := by
  show EStateM.bind m f x = .error e y
  simp only [EStateM.bind, h]

theorem issuer_furrow {s : State} {g : Fin 96} {F : Furrow} {w : Word} (h : s.issuer g w = some F) : s.furrow? F.id = some F := by
  unfold State.issuer at h
  dsimp only at h
  split at h
  · cases h
  · split at h
    · cases h
    · split at h
      · cases h
      · rename_i k hk
        split at h
        · cases h; rw [furrow_id hk]; exact hk
        · cases h

theorem issue_runs {s : State} {g : Fin 96} {F : Furrow} (h : Issues s g F) (word : Word) (m : M Unit) :
    s.issue g word m = runM s g F word m := by
  have hb : s.breaks g F = (s, true) := by
    unfold State.breaks
    dsimp only
    rw [if_pos]
    simp only [Bool.or_eq_true, Bool.not_eq_true']
    right
    rw [List.any_eq_false]
    intro u _
    simpa using h.noBreak u
  have hi : (if s.engines[g].phase.canIssue = true then s.breaks g F else (s, true)) = (s, true) := by rw [hb, ite_self]
  have hr : s.fetchRoutine g word = some s := by
    unfold State.fetchRoutine
    rw [h.microcode]
    rfl
  unfold State.issue
  rw [h.issuer]
  dsimp only
  rw [hi]
  dsimp only
  rw [h.tables]
  dsimp only
  rw [hr]

/-- A word's steps run from the registers of the boundary where no microcode error is marked. -/
theorem runM_quiet {s : State} {g : Fin 96} {F : Furrow} (h : Issues s g F) (word : Word) (m : M Unit) :
    runM s g F word m = match m (enter s g F) with
      | .ok _ x => x.commit
      | .error e x => x.stopped s word e := by
  unfold runM
  rw [h.microcode]
  rfl

theorem fetch_ok {s : State} {g : Fin 96} {F : Furrow} (h : Issues s g F) : fetch (enter s g F) = .ok () (enter s g F) := by
  obtain ⟨a, h⟩ := h.fetches
  have h1 := h.checks
  have h2 := h.inPlot
  have h3 := h.here
  have h4 := h.owned
  have h5 := h.clean
  unfold fetch
  simp only [enter, Ctx.segAt] at *
  simp only [h1, h2, h3, h4, h5]
  rfl

theorem longM_runs {s : State} {g : Fin 96} {F : Furrow} (h : Issues s g F) (gd : Guard) (x : BitVec 19) (o : LongOp)
    (hl : o.legal x = true) (hs : o.sheaf = true → F.ctx.view.sheafOn = true)
    (hp : o.priv x = true → pswPriv F.ctx.view.psw = true) (hg : guardTrue F.ctx.view gd = true) :
    longM gd x o (enter s g F) = o.run x (enter s g F) := by
  unfold longM
  rw [bind_ok (fetch_ok h)]
  unfold longBody
  rw [bind_ok (m := getC) (a := F.ctx.view) (y := enter s g F) rfl]
  have h1 : (!o.legal x || (o.sheaf && !F.ctx.view.sheafOn)) = false := by
    rw [hl]
    cases ho : o.sheaf
    · rfl
    · rw [hs ho]; rfl
  have h2 : (o.priv x && !pswPriv F.ctx.view.psw) = false := by
    cases ho : o.priv x
    · rfl
    · rw [hp ho]; rfl
  rw [h1, h2, hg]
  rfl

/-- A word whose steps complete leaves its registers, and the state its steps wrote. -/
theorem word_done {s : State} {g : Fin 96} {F F' : Furrow} (h : Issues s g F) {gd : Guard} {x : BitVec 19} {o : LongOp} {op : BitVec 8}
    (hl : o.legal x = true) (hs : o.sheaf = true → F.ctx.view.sheafOn = true)
    (hp : o.priv x = true → pswPriv F.ctx.view.psw = true) (hg : guardTrue F.ctx.view gd = true)
    {y : Ex} (hr : o.run x (enter s g F) = .ok () y)
    (h1 : y.g = g) (h2 : y.F = F) (h3 : y.yields = false) (h3' : y.eoi = false) (h4 : y.found = [])
    (h5 : y.st.furrow? F.id = some F') (h6 : y.st.fields[fieldOf g].units = s.fields[fieldOf g].units)
    (h7 : y.st.engines[g].ctl = s.engines[g].ctl) (p : Phase) (h8 : p = match y.trap with
      | some e => .faulted e
      | none => .ready) :
    WordDone y.st (issueLong g op gd x o s) g F' y.atEnd y.sh p := by
  have hc : issueLong g op gd x o s = y.commit := by
    unfold issueLong
    rw [issue_runs h, runM_quiet h, longM_runs h gd x o hl hs hp hg, hr]
  rw [hc]
  subst h1
  have hid : F'.id = y.F.id := by rw [h2]; exact furrow_id h5
  refine commit_done (by rw [h2]; exact h5) hid h3 h3' h4 h8 ?_ ?_ ?_
  · rw [h6]; exact h.noWatch
  · rw [h7]; exact h.noPend
  · rw [h7]; exact h.noStep

/-! Shared shapes of words -/

theorem useUnit_ok {y : Ex} (u : Nat) (h : y.st.engines[y.g].mismatch = none) : useUnit u y = .ok () y := by
  unfold useUnit
  simp only [h]

/-- A word that reads its operand and works on registers alone. -/
theorem completes_of {s : State} {g : Fin 96} {F : Furrow} (h : Issues s g F) {gd : Guard} {x : BitVec 19} {o : LongOp} {op : BitVec 8}
    (hl : o.legal x = true) (hs : o.sheaf = false) (hp : o.priv x = true → pswPriv F.ctx.view.psw = true) (hg : guardTrue F.ctx.view gd = true)
    {y : Ex} (hr : o.run x (enter s g F) = .ok () y) {c : Ctx} {ld : Option (BitVec 2 × Word)} {ac : List Access} {da : List (DWord × Reply)}
    (hy : y = { enter s g F with c := c, ld := ld, acc := ac, data := da }) (i : Instr)
    (hi : exec i s = .next (issueLong g op gd x o s)) :
    Completes i s g F (wordCtx F.ctx c ld) := by
  refine ⟨_, hi, ?_⟩
  have hF := issuer_furrow (h.issuer 0)
  subst hy
  exact word_done (F' := F) (op := op) h hl (by rw [hs]; intro k; cases k) hp hg hr rfl rfl rfl rfl rfl hF rfl rfl .ready rfl

theorem completes_regs {s : State} {g : Fin 96} {F : Furrow} (h : Issues s g F) {gd : Guard} {x : BitVec 19} {o : LongOp} {op : BitVec 8}
    (hl : o.legal x = true) (hs : o.sheaf = false) (hp : o.priv x = true → pswPriv F.ctx.view.psw = true) (hg : guardTrue F.ctx.view gd = true)
    {c : Ctx} (hr : o.run x (enter s g F) = .ok () { enter s g F with c := c }) (i : Instr)
    (hi : exec i s = .next (issueLong g op gd x o s)) : Completes i s g F (wordCtx F.ctx c none) :=
  completes_of h hl hs hp hg hr (ac := (enter s g F).acc) (da := (enter s g F).data) rfl i hi

theorem loadReg_ok {s : State} {g : Fin 96} {F : Furrow} {x : BitVec 19} {v : Word} {sg : Bool} (hr : Reads s g F x sg v) (r : BitVec 2) :
   ∃ ac da, loadReg r sg x (enter s g F) = .ok () { enter s g F with
      c := if xMode x = 0 then F.ctx.view.setReg r v else F.ctx.view
      ld := if xMode x = 0 then none else some (r,v), acc := ac, data := da } := by
  obtain ⟨y, e, hy⟩ := hr
  refine ⟨y.acc, y.data, ?_⟩
  unfold loadReg
  rw [bind_ok e]
  by_cases hm : xMode x = 0
  · simp only [hm, if_true]; rw [hy]; rfl
  · simp only [hm, if_false]; rw [hy]; rfl

theorem aluReg_ok {s : State} {g : Fin 96} {F : Furrow} {x : BitVec 19} {v : Word} (h : Issues s g F) (hr : Reads s g F x false v) (r : BitVec 2) (u : Nat) (f) :
   ∃ ac da, aluReg r u f x (enter s g F) = .ok () { enter s g F with
      c := (F.ctx.view.setReg r (f F.ctx.view (F.ctx.view.reg r) v).val).flags (f F.ctx.view (F.ctx.view.reg r) v), acc := ac, data := da } := by
  obtain ⟨y, e, hy⟩ := hr
  refine ⟨y.acc, y.data, ?_⟩
  unfold aluReg
  rw [bind_ok e, bind_ok (useUnit_ok u (by rw [hy]; exact h.units))]
  rw [hy]; rfl

theorem aluFlags_ok {s : State} {g : Fin 96} {F : Furrow} {x : BitVec 19} {v : Word} (h : Issues s g F) (hr : Reads s g F x false v) (r : BitVec 2) (u : Nat) (f) :
   ∃ ac da, aluFlags r u f x (enter s g F) = .ok () { enter s g F with
      c := F.ctx.view.flags (f F.ctx.view (F.ctx.view.reg r) v), acc := ac, data := da } := by
  obtain ⟨y, e, hy⟩ := hr
  refine ⟨y.acc, y.data, ?_⟩
  unfold aluFlags
  rw [bind_ok e, bind_ok (useUnit_ok u (by rw [hy]; exact h.units))]
  rw [hy]; rfl

/-! Stores -/

/-- The furrow's doorbells with more behind them. -/
def addBells (d : List Doorbell) (F : Furrow) : Furrow := { F with doorbells := F.doorbells ++ d }

theorem updFurrow_bells_nil (s : State) (id : Nat) : s.updFurrow id (addBells []) = s := by
  have : addBells [] = fun F => F := by funext F; simp [addBells]
  unfold State.updFurrow updWhere
  rw [this]
  simp

theorem updFurrow_bells_append (s : State) (id : Nat) (d e : List Doorbell) :
    (s.updFurrow id (addBells d)).updFurrow id (addBells e) = s.updFurrow id (addBells (d ++ e)) := by
  have h : ∀ F : Furrow, (if (if F.id = id then addBells d F else F).id = id then addBells e (if F.id = id then addBells d F else F)
      else if F.id = id then addBells d F else F) = if F.id = id then addBells (d ++ e) F else F := by
    intro F
    by_cases hF : F.id = id <;> simp [hF, addBells]
  simp only [State.updFurrow, updWhere, List.map_map, beq_iff_eq, Function.comp_def]
  simp only [h]

theorem bells_fold (F : Furrow) (a : Nat) (mk : State → Nat → Doorbell) (l : List Nat) (s : State) :
    ∃ d, (l.foldl (fun s k =>
      match F.doorbellAt (if k = 0 then a else (a / 16 + k) * 16) with
      | some h => s.updFurrow F.id (addBells [mk s h])
      | none => s) s) = s.updFurrow F.id (addBells d) := by
  induction l generalizing s with
  | nil => exact ⟨[], (updFurrow_bells_nil s F.id).symm⟩
  | cons k l ih =>
    rw [List.foldl_cons]
    split
    · rename_i h hk
      obtain ⟨d, hd⟩ := ih (s.updFurrow F.id (addBells [mk s h]))
      exact ⟨mk s h :: d, by rw [hd, updFurrow_bells_append]; rfl⟩
    · exact ih s

theorem ringBells_ok (a n : Nat) (y : Ex) :
    ∃ d, ringBells a n y = .ok () { y with st := y.st.updFurrow y.F.id (addBells d) } := by
  obtain ⟨d, hd⟩ := bells_fold y.F a (fun s h =>
    { hdr := h, words := Vector.ofFn fun w : Fin 4 => s.header y.F h w.val, segs := y.c.seg, priv := pswPriv y.c.psw })
    (List.range (wordsSpan a n)) y.st
  exact ⟨d, by rw [← hd]; rfl⟩

theorem touchPlot_ok {s : State} {y : Ex} {i : BitVec 3} {off : Word} {a : Nat} {r w : Bool} (hs : y.st = s) (h1 : s.handed y.g a = false)
    (h2 : s.owns y.g a = true) (h3 : s.eccAt (fieldOf y.g) a = none) (h4 : s.engines[y.g].mismatch = none) :
    touchPlot i off a r w y = .ok () y := by
  unfold touchPlot
  subst hs
  have hu := useUnit_ok (y := y) 8 h4
  simp only [h1, h2, h3]
  cases r <;> simp [hu]

theorem operandOffset_ok {s : State} {g : Fin 96} {F : Furrow} (h : Issues s g F) (x : BitVec 19) (k : Nat) :
    operandOffset x k (enter s g F) = .ok (memOffset F.ctx.view x k) (enter s g F) := by
  unfold operandOffset
  rw [bind_ok (m := getC) (a := F.ctx.view) (y := enter s g F) rfl]
  split
  · rw [bind_ok (useUnit_ok (y := enter s g F) 2 h.units)]; rfl
  · rfl

theorem stored_length (s : State) (F : Furrow) (f : Fin 4) (a : Nat) (l : List Byte) : (s.stored F f a l).length = l.length := by
  unfold State.stored State.portBytes
  split <;> simp

theorem store_ok {s : State} {g : Fin 96} {F : Furrow} (h : Issues s g F) {x : BitVec 19} {a k : Nat} {l : List Byte}
    (hn : Names s g F x k false true a) (hl : l.length = k) (h0 : 0 < k) (h16 : k < 16) (ha : a % 16 + k ≤ 16) :
    ∃ d ac, store (xSeg x) (memOffset F.ctx.view x k) l false (enter s g F) =
      .ok () { enter s g F with st := (s.putBytes (fieldOf g) a (s.stored F (fieldOf g) a l)).updFurrow F.id (addBells d), acc := ac } := by
  have hc := hn.checks
  have hp := hn.inPlot
  let y1 : Ex := { enter s g F with acc := (enter s g F).acc ++ [{ seg := xSeg x, off := memOffset F.ctx.view x k, len := k, write := true }] }
  let y2 : Ex := { y1 with st := s.putBytes (fieldOf g) a (s.stored F (fieldOf g) a l) }
  have hk := stored_length s F (fieldOf g) a l
  obtain ⟨d, hd⟩ := ringBells_ok a k y2
  refine ⟨d, y1.acc, ?_⟩
  have e1 : access false (xSeg x) (memOffset F.ctx.view x k) l.length l.length false true (enter s g F) = .ok (.plot a) (enter s g F) := by
    unfold access
    simp only [enter] at *
    rw [hl, hc, hp]
  unfold store
  rw [bind_ok e1]
  unfold storeAt
  dsimp only
  rw [bind_ok (touchPlot_ok (s := s) (y := enter s g F) rfl hn.here hn.owned hn.clean h.units)]
  rw [bind_ok (m := note _ _ _ _) (a := ()) (y := y1) (by rw [hl]; rfl)]
  rw [bind_ok (m := getX) (a := y1) (y := y1) rfl]
  have hw : s.portStore F (fieldOf g) a l = s.putBytes (fieldOf g) a (s.stored F (fieldOf g) a l) :=
    State.plotWrite_part s _ a _ (by intro k; rw [k] at hk; simp at hk; omega) (by rw [hk, hl]; exact ha) (by rw [hk, hl]; omega) hn.clean
  rw [bind_ok (m := modS _) (a := ()) (y := y2) (by show EStateM.Result.ok () _ = _; exact congrArg (fun z => EStateM.Result.ok () { y1 with st := z }) hw)]
  rw [hl]
  exact hd

/-- A word that stores part of a Plot word and works on registers. -/
theorem stores_of {s : State} {g : Fin 96} {F : Furrow} (h : Issues s g F) {gd : Guard} {x : BitVec 19} {o : LongOp} {op : BitVec 8}
    (hl : o.legal x = true) (hs : o.sheaf = false) (hp : o.priv x = true → pswPriv F.ctx.view.psw = true) (hg : guardTrue F.ctx.view gd = true)
    {a : Nat} {l : List Byte} {d : List Doorbell} {c : Ctx} {ac : List Access} (hm : mapSorted s.plot) (hk : l.length < 4194304)
    (hr : o.run x (enter s g F) = .ok ()
      { enter s g F with
        st := (s.putBytes (fieldOf g) a (s.stored F (fieldOf g) a l)).updFurrow F.id (addBells d), c := c, acc := ac }) (i : Instr)
    (hi : exec i s = .next (issueLong g op gd x o s)) : StoresAt i s g F (wordCtx F.ctx c none) a l := by
  have hl' := stored_length s F (fieldOf g) a l
  change StoresWith i s g F _ _ a l
  unfold StoresWith
  generalize s.stored F (fieldOf g) a l = bs at *
  have hF := issuer_furrow (h.issuer 0)
  have hb := State.putBytes_plot s (fieldOf g) a bs
  have hfur : (s.putBytes (fieldOf g) a bs).furrows = s.furrows := by rw [hb]
  have hfind : ∀ k, (s.putBytes (fieldOf g) a bs).furrow? k = s.furrow? k := fun k => by unfold State.furrow?; rw [hfur]
  have hfl : (s.putBytes (fieldOf g) a bs).fields = s.fields := by rw [hb]
  have hen : (s.putBytes (fieldOf g) a bs).engines = s.engines := by rw [hb]
  have hfu : ∀ k, ((s.putBytes (fieldOf g) a bs).updFurrow F.id (addBells d)).furrow? k =
      if k = F.id then (s.furrow? k).map (addBells d) else s.furrow? k := fun k => by
    rw [updFurrow_furrow _ _ (addBells d) (fun _ => rfl), hfind]
  have hd := word_done (F' := addBells d F) (op := op) h hl (by rw [hs]; intro k; cases k) hp hg hr rfl rfl rfl rfl rfl
    ((hfu F.id).trans (by rw [if_pos rfl, hF]; rfl))
    (by show (s.putBytes (fieldOf g) a bs).fields[fieldOf g].units = _; simp only [hfl])
    (by show (s.putBytes (fieldOf g) a bs).engines[g].ctl = _; simp only [hen]) .ready rfl
  have hplot : (issueLong g op gd x o s).plot = (s.putBytes (fieldOf g) a bs).plot := by rw [hd.rest]; rfl
  have hbyte : ∀ f b, (issueLong g op gd x o s).plotByte f b = (s.putBytes (fieldOf g) a bs).plotByte f b := by
    intro f b
    unfold State.plotByte State.plotDefault
    rw [hplot]
    have : (issueLong g op gd x o s).fields = (s.putBytes (fieldOf g) a bs).fields := by rw [hd.rest]; rfl
    rw [this]
  refine ⟨_, d, hi, ⟨?_, ?_, ?_, ?_, ?_, ?_, ?_⟩, ?_, ?_⟩
  · rw [hd.rest, hb]; rfl
  · rw [hd.dbg, hb]; rfl
  · exact hd.mine
  · intro k hk
    rw [hd.others k hk]; exact (hfu k).trans (by rw [if_neg (fun e => hk e)]; rfl)
  · have := hd.engine
    simp only [State.updFurrow_engines, hen] at this
    exact this
  · intro k hk
    rw [hd.engines k hk]
    show (s.putBytes (fieldOf g) a bs).engines[k] = _
    simp only [hen]
  · intro k hk
    rw [hd.counts k hk]
    show mapGet 0 k (s.putBytes (fieldOf g) a bs).tally = _
    rw [hb]
  · intro j hj
    rw [hbyte]
    exact State.plotByte_putBytes_same bs s _ a hm (by rw [hl']; exact hk) j (by rw [hl']; exact hj)
  · intro f b hne
    rw [hbyte]
    exact State.plotByte_putBytes_other bs s _ _ _ _ (by rw [hl']; exact hne)

end Sys2Proof.Machine
end

