-- ==== Sys2Proof/WellFormed.lean ====
section
/-! DEFINITION. Checks of a command's operands that their types leave open: ranges that the manual gives to the numbers a command carries. -/

namespace Sys2Proof

/-- Long opcodes that have a row of their own (R161, R163). -/
def listedOpcode (o : Nat) : Bool :=
  o < 0x0C || (0x10 ≤ o && o ≤ 0x2B) || (0x30 ≤ o && o ≤ 0x37) || (0x40 ≤ o && o ≤ 0x59) || (0x60 ≤ o && o ≤ 0x63) ||
    (0x68 ≤ o && o ≤ 0x73)

/-- A furrow ID (R75). -/
def fidOk (n : Nat) : Bool := decide (n ≤ 4094)

/-- A zone number (R338). -/
def zoneInRange (n : Nat) : Bool := decide (n ≤ 4094)

/-- Physical rows of a bank, spares included (R261). -/
def rowsOk (l : List Nat) : Bool := l.all fun r => decide (r < 1032)

/-- Access sizes in bytes that a host can ask for (R375). -/
def sizeOk (n : Nat) : Bool := n == 1 || n == 2 || n == 4 || n == 8

/-- A fabric answer: at most the largest buffer, or a response other than OK (R46, R288). -/
def Reply.wf (r : Reply) : Bool :=
  match r with
  | .ok l => decide (l.length ≤ 16777216)
  | .bad e => e != 0

/-- What is seen of an end: dwells of 480 frames or none (R335). -/
def EndObs.wf (o : EndObs) : Bool :=
  let dwell (l : List Word) : Bool := l.isEmpty || l.length == 480
  decide (o.endNo ≤ 6143) && dwell o.v && dwell o.i && dwell o.b && dwell o.programme

/-- Beats of the stream port: at least one, each of 64 bytes (R269, R270). -/
def Packet.wf (p : Packet) : Bool := !p.beats.isEmpty && p.beats.all fun b => b.data.length == 64

/-- The checks of a command. -/
def Instr.wf (c : Instr) : Bool :=
  match c with
  | .cmdTailDoorbell .. => true
  | .descriptorFetch r => r.wf
  | .completionRecordWrite .. => true
  | .ringAccessRetry _ r => r.wf
  | .mailboxEnable .. => true
  | .mailboxDisable .. => true
  | .cplHeadWrite .. => true
  | .mailboxHoldoffExpiry .. => true
  | .identify .. => true
  | .versions .. => true
  | .certRead .. => true
  | .attest .. => true
  | .stageOpen .. => true
  | .stageWrite _ _ buf => buf.wf
  | .stageRead .. => true
  | .stageAbort .. => true
  | .sealGet .. => true
  | .commit .. => true
  | .furrowCreate _ _ buf => buf.wf
  | .furrowStart _ _ code => code.wf
  | .furrowStop .. => true
  | .furrowDestroy .. => true
  | .furrowQuery .. => true
  | .furrowSignal .. => true
  | .restore .. => true
  | .furrowMove .. => true
  | .planWrite _ _ buf => buf.wf
  | .planRead .. => true
  | .planStatus .. => true
  | .policySet .. => true
  | .imageLoadCustomerMicrocode _ _ buf _ => buf.wf
  | .imageLoadSupervisorFirmware _ _ buf _ => buf.wf
  | .imageQuery .. => true
  | .ledgerRead .. => true
  | .harrowRunPreserving .. => true
  | .harrowRunDestructive _ _ failing _ => rowsOk failing
  | .engineTest .. => true
  | .fieldWalk .. => true
  | .eventWait .. => true
  | .eventWaitCompletion .. => true
  | .eventWaitTimeout .. => true
  | .statusRead .. => true
  | .tallyRead .. => true
  | .powerRead .. => true
  | .lineRead .. => true
  | .mailboxGrant .. => true
  | .mailboxRevoke .. => true
  | .rateDeclare .. => true
  | .fieldDrain .. => true
  | .fieldPowerOff .. => true
  | .fieldPowerOffRetained .. => true
  | .fieldPowerOn .. => true
  | .fieldPowerTimeout .. => true
  | .engineRetire .. => true
  | .bankRepairRetire .. => true
  | .bankRepairRemap _ _ failing _ => rowsOk failing
  | .resetColdCommand .. => true
  | .resetWarmCommand .. => true
  | .resetFieldCommand .. => true
  | .debugChallenge .. => true
  | .debugOpen _ _ buf => buf.wf
  | .debugClose .. => true
  | .guardKeyWrite .. => true
  | .guardUnlockExpiry .. => true
  | .swResetWarm .. => true
  | .swResetCold .. => true
  | .sealRefWrite .. => true
  | .idxAddrWrite .. => true
  | .idxDataRead .. => true
  | .idxDataWrite .. => true
  | .idxWriteCompletion .. => true
  | .fldAckWrite .. => true
  | .almAckWrite .. => true
  | .interruptMessageWrite .. => true
  | .tbLoRead .. => true
  | .atnCapRead .. => true
  | .registerWrite _ _ size _ => sizeOk size
  | .startOk => true
  | .startDeadlineExpiry => true
  | .powerOnDetect => true
  | .blkRstNAssert .. => true
  | .socBrnoutAssert .. => true
  | .coldReset .. => true
  | .warmReset .. => true
  | .fieldReset .. => true
  | .engineReset .. => true
  | .fabricDrainCompletion .. => true
  | .resetRelease _ conv defects => (conv.isEmpty || conv.length == 4) && (defects.all fun d => rowsOk d.2)
  | .supervisorBoot img => img.wf
  | .fallowPassThroughStart => true
  | .fallowPassThroughPacket .. => true
  | .retainedConfigApply .. => true
  | .seedProgramPulseCompletion => true
  | .memKeepAckRise => true
  | .pwrEngOkChange .. => true
  | .fieldUndervoltage .. => true
  | .dormantEntry => true
  | .dormantExit => true
  | .clockFault .. => true
  | .clockRecovery .. => true
  | .lfModeExit => true
  | .ptpPpsEdge .. => true
  | .ppsHoldTimeout => true
  | .timerMatch .. => true
  | .timerWriteLanding .. => true
  | .atnCtlWrite .. => true
  | .capnow .. => true
  | .timerCapture .. => true
  | .almStart .. => true
  | .almStop .. => true
  | .wdsExpiry => true
  | .wdfExpiry .. => true
  | .fieldHeartbeat .. => true
  | .watchdogFreezeEnd .. => true
  | .sealPass => true
  | .ledgerRecordAccept => true
  | .queueMessage .. => true
  | .queueMessageRetry .. => true
  | .loadMonitorWindow _ used => used.all fun u => fidOk u.1
  | .rebalance .. => true
  | .dozeEntry .. => true
  | .migrationPrepare fid => fidOk fid
  | .migrationQuiesce fid => fidOk fid
  | .migrationQuiesceAbort fid => fidOk fid
  | .migrationCapture fid => fidOk fid
  | .migrationRepoint fid => fidOk fid
  | .migrationTransfer fid _ => fidOk fid
  | .migrationResume fid _ => fidOk fid
  | .bankHandoverCompletion .. => true
  | .planTransition .. => true
  | .engineRetirement .. => true
  | .coldRestart fid code => fidOk fid && code.wf
  | .twinSelectorDecision _ _ fid => fidOk fid
  | .remoteTwinCopyArrival _ fid hdr _ _ => fidOk fid && decide (4 ≤ hdr.val ∧ hdr.val < 8 ∨ 9 ≤ hdr.val ∧ hdr.val < 25)
  | .ingressPacket _ p => p.wf
  | .egressCreditGrant .. => true
  | .egressFrameSend .. => true
  | .ringDoorbell fid _ => fidOk fid
  | .fabricReadResponse _ _ r => r.wf
  | .fabricWriteResponse .. => true
  | .fabricTimeout .. => true
  | .moverDescriptorStart fid => fidOk fid
  | .moverCompletion fid _ => fidOk fid
  | .bridgeGrant => true
  | .drillWord .. => true
  | .drillWaitCompletion .. => true
  | .drillStallEnd .. => true
  | .drillProgramRewrite .. => true
  | .stop .. => true
  | .resume .. => true
  | .clean .. => true
  | .park .. => true
  | .drillRunRegisterWrite .. => true
  | .drxDataRead .. => true
  | .dtxDataWrite .. => true
  | .txFeederFrame .. => true
  | .rxFeederTransfer .. => true
  | .gleanerScrubRead .. => true
  | .gleanerRewrite .. => true
  | .controlStoreRewrite .. => true
  | .harrowStripeLease _ _ failing => rowsOk failing
  | .supervisionCycle _ obs => obs.ends.all EndObs.wf
  | .linePost3 .. => true
  | .linePostReceive .. => true
  | .lineStaleTimeout zone => zoneInRange zone
  | .lineDisagreeTimeout zone line => zoneInRange zone && decide (line < 8)
  | .walkStep zone dwells => zoneInRange zone && dwells.all fun l => l.all EndObs.wf
  | .walkYield zone => zoneInRange zone
  | .walkRewalk zone => zoneInRange zone
  | .fieldWalkTimeout .. => true
  | .tallyDump => true
  | .bandwidthWindow .. => true
  | .tallySample .. => true
  | .agingMeasurement _ slack => decide (slack ≤ 100)
  | .halt .. => true
  | .run .. => true
  | .step .. => true
  | .ercRdataWrite .. => true
  | .debugResetEngine .. => true
  | .debugResetField .. => true
  | .debugResetWarm => true
  | .debugResetCold => true
  | .dmmRead => true
  | .dmmWrite => true
  | .provCmd .. => true
  | .dbgFreezeWrite .. => true
  | .bwCtlWrite .. => true
  | .exceptionEntry .. => true
  | .headlandHandler .. => true
  | .furrowSwitch .. => true
  | .timeSliceExpiry .. => true
  | .bankHoldTimeout .. => true
  | .customerWatchdogExpiry .. => true
  | .timeLoRead .. => true
  | .lda .. => true
  | .ldas .. => true
  | .ldx .. => true
  | .ldxs .. => true
  | .ldy .. => true
  | .ldys .. => true
  | .ldsp .. => true
  | .ldah .. => true
  | .sta .. => true
  | .stx .. => true
  | .sty .. => true
  | .stsp .. => true
  | .add .. => true
  | .adc .. => true
  | .sub .. => true
  | .sbc .. => true
  | .and .. => true
  | .or .. => true
  | .xor .. => true
  | .cmp .. => true
  | .tst .. => true
  | .mul .. => true
  | .mulh .. => true
  | .mulhu .. => true
  | .div .. => true
  | .divu .. => true
  | .rem .. => true
  | .remu .. => true
  | .shl .. => true
  | .shr .. => true
  | .sar .. => true
  | .ror .. => true
  | .addx .. => true
  | .addy .. => true
  | .cmpx .. => true
  | .cmpy .. => true
  | .pset .. => true
  | .pld .. => true
  | .pst .. => true
  | .addsp .. => true
  | .br .. => true
  | .call .. => true
  | .callf .. => true
  | .calli .. => true
  | .retm .. => true
  | .retx .. => true
  | .trap .. => true
  | .brk .. => true
  | .sld .. => true
  | .sst .. => true
  | .mfpsw .. => true
  | .mtpsw .. => true
  | .rdprog .. => true
  | .wrprog .. => true
  | .mbar .. => true
  | .evwait .. => true
  | .bankhold .. => true
  | .bankfree .. => true
  | .aadd .. => true
  | .aswap .. => true
  | .bmove .. => true
  | .bfill .. => true
  | .bcmp .. => true
  | .crc32c .. => true
  | .vclr .. => true
  | .vsplat .. => true
  | .vext .. => true
  | .vins .. => true
  | .vacc .. => true
  | .vopAdds .. => true
  | .vopSubs .. => true
  | .vopMin .. => true
  | .vopMax .. => true
  | .vopMulq .. => true
  | .vopAnd .. => true
  | .vopOr .. => true
  | .vopXor .. => true
  | .vopAdd .. => true
  | .vopSub .. => true
  | .vopNeg .. => true
  | .vopAbs .. => true
  | .vmfs .. => true
  | .vmts .. => true
  | .loadv .. => true
  | .storev .. => true
  | .convin .. => true
  | .convout .. => true
  | .loadacc .. => true
  | .storeacc .. => true
  | .vmac .. => true
  | .vmix .. => true
  | .vfir .. => true
  | .customerInstruction _ _ op _ => !listedOpcode op.toNat
  | .pairedWord .. => true
  | .vbakLoss => true
  | .supervisorCriticalError .. => true
  | .timeBaseIncrement => true
  | .tracePortTransfer => true
  | .registerRead _ _ size => sizeOk size
  | .bootReadRetry img => img.wf
  | .hardwareReaderScrub => true
  | .sowerTableRewrite .. => true
  | .escalationRunEnd fid => fidOk fid
  | .debugNonceExpiry => true
  | .ppsEdgeTimeout => true

end Sys2Proof
end

