-- ==== Sys2Proof/Tests/Slice0.lean ====
section
/-! SUPPORT. Small tests: ill-formed commands that the check refuses, witnesses that meet the hypotheses of each statement,
single steps on small states. -/

namespace Sys2Proof.Tests

open Sys2Proof.Machine

/-! Small states -/

/-- A segment over the first extent of a furrow, all rights. -/
def open_ (tgt : Bool) : Seg := { base := 0x800000000000, limit := 0x20000, r := true, w := true, x := true, sup := false, tgt := tgt }

/-- A context with PC 0x100, SP 0x1000 and every segment over the furrow's extent. -/
def ctx0 : Ctx := { Ctx.zero with a := 7, x := 3, y := 0x200, sp := 0x1000, pc := 0x100, psw := 0x400, seg := Vector.replicate 8 (open_ false) }

/-- A furrow descriptor of zeros. -/
def desc0 : Desc :=
  { cls := 0, restartable := true, pin := false, twinOf := 0xFFFF, fieldMask := 15, priority := 1, demand := 100, workset := 131072
    codeLen := 4096, codeAddr := 0, codeCrc := 0, entry := 0, ingress := [], egress := [], drills := 0, selMargin := 0, fabBase := 0
    fabLen := 0, param := [], raw := [] }

/-- Furrow 1 on engine 0 of Field 0, with one extent of a bank. -/
def furrow1 (c : Ctx) : Furrow :=
  { id := 1, owner := 0, creator := 0, desc := desc0, st := .running, engine := some 0, home := some 0
    extents := [{ base := 0, len := 131072 }], ctx := c, waitMask := none, restarts := 0, migrations := 0, runAtCommit := false
    startOnCommit := false, twin := none, run := none, rings := [], doorbells := [], sels := [], ctlq := [], verAtStart := (0, 0)
    loads := [], fetched := [], ctxErr := none, mbar := false, enSeen := [] }

/-- A Field In service whose bank 0 belongs to its engine 0. -/
def field1 : Field :=
  { Field.reset with
    st := .inService, pinsLive := true
    banks := (Vector.replicate 32 { Bank.reset with epoch := 2 }).set 0 { Bank.reset with st := .owned, epoch := 2 } }

/-- Engine 0 awake with furrow 1. -/
def engine1 : Engine := { Engine.reset with st := .awake, cur := some 1, order := [1], lastLoaded := some 1, resetHeld := false }

/-- The block started, Field 0 In service, furrow 1 ready on engine 0. -/
def started (c : Ctx) : State :=
  { State.reset with
    reset? := none, fields := State.reset.fields.set 0 field1, engines := State.reset.engines.set 0 engine1, furrows := [furrow1 c]
    sup := { Sup.reset with released := true, running := true, started := true } }

/-- The guard of an unconditional word. -/
def always : Guard := { pred := 0, pinv := false }

theorem witness_issues : Issues (started ctx0) 0 (furrow1 ctx0) :=
  ⟨fun _ => by rfl, by decide, by decide, by rfl, by rfl, by rfl, by rfl, by rfl, 0x100, ⟨by rfl, by rfl, by rfl, by rfl, by rfl⟩⟩

/-! Operands of the small state -/

theorem started_owns (c : Ctx) (a : Nat) (h : a < 131072) : (started c).owns 0 a = true ∧ (started c).handed 0 a = false := by
  have e : bankOf a = 0 := by
    unfold bankOf
    apply Fin.ext
    show a / 131072 % 32 = 0
    omega
  have k : ∀ b : Fin 32, b = 0 → ((started c).fields[fieldOf 0].banks[b].st == .owned && (started c).fields[fieldOf 0].banks[b].owner == localOf 0) = true ∧
      ((started c).fields[fieldOf 0].banks[b].st == .handover && (started c).fields[fieldOf 0].banks[b].target == localOf 0) = false := by
    rintro b rfl; exact ⟨rfl, rfl⟩
  exact k _ e

/-- Every range within the first bank meets the premises of an access at the furrow's segments. -/
theorem started_span (c : Ctx) (hv : c.view = c) (hs : c.seg = Vector.replicate 8 (open_ false)) (i : BitVec 3) (off : Word) (len align : Nat)
    (r w : Bool) (ha : off.toNat % align = 0) (hl : off.toNat + len ≤ 0x20000) :
    Span (started c) 0 (furrow1 c) i off len align r w off.toNat := by
  have e : (furrow1 c).ctx.view.segAt i = open_ false := by
    show c.view.segAt i = _
    rw [hv]
    unfold Ctx.segAt
    simp [hs]
  have p : place (furrow1 c).extents (open_ false) off.toNat = .plot off.toNat := by
    show Place.plot (0 + 0 + off.toNat) = _
    simp
  refine ⟨?_, ha, ?_, ?_, ?_, ?_, ?_⟩
  · rw [e]; exact ⟨fun _ => rfl, fun _ => rfl, fun h => nomatch h⟩
  · rw [e]; exact hl
  · rw [e]; exact p
  · intro j h; exact (started_owns c _ (by omega)).2
  · intro j h; exact (started_owns c _ (by omega)).1
  · intro j _; exact ⟨rfl, List.not_mem_nil⟩

/-- ctx0 in Supervisor mode. -/
def ctxS : Ctx := { ctx0 with psw := 0x8400 }
/-- ctx0 with the Sheaf unit enabled and one element to do. -/
def ctxV : Ctx := { ctx0 with x := 1, a := 0x1000, y := 0x2000, shsave := 0x80000000 }

theorem witness_issues_supervisor : Issues (started ctxS) 0 (furrow1 ctxS) ∧ pswPriv (furrow1 ctxS).ctx.view.psw = true :=
  ⟨⟨fun _ => by rfl, by decide, by decide, by rfl, by rfl, by rfl, by rfl, by rfl, 0x100, ⟨by rfl, by rfl, by rfl, by rfl, by rfl⟩⟩, by rfl⟩

theorem witness_issues_sheaf : Issues (started ctxV) 0 (furrow1 ctxV) ∧ (furrow1 ctxV).ctx.view.shsave.getLsbD 31 = true :=
  ⟨⟨fun _ => by rfl, by decide, by decide, by rfl, by rfl, by rfl, by rfl, by rfl, 0x100, ⟨by rfl, by rfl, by rfl, by rfl, by rfl⟩⟩, by rfl⟩

/-- Immediate 5; a word at 0x10, at X + 4, at Y + 4 through S0. -/
abbrev xImm5 : BitVec 19 := 0x5#19
abbrev xW1 : BitVec 19 := 0x22004#19
abbrev xW2 : BitVec 19 := 0x42001#19
abbrev xW3 : BitVec 19 := 0x62001#19

/-! Witnesses: the hypotheses of the statements about words, met by `started` -/

/-- LoadsAndStores, AddSubLogicCompare, MultiplyDivideShift, RegisterWordsComplete: an immediate is read. -/
theorem witness_reads_immediate : okIM xImm5 = true ∧ okI xImm5 = true ∧ okIMw xImm5 = true ∧
    Reads (started ctx0) 0 (furrow1 ctx0) xImm5 false 5 ∧ Reads (started ctx0) 0 (furrow1 ctx0) 0x1FFFF true 0xFFFFFFFF ∧
    Reads (started ctx0) 0 (furrow1 ctx0) 0 false 0 :=
  ⟨rfl, rfl, rfl, ⟨_, rfl, rfl⟩, ⟨_, rfl, rfl⟩, ⟨_, rfl, rfl⟩⟩

/-- The same statements: a word of Plot is read in each memory mode, an unwritten byte being 0 after a zero fill. -/
theorem witness_reads_plot : okIM xW1 = true ∧ okMw xW1 = true ∧
    Reads (started ctx0) 0 (furrow1 ctx0) xW1 false 0 ∧ Reads (started { ctx0 with x := 0x40 }) 0 (furrow1 { ctx0 with x := 0x40 }) xW2 false 0 ∧
    Reads (started ctx0) 0 (furrow1 ctx0) xW3 true 0 :=
  ⟨rfl, rfl, ⟨_, rfl, rfl⟩, ⟨_, rfl, rfl⟩, ⟨_, rfl, rfl⟩⟩

/-- LoadsAndStores, AtomicsAndHolds: a word operand at Plot address 0x10, to read, to write and both. -/
theorem witness_names_word : guardTrue ctx0.view always = true ∧ mapSorted (started ctx0).plot ∧
    Names (started ctx0) 0 (furrow1 ctx0) xW1 4 true false 0x10 ∧ Names (started ctx0) 0 (furrow1 ctx0) xW1 4 false true 0x10 ∧
    Names (started ctx0) 0 (furrow1 ctx0) xW1 4 true true 0x10 ∧ (started ctx0).heldByOther 0 0x10 = false :=
  ⟨rfl, by decide, ⟨by decide, rfl, rfl, rfl, rfl, rfl⟩, ⟨by decide, rfl, rfl, rfl, rfl, rfl⟩, ⟨by decide, rfl, rfl, rfl, rfl, rfl⟩, by rfl⟩

/-- CallsAndFrames: a target that passes, a full frame below SP; ReturnsAndTraps: the frame of an empty mask, read back. -/
theorem witness_call : targetFault (ctx0.segAt (pswCsel ctx0.psw)) (pswPriv ctx0.psw) 0x1FFFC = none ∧
    targetFault (ctx0.segAt (pswCsel ctx0.psw)) (pswPriv ctx0.psw) 0 = none ∧ bits ctx0.sp 0 2 = 0#2 ∧
    Span (started ctx0) 0 (furrow1 ctx0) 7 (ctx0.sp - nw (4 * frameSize 0xFF)) (4 * frameSize 0xFF) 4 false true 0xFC0 :=
  ⟨rfl, rfl, rfl, started_span ctx0 rfl rfl 7 0xFC0 64 4 false true (by decide) (by decide)⟩

/-- The small state with a CALL frame of mask 0xCF at SP. -/
def framed : State := (started ctx0).plotWrite 0 0x1000 (bytesOf (callFrame 0xCF 0x300 { ctx0 with sp := 0x1028 }))

theorem witness_return : bits ctx0.sp 0 2 = 0#2 ∧ frameSize 0xCF = 8 ∧
    wordsAt (framed.plotBytes 0 0x1000 (4 * frameSize 0xCF)) 0 (frameSize 0xCF) = callFrame 0xCF 0x300 { ctx0 with sp := 0x1028 } := by
  decide

/-- ReturnsAndTraps: a frame of RETX at SP whose words pass its checks, its pc 0, its PSW User mode. -/
theorem witness_retx : fieldN ctxS.sp 0 3 = 0 ∧ Span (started ctxS) 0 (furrow1 ctxS) 7 ctxS.sp 48 4 true false 0x1000 ∧
    (let w (i : Nat) : Word := (wordsAt ((started ctxS).plotBytes 0 0x1000 48) 0 12).getD i 0
     (w 1) &&& 0xFFF84880#32 = 0 ∧ (w 9).getLsbD 7 = false ∧ targetFault (ctxS.view.segAt (pswCsel (w 1))) (pswPriv (w 1)) (w 0) = none) :=
  ⟨rfl, started_span ctxS rfl rfl 7 0x1000 48 4 true false (by decide) (by decide), by decide⟩

/-- ReturnsAndTraps: TRAP 31; BRK with and without BRKHALT. -/
theorem witness_traps : okI 0x1F#19 = true ∧ bits (0x1F#19) 5 12 = 0#12 ∧ (started ctx0).engines[(0 : Fin 96)].ctl.brkHalt = false ∧
    ((started ctx0).updEngine 0 fun E => { E with ctl := { E.ctl with brkHalt := true } }).engines[(0 : Fin 96)].ctl.brkHalt = true ∧
    (started ctx0).dbg.xhalt = false := by
  exact ⟨rfl, rfl, rfl, rfl, rfl⟩

/-- SegmentAndWaitWords: a segment image of zeros is allowed; an image operand is named; no report and no store out; sources pending and none. -/
theorem witness_segments : okMw xW1 = true ∧ Names (started ctxS) 0 (furrow1 ctxS) xW1 16 true false 0x40 ∧
    Names (started ctxS) 0 (furrow1 ctxS) xW1 16 false true 0x40 ∧
    (furrow1 ctxS).segOk (imageOf ((started ctxS).plotBytes 0 0x40 16)) = true ∧ wordOf 0x40 ∉ (started ctxS).fields[(0 : Fin 4)].known :=
  ⟨rfl, ⟨by decide, rfl, rfl, rfl, rfl, rfl⟩, ⟨by decide, rfl, rfl, rfl, rfl, rfl⟩, by decide, List.not_mem_nil⟩

theorem witness_waits : (furrow1 ctx0).ctx.rep8 = none ∧ (started ctx0).storesOut 1 = false ∧ okI 0xFFFF#19 = true ∧
    (0xFFFF#19).getLsbD 16 = false ∧ (started ctx0).sources (furrow1 ctx0) &&& bits (0xFFFF#19) 0 16 = 0#16 ∧
    (started { ctx0 with latched := 0x200 }).sources (furrow1 { ctx0 with latched := 0x200 }) &&& bits (0x200#19) 0 16 ≠ 0#16 := by
  decide

/-- A buffered store of furrow 1 in flight. -/
def storeTxn : Txn :=
  { id := 3, write := true, addr := 0, len := 4, bytes := [1, 2, 3, 4], sid := 0, ssv := true, ssid := 1, attr := 0
    owner := .engineStore 1 0x10 2 7, issued := 0 }

/-- SegmentAndWaitWords: MBAR with a buffered store that is not acknowledged. -/
def storing : State := (started ctx0).updPorts 0 fun P => { P with txns := [storeTxn] }

theorem witness_mbar_waits : Issues storing 0 (furrow1 ctx0) ∧ (furrow1 ctx0).ctx.rep8 = none ∧ storing.storesOut 1 = true :=
  ⟨⟨fun _ => by rfl, by decide, by decide, by rfl, by rfl, by rfl, by rfl, by rfl, 0x100, ⟨by rfl, by rfl, by rfl, by rfl, by rfl⟩⟩, by rfl, by decide⟩

/-- AtomicsAndHolds: an engine without a hold, and one with a hold. -/
theorem witness_holds : (started ctx0).engines[(0 : Fin 96)].hold = none ∧
    ((started ctx0).updEngine 0 fun E => { E with hold := some 3 }).engines[(0 : Fin 96)].hold ≠ none := by
  exact ⟨rfl, nofun⟩

/-- SheafRegistersAndLanes: the forms of [18:0], and a SHSAVE image that is allowed. -/
theorem witness_sheaf_words : bits (0x1FF#19) 9 10 = 0#10 ∧ bits (0x1C00#19) 13 6 = 0#6 ∧ bits (0x1C00#19) 0 10 = 0#10 ∧
    bits (0x1C0F#19) 4 6 = 0#6 ∧ bits (0x1FF4#19) 0 2 = 0#2 ∧ fieldN (0x1FF4#19) 3 2 ≠ 3 ∧ bits (0x1#19) 1 18 = 0#18 ∧
    shsaveOk (furrow1 { ctxS with a := 0x80000000 }) 0x80000000 = true ∧ bits (0x1FF0#19) 13 6 = 0#6 := by
  decide

/-- BlockInstructions, VectorTransfersAndConversions, MultiplyAccumulate: one element from a clear PROG, its ranges within the bank and apart. -/
theorem witness_blocks : ctxV.view.prog1.getLsbD 31 = false ∧ ctxV.view.x.toNat = 1 ∧ ctxV.view.x.toNat ≤ 64 ∧
    (∀ len align : Nat, (align = 1 ∨ align = 2 ∨ align = 4 ∨ align = 8) → len ≤ 4096 → ∀ r w,
      Span (started ctxV) 0 (furrow1 ctxV) 0 ctxV.view.y len align r w 0x2000 ∧
      Span (started ctxV) 0 (furrow1 ctxV) 0 ctxV.view.a len align r w 0x1000) ∧ 0x1000 + 4096 ≤ 0x2000 ∧ 0x2000 + 4096 ≤ 4194304 := by
  refine ⟨by decide, by decide, by decide, ?_, by decide, by decide⟩
  intro len align ha hl r w
  exact ⟨started_span ctxV rfl rfl 0 0x2000 len align r w (by rcases ha with rfl | rfl | rfl | rfl <;> decide)
      (by show 8192 + len ≤ 131072; omega),
    started_span ctxV rfl rfl 0 0x1000 len align r w (by rcases ha with rfl | rfl | rfl | rfl <;> decide)
      (by show 4096 + len ≤ 131072; omega)⟩

/-- BlockInstructions: first operands that are equal, and, with a byte written at the second, that differ. -/
theorem witness_compare :
    (∀ e, e < 1 → extend ((started ctxV).plotBytes 0 (0x2000 + 4 * e) 4) 4 false = extend ((started ctxV).plotBytes 0 (0x1000 + 4 * e) 4) 4 false) ∧
    (let s := (started ctxV).plotWrite 0 0x1000 [9]
     extend (s.plotBytes 0 0x2000 4) 4 false ≠ extend (s.plotBytes 0 0x1000 4) 4 false) := by
  decide

/-- MultiplyAccumulate: VFIR with 64 taps of stride 1 on one output; VMIX with the offset 0 that its first element holds. -/
theorem witness_vfir_vmix : (0x3F#19).getLsbD 7 = false ∧ 1 * (fieldN (0x3F#19) 0 7 + 1) ≤ 64 ∧
    0x1000 + 1 * 64 ≤ 0x2000 ∧ le32 ((started ctxV).plotBytes 0 0x1000 4) 0 = 0 ∧ xFmt 0 ≠ 3 ∧ bits (0#19) 13 3 = 0#3 := by
  decide

/-- PairedWords: slot A with P0 and with P1, which reads 0; its stack and S0 offsets within the bank. -/
theorem witness_pairs : ctx0.view.pred 0 = true ∧ ctx0.view.pred 1 = false ∧ bits ctx0.sp 0 2 = 0#2 ∧
    (∀ r w, Span (started ctx0) 0 (furrow1 ctx0) 7 ctx0.sp 4 4 r w 0x1000 ∧
      Span (started ctx0) 0 (furrow1 ctx0) 7 (ctx0.sp + 4 * (0xFF#8).setWidth 32) 4 4 r w 0x13FC ∧
      Span (started ctx0) 0 (furrow1 ctx0) 7 (ctx0.sp - 4) 4 4 r w 0xFFC ∧
      Span (started ctx0) 0 (furrow1 ctx0) 0 (ctx0.y + 4 * (0xFF#8).setWidth 32) 4 4 r w 0x5FC) ∧
    targetFault (ctx0.segAt (pswCsel ctx0.psw)) (pswPriv ctx0.psw) (ctx0.pc + 4 * (0xC0#8).signExtend 32) = none ∧
    ((0#31).getLsbD 0 = true ∨ (0x3E000000#31).extractLsb' 24 5 = 0x1E#5) := by
  refine ⟨by decide, by decide, by decide, ?_, by decide, by decide⟩
  intro r w
  exact ⟨started_span ctx0 rfl rfl 7 0x1000 4 4 r w (by decide) (by decide), started_span ctx0 rfl rfl 7 0x13FC 4 4 r w (by decide) (by decide),
    started_span ctx0 rfl rfl 7 0xFFC 4 4 r w (by decide) (by decide), started_span ctx0 rfl rfl 0 0x5FC 4 4 r w (by decide) (by decide)⟩

/-- A customer microword: A + 5 to A, flags C, Z, N, V, then the end of the instruction (R219-R237). -/
def addFive : MWord :=
  (0x1C00#13 : BitVec 13).setWidth 144 <<< 131 ||| (6#144 <<< 128) ||| (1#144 <<< 108) ||| (8#144 <<< 104) ||| (2#144 <<< 99) |||
    (1#144 <<< 95) ||| (2#144 <<< 93) ||| (15#144 <<< 60) ||| 5#144

/-- The small state with a customer image of one microword, enabled for opcode 0xE0, for User mode. -/
def custom : State :=
  (started ctx0).updField 0 fun F => { F with cust := { Customer.none with words := [(0x1C00, addFive)], disp := [(0xE0, 0xDC00)], present := true } }

/-- CustomerInstructionRuns: an entry of one microword that the rules allow; no entry without an image. -/
theorem witness_customer : (started ctx0).customerEntry 0 (7#3 ++ 0#5) = none ∧ custom.customerEntry 0 (7#3 ++ 0#5) = some 0xDC00 ∧
    (0xDC00#16).getLsbD 13 = false ∧ mapFind (bits (0xDC00#16) 0 13 : BitVec 13).toNat (custom.custOf 0).words = some addFive ∧
    guardTrue (furrow1 ctx0).ctx.view always = true ∧ custom.engines[(0 : Fin 96)].micro = none ∧ addFive.customerOk = true ∧ addFive.asrc = 1 ∧ addFive.bsrc = 8 ∧
    addFive.aluop = 2 ∧ addFive.mop = 0 ∧ addFive.sopc = 0 ∧ addFive.pwr = 0 ∧ addFive.fault = 0 ∧ addFive.trace = 0 ∧ addFive.tally = 0 ∧
    addFive.dest ≤ 4 ∧ 6 ≤ addFive.seq := by
  decide

/-- CustomerInstructionRuns: a Supervisor entry in User mode; a reserved opcode; a false guard. -/
theorem witness_customer_traps :
    ((custom.updField 0 fun F => { F with cust := { F.cust with disp := [(0xE0, 0xFC00)] } }).customerEntry 0 (7#3 ++ 0#5) = some 0xFC00 ∧
      (0xFC00#16).getLsbD 13 = true ∧ pswPriv (furrow1 ctx0).ctx.view.psw = false) ∧
    ((0x0C#8).toNat < 0xE0 ∧ vendorOp 0x0C = false ∧ vendorOp 0xDF = false) ∧
    guardTrue (furrow1 ctx0).ctx.view { pred := 1, pinv := false } = false := by
  decide

theorem witness_issues_customer : Issues custom 0 (furrow1 ctx0) :=
  ⟨fun _ => by rfl, by decide, by decide, by rfl, by rfl, by rfl, by rfl, by rfl, 0x100, ⟨by rfl, by rfl, by rfl, by rfl, by rfl⟩⟩

/-- A context whose S1 grants nothing but fetches, and whose S2 reaches into bank 1, which no engine owns. -/
def ctxBad : Ctx :=
  { ctx0 with seg := (ctx0.seg.set 1 { open_ false with r := false, w := false }).set 2 { open_ false with limit := 0x40000 } }

/-- FaultingWords: a denied access, a misaligned one, one past its limit, one in a bank of no engine; forms that are not legal. -/
theorem witness_faults :
    place (furrow1 ctxBad).extents (ctxBad.segAt 1) 0x10 = .plot 0x10 ∧ (ctxBad.segAt 1).r = false ∧
    place (furrow1 ctxBad).extents (ctxBad.segAt 2) 0x20010 = .plot 0x20010 ∧ (started ctxBad).owns 0 0x20010 = false ∧
    (started ctxBad).handed 0 0x20010 = false ∧ 0x20014 ≤ (ctxBad.segAt 2).limit.toNat ∧
    memOffset { ctxBad with x := 2 } 0x42001 4 = 6 ∧ memOffset { ctxBad with x := 0x1FFF8 } 0x42002 4 = 0x20000 ∧ okMw 0x42001#19 = true ∧
    xMode 0x23000#19 ≠ 0 ∧ xSize 0x23000#19 = 3 ∧ ctx0.view.shsave.getLsbD 31 = false ∧ pswPriv ctx0.view.psw = false ∧
    guardTrue ctx0.view { pred := 1, pinv := false } = false := by
  decide

/-- LoadDelay: registers with no load pending. -/
theorem witness_load_delay : pswLdp ctx0.psw = false := rfl

/-! Commands in execution -/

/-- A command in execution with opcode op and arguments. -/
def acmd (op : Nat) (args : List Word) : ActiveCmd :=
  { k := 5, opcode := BitVec.ofNat 16 op, fence := false, tag := 9, bufAddr := 0, bufLen := 4096, args := Vector.ofFn fun i => args.getD i.val 0
    begun := false, ord := 0, started := false, effect := false, since := 0, hit := none, num := 0, bad := 0 }

/-- A state whose MB00 has one command in execution. -/
def withCmd (s : State) (c : ActiveCmd) : State := s.updMailbox 0 fun M => { M with enReq := true, enabled := true, active := [c] }

theorem started_serves : (started ctx0).supServes = true := by decide

/-- Every statement about a mailbox command: a command may run, one that has begun or started too, whatever its opcode, its arguments and the
state around it, once the port takes the access to its buffer. -/
theorem withActive_runs (s : State) (h : s.supServes = true) (c : ActiveCmd) (op : Nat) (ho : c.opcode = BitVec.ofNat 16 op)
    (hb : (withCmd s c).bufWaits c = false) : Runs (withCmd s c) 0 c.k op c [] := by
  have e : (withCmd s c).mailboxes[(0 : Fin 16)] = { s.mailboxes[(0 : Fin 16)] with enReq := true, enabled := true, active := [c] } := by
    simp [withCmd, State.updMailbox, vupd]
  have k : decide (((withCmd s c).mailboxes[(0 : Fin 16)]).long < 8) = true := by
    rw [e]
    refine decide_eq_true (Nat.lt_of_le_of_lt (List.length_filter_le _ _) ?_)
    show 1 < 8
    decide
  refine ⟨h, by rw [e]; simp [takeFirst], by simp, ho, Or.inr ?_, hb⟩
  unfold Mailbox.mayStart
  rw [k]
  simp [e]

theorem withCmd_runs (s : State) (h : s.supServes = true) (op : Nat) (args : List Word)
    (hb : (withCmd s (acmd op args)).bufWaits (acmd op args) = false) : Runs (withCmd s (acmd op args)) 0 5 op (acmd op args) [] :=
  withActive_runs s h (acmd op args) op rfl hb

/-- IdentityAndReports, EventsAndRights: the commands run; ATTEST, VERSIONS and STATUS_READ have room for their answers. -/
theorem witness_reports : Runs (withCmd (started ctx0) (acmd 0x0104 [])) 0 5 0x0104 (acmd 0x0104 []) [] ∧ 1024 ≤ (acmd 0x0104 []).bufLen ∧
    4096 ≤ (acmd 0x0103 []).bufLen ∧ (acmd 0x0502 [1]).args[(0 : Fin 10)].toNat < 2 ∧ (acmd 0x0702 [9]).args[(0 : Fin 10)].toNat < 10 ∧
    ((started ctx0).snapshot 9 0).length ≤ 4096 :=
  ⟨withCmd_runs _ started_serves _ _ (by decide), by decide, by decide, by decide, by decide, by decide⟩

/-- EventsAndRights: an EVENT_WAIT that has started and waits, its time over, and one whose event has come. -/
def waiter (hit : Option (Nat × Nat × Word)) : ActiveCmd := { acmd 0x0605 [1, 5] with started := true, hit := hit }

def lateState : State := (started ctx0).updAlm fun A => { A with tb := 0x500000000 }

theorem witness_event_wait : Runs (withCmd lateState (waiter none)) 0 5 0x0605 (waiter none) [] ∧ (waiter none).started = true ∧
    (waiter none).hit = none ∧ (waiter none).args[(1 : Fin 10)] ≠ 0 ∧
    (waiter none).args[(1 : Fin 10)].toNat * 1000000 ≤ (withCmd lateState (waiter none)).since (waiter none).since ∧
    Runs (withCmd lateState (waiter (some (3, 0, 7)))) 0 5 0x0605 (waiter (some (3, 0, 7))) [] ∧ (waiter (some (3, 0, 7))).hit = some (3, 0, 7) :=
  ⟨withActive_runs _ (by decide) (waiter none) _ rfl (by decide), rfl, rfl, by decide, by decide,
    withActive_runs _ (by decide) (waiter (some (3, 0, 7))) _ rfl (by decide), rfl⟩

/-- EventsAndRights: MAILBOX_GRANT and MAILBOX_REVOKE of the last mailbox, idle or in an EVENT_WAIT, of MB00 and of none; RESET of each reach. -/
theorem witness_rights : Runs (withCmd (started ctx0) (acmd 0x0801 [15])) 0 5 0x0801 (acmd 0x0801 [15]) [] ∧
    Runs (withCmd (started ctx0) (acmd 0x0802 [15])) 0 5 0x0802 (acmd 0x0802 [15]) [] ∧
    (acmd 0x0801 [15]).args[(0 : Fin 10)].toNat = (15 : Fin 16).val ∧ (15 : Fin 16) ≠ 0 ∧
    (withCmd (started ctx0) (acmd 0x0802 [15])).mailboxes[(15 : Fin 16)].active = [] ∧
    ((withCmd (started ctx0) (acmd 0x0802 [15])).updMailbox 15 fun M => { M with active := [waiter none] }).mailboxes[(15 : Fin 16)].active =
      [waiter none] ∧ (waiter none).opcode = opEventWait ∧ (acmd 0x0802 [15]).started = false ∧ 16 ≤ (acmd 0x0802 [16]).args[(0 : Fin 10)].toNat ∧
    Runs (withCmd (started ctx0) (acmd 0x0808 [0])) 0 5 0x0808 (acmd 0x0808 [0]) [] ∧
    Runs (withCmd (started ctx0) (acmd 0x0808 [1])) 0 5 0x0808 (acmd 0x0808 [1]) [] ∧
    Runs (withCmd (started ctx0) (acmd 0x0808 [3])) 0 5 0x0808 (acmd 0x0808 [3]) [] :=
  ⟨withCmd_runs _ started_serves _ _ (by decide), withCmd_runs _ started_serves _ _ (by decide), by decide, by decide, by decide, by decide, by decide,
    by decide, by decide, withCmd_runs _ started_serves _ _ (by decide), withCmd_runs _ started_serves _ _ (by decide),
    withCmd_runs _ started_serves _ _ (by decide)⟩

/-- SnapshotsAndLedgerReads: every group; a Ledger of two records, the buffer for one. -/
def logged : State :=
  { started ctx0 with
    ledger := { (Ledger.reset 0) with
      ring := [{ seq := 0, time := 0, source := 0, item := { field := 0xFF, event := 1, obj := 0, arg1 := 0, arg2 := 0, lost := 0 } }]
      nextSeq := 1, fill := 1 } }

theorem witness_ledger_read : Runs (withCmd logged (acmd 0x0601 [0])) 0 5 0x0601 (acmd 0x0601 [0]) [] ∧ 32 ≤ (acmd 0x0601 [0]).bufLen ∧
    (logged.ledger.ring.filter fun r => decide (0 ≤ (r.seq - 0).toInt)).length = 1 ∧ logged.pending = [] :=
  ⟨withCmd_runs _ (by decide) _ _ (by decide), by decide, by decide, by rfl⟩

/-- MailboxRegisters: disabled and enabled mailboxes, the smallest and the largest sizes and one beyond each, an EVENT_WAIT in execution. -/
theorem witness_mailbox : (started ctx0).mailboxes[(3 : Fin 16)].enabled = false ∧ (started ctx0).mailboxes[(3 : Fin 16)].enReq = false ∧
    ((0x441#32 : Word).extractLsb' 4 4 : BitVec 4).toNat = 4 ∧ ((0xBA1#32 : Word).extractLsb' 4 4 : BitVec 4).toNat = 10 ∧
    ((0xBA1#32 : Word).extractLsb' 8 4 : BitVec 4).toNat = 11 ∧ ((0x431#32 : Word).extractLsb' 4 4 : BitVec 4).toNat < 4 ∧
    11 < ((0xC41#32 : Word).extractLsb' 8 4 : BitVec 4).toNat ∧ (started ctx0).pins.dormantAck = false ∧
    (withCmd (started ctx0) (acmd 0x0605 [])).mailboxes[(0 : Fin 16)].active = [acmd 0x0605 []] ∧ (acmd 0x0605 []).opcode = opEventWait ∧
    ((started ctx0).updMailbox 2 fun M => { M with cplTail := 1 }).mailboxes[(2 : Fin 16)].cplTail ≠ 0 := by
  decide

/-- A descriptor of IDENTIFY with its CRC. -/
def identifyDesc : List Byte :=
  let l := [0x01, 0x01, 0x00, 0x01, 9, 0, 0, 0] ++ List.replicate 52 (0 : Byte)
  l ++ bytes32 (crc32cOf l)

/-- MB00 with a descriptor to fetch. -/
def waiting : State :=
  (started ctx0).updMailbox 0 fun M => { M with enReq := true, enabled := true, cmdTail := 1 }

/-- DescriptorsFetchedAndChecked: a descriptor that passes every check, one with a bad CRC, the mailbox whose turn it is, a faulted fetch. -/
theorem witness_descriptor : waiting.supServes = true ∧ identifyDesc.length = 64 ∧ waiting.nextMailbox = some 0 ∧
    crc32cOf (identifyDesc.take 60) = le32 identifyDesc 60 ∧ (waiting.checkDesc 0 identifyDesc).1 = 0 ∧
    (cmdSpec (le16 identifyDesc 0)).isSome = true ∧ byteAt identifyDesc 3 = 1 ∧ waiting.mailboxes[(0 : Fin 16)].fetchable = true ∧
    waiting.mailboxes[(0 : Fin 16)].room = true ∧ cmdSpec 0 = none ∧
    crc32cOf ((List.replicate 64 (0 : Byte)).take 60) ≠ le32 (List.replicate 64 (0 : Byte)) 60 ∧ waiting.mailboxes[(0 : Fin 16)].active = [] ∧
    waiting.supBlocked false (waiting.mailboxes[(0 : Fin 16)].cmdBase + BitVec.ofNat 64 (64 * 0)) 64 = false ∧
    (let s := waiting.updMailbox 0 fun M => { M with ringFault := true, retryFetch := true }
     s.mailboxes[(0 : Fin 16)].retryWrite = false ∧ s.mailboxes[(0 : Fin 16)].retryFetch = true ∧
       s.mailboxes[(0 : Fin 16)].fetchable = true ∧ s.mailboxes[(0 : Fin 16)].room = true) := by
  decide +kernel

/-- RecordsWritten: a record at the front, its ring on the first pass and, at 128, on the second. -/
theorem witness_record :
    let s := (started ctx0).updMailbox 0 fun M => { M with enabled := true, enReq := true, cplTail := 127, records := [cplOf 9 0 5 0x0101 [1, 2, 3, 4] none] }
    s.supServes = true ∧ s.mailboxes[(0 : Fin 16)].records = [cplOf 9 0 5 0x0101 [1, 2, 3, 4] none] ∧
    (cplOf 9 0 5 0x0101 [1, 2, 3, 4] none).reset = none ∧ s.mailboxes[(0 : Fin 16)].retryWrite = false ∧
    s.supBlocked true (s.mailboxes[(0 : Fin 16)].cplBase + BitVec.ofNat 64 (32 * (127 % 2 ^ s.mailboxes[(0 : Fin 16)].cplLog2.toNat))) 32 = false := by
  decide

/-- BlockResets: no reset in force; an unlocked requester; a debug session of every scope; an expired watchdog; a start whose deadline has run down. -/
theorem witness_resets : (started ctx0).reset? = none ∧ State.reset.reset?.any BlockReset.cold = true ∧
    ((started ctx0).updHost fun H => { H with unlocks := [(0x41, 0)] }).unlocked 0x41 = true ∧
    ((started ctx0).updDbg fun D => { D with session := some 0x7F }).debugWrite = 0x1F#5 ∧
    ({ Watchdog.wdsReset with running := true, remain := 0 } : Watchdog).en = true ∧ (started ctx0).sup.released = true ∧
    ((started ctx0).updAlm fun A => { A with deadline := some 0 }).almanac.deadline = some 0 ∧
    ((started ctx0).updSup fun S => { S with started := false }).sup.fallow = 0 := by
  decide

/-- FieldAndEngineResets: Field 0 In service, its clock without a fault; RESET of the Field in execution; Field 1 Resetting. -/
theorem witness_field_resets : (started ctx0).fields[(0 : Fin 4)].st = .inService ∧ (started ctx0).pins.clkFault.getLsbD 0 = false ∧
    (started ctx0).mayStop 0 = false ∧ Runs (withCmd (started ctx0) (acmd 0x0808 [2, 0])) 0 5 0x0808 (acmd 0x0808 [2, 0]) [] ∧
    (acmd 0x0808 [2, 0]).args[(0 : Fin 10)] = 2 ∧ (withCmd (started ctx0) (acmd 0x0808 [2, 0])).fieldHeld (some (0, 5)) 0 = false ∧
    (started ctx0).fields[(1 : Fin 4)].st = .resetting ∧ ((started ctx0).updDbg fun D => { D with session := some 0x7F }).debugWrite.getLsbD 0 = true :=
  ⟨by decide, by decide, by decide, withCmd_runs _ started_serves _ _ (by decide), by decide, by decide, by decide, by decide⟩

/-- ClocksSuppliesHeartbeats: clocks with and without a fault; Field 0 Out with its supply withdrawn, and Off with it asked for; every engine of Field 0 lets the
heartbeat pass, and one does not; Dormant and the state before it. -/
def outState : State := (started ctx0).updField 0 fun F => { F with st := .out }

/-- Rolling mode, Field 0 Out, the other Fields Off, every engine in Doze. -/
def sleepy : State :=
  { State.reset with
    reset? := none, pins := { Pins.reset with strapCode := 1 }
    fields := (Vector.replicate 4 { Field.reset with st := .off }).set 0 { Field.reset with st := .out }
    sup := { Sup.reset with released := true, running := true, started := true } }

theorem witness_clocks : (started ctx0).pins.clkFault.getLsbD 5 = false ∧ (started ctx0).mayStop 5 = false ∧ (started ctx0).mayStop 7 = false ∧
    (started ctx0).mayStop 9 = false ∧ (started ctx0).pins.clkFault.getLsbD 8 = false ∧
    (∀ h : Fin 4, (started ctx0).fields[h].ports.txns = []) ∧
    ((started ctx0).updPins fun P => { P with clkFault := 0x200 }).pins.clkFault.getLsbD 9 = true ∧
    (outState.updField 0 fun F => { F with pwrReq := false }).fields[(0 : Fin 4)].pwrReq = false ∧
    (outState.updField 0 fun F => { F with st := .off, retain := true }).fields[(0 : Fin 4)].st = .off ∧
    (∀ e : Fin 24, ((started ctx0).updEngine 0 fun E => { E with beat := true }).beatOk (globalOf 0 e) = true) ∧
    (started ctx0).beatOk (globalOf 0 0) = false ∧ (started ctx0).supAlive = true ∧ (started ctx0).almanac.wdf[(0 : Fin 4)].frozen = false := by
  decide

theorem witness_dormant : sleepy.sealed = false ∧ sleepy.supAlive = true ∧ sleepy.reset? = none ∧ sleepy.pins.clkFault.getLsbD 8 = false ∧
    (∀ e : Fin 24, sleepy.engines[globalOf 0 e].st = .doze) ∧ (∀ m : Fin 16, sleepy.mailboxes[m].active = []) ∧ sleepy.dbg.session = none ∧
    (sleepy.updPins fun P => { P with dormantAck := true }).pins.dormantAck = true := by
  decide

/-- ReleaseSteps: the reset of power-on may go on, and may not while a program pulse runs; a Field and an engine of their own. -/
theorem witness_release : State.reset.reset? = some { cold := true, cause := 0, step := 0, failed := false } ∧
    (State.reset.pins.brnout = false ∧ State.reset.seed.pulse = false ∧ ∀ h : Fin 4, State.reset.fields[h].draining = false) ∧
    (State.reset.updSeed fun d => { d with pulse := true }).seed.pulse = true ∧ (started ctx0).reset? = none ∧
    (let s := (started ctx0).updField 1 fun F => { F with tested := true }
     s.mayRelease 1 = true ∧ s.fields[(1 : Fin 4)].tested = true ∧ s.supAlive = true ∧ s.inFallow = false ∧ s.reset? = none ∧ s.seed.pulse = false) ∧
    ((State.reset.updField 0 fun F => { F with tested := true }).fields[(0 : Fin 4)].tested = true ∧ State.reset.supAlive = false) ∧
    ((started ctx0).updEngine 5 fun E => { E with resetHeld := true }).engines[(5 : Fin 96)].resetHeld = true := by
  decide

/-- The block released with its boot ROM about to run. -/
def booting : State :=
  { State.reset with
    reset? := some { cold := true, cause := 0, step := 4, failed := false }, sup := { Sup.reset with released := true }
    fields := State.reset.fields.set 0 { Field.reset with relStep := 1 } }

/-- BootRunsImage: each reason of R415 that the straps, the island and the Seed store give; an image whose header fails. -/
theorem witness_boot : booting.bootReady = true ∧ booting.sup.slotUsed = none ∧ booting.pins.strapAgreed = true ∧
    booting.pins.strapCode.getLsbD 0 = true ∧ booting.seed.unreadable = false ∧ booting.island.failedStarts.toNat < 3 ∧
    booting.seed.pending = none ∧ booting.seed.trial = none ∧ booting.seed.active = false ∧ booting.seed.blank = true ∧ booting.sup.fallow = 0 ∧
    fwHeaderOk (List.replicate 200 0) = false ∧ 3 ≤ ({ coldResets := 1, cause := 6, failedStarts := 3 } : Island).failedStarts.toNat := by
  decide

/-- StartAndFallow: START_OK may come; a Field with retained configuration; the Fallow set of one item and a packet of one sample pair. -/
def fallowItem : Item := { ty := 0x0030, body := [0, 1, 1, 0, 0, 0, 1, 0] }

theorem witness_start : (sleepy.updSup fun S => { S with started := false }).mayStartOk = true ∧
    (outState.updSup fun S => { S with reapply := 1 }).sup.reapply.getLsbD 0 = true ∧ outState.sup.confErr.getLsbD 0 = false ∧
    outState.fields[(0 : Fin 4)].st = .out ∧
    byteAt fallowItem.body 1 = 1 ∧ (byteAt fallowItem.body 2).toNat = 1 ∧ (le16 fallowItem.body 6).getLsbD 0 = true ∧
    ([1, 2, 3, 4, 5, 6] : List Byte).length = (le16 fallowItem.body 4).toNat + 6 := by
  decide

theorem witness_fallow : (outState.updSup fun S => { S with fallow := 1, started := false }).inFallow = true ∧
    (outState.updSup fun S => { S with fallow := 1, started := false }).supAlive = true := by
  decide

/-! Drills and streams -/

/-- The small state with a drill of Field 0 changed, furrow 1 owning every drill. -/
def drilled (D : Drill) : State :=
  { (started ctx0).updDrill 0 2 (fun _ => D) with furrows := [{ furrow1 ctx0 with desc := { desc0 with drills := 0xFFFF } }] }

/-- DrillCommandsAndRegisters: the writer reaches the drill; each state; values at the ends of their ranges; full and empty FIFOs. -/
theorem witness_drill : (drilled Drill.reset).drillReach (.furrow 0) = some (0, 0xFFFF) ∧ (0xFFFF#16).getLsbD 15 = true ∧
    (drilled { Drill.reset with st := .running }).fields[(0 : Fin 4)].drills[(2 : Fin 16)].st = .running ∧
    (drilled { Drill.reset with st := .stopped, stoppedFrom := .waiting }).fields[(0 : Fin 4)].drills[(2 : Fin 16)].changed = false ∧
    (started ctx0).sealedCommitted = false ∧ fieldN (0x7FE0#32) 0 10 + fieldN (0x7FE0#32) 10 5 = 1023 ∧
    1023 < fieldN (0x7FFF#32) 0 10 + fieldN (0x7FFF#32) 10 5 ∧ fieldN (0x00100000#32) 20 12 ≠ 0 ∧
    runValueBad (drilled Drill.reset).fields[(0 : Fin 4)] 2 .dmode 0x100000 = false ∧ (0x100000#32).getLsbD 21 = false ∧
    (List.replicate 32 (0 : Word)).length = 32 ∧ (List.replicate 31 (0 : Word)).length < 32 ∧
    mapSorted (drilled Drill.reset).fields[(0 : Fin 4)].progErr := by
  decide

/-- The sealed block after its first commit. -/
theorem witness_sealed : ((started ctx0).updSup fun S => { S with firstCommit := true, committed := true }).sealedCommitted = true := by decide

/-- A program of one word at word 0. -/
def programmed (D : Drill) (w : Word) : State := (drilled D).updField 0 fun F => { F with prog := [(0, w)] }

/-- DrillProgramAndFeeders: a running drill whose word is bad (FLOW 6) and one whose word is a jump, a WAIT, a FETCH without words; a WAIT for timer 3 whose
event has come; a stalled FETCH and STASH. -/
theorem witness_program : (programmed { Drill.reset with st := .running } 0xC0000000).drlRuns 0 = true ∧
    wordBad 0xC0000000 0 = true ∧ wordBad 0x20000000 0 = false ∧ fieldN (0x20000000#32) 29 3 = 1 ∧ wordBad 0x80000023 0 = false ∧
    fieldN (0x80000023#32) 29 3 = 4 ∧ (0x8000#32).getLsbD 15 = true ∧ wordBad 0x8000 0 = false ∧
    ([] : List Word).length < lanes ({ Drill.reset with dmode := 0x1000FF } : Drill).txMask ∧ (0x1000FF#32).getLsbD 20 = true ∧
    ({ Drill.reset with st := .waiting, ticks := 8 } : Drill).waitHolds 0x80000023 = true ∧
    ({ Drill.reset with rxFifo := List.replicate 24 0, dmode := 0xFF00 } : Drill).rxFifo.length + lanes ({ Drill.reset with dmode := 0xFF00 } : Drill).rxMask ≤ 32 ∧
    (0x4000#32).getLsbD 14 = true ∧ ([0, 0] : List Word).length < fieldN (0x00220000#32) 18 6 ∧ wordBad 0x00220000 0 = false ∧
    ({ Drill.reset with st := .running, bits := 2 } : Drill).bits ≠ 0 ∧ fieldN (0x00220000#32) 18 6 ≤ 6 + ({ Drill.reset with bits := 2 } : Drill).bits.toNat := by
  decide

/-- Two of the eight bit times of a word pass: its place is kept in BITS; six more end it (R305, R316). -/
theorem test_drill_word_in_two : (match exec (.drillWord 0 2 [0, 0]) (programmed { Drill.reset with st := .running } 0x00220000) with
    | .next t => (t.fields[(0 : Fin 4)].drills[(2 : Fin 16)].bits == 2) && (match exec (.drillWord 0 2 (List.replicate 6 0)) t with
        | .next u => u.fields[(0 : Fin 4)].drills[(2 : Fin 16)].bits == 0 && u.fields[(0 : Fin 4)].drills[(2 : Fin 16)].st == .running
        | _ => false)
    | _ => false) = true := by
  decide +kernel

/-- A doorbell that opens a ring of 256 bytes at offset 0x8000 of the furrow's extent. -/
def bell (h : Nat) : Doorbell := { hdr := h, words := #v[0x101, 0x8000, 1, 0], segs := Vector.replicate 8 (open_ false), priv := true }

/-- A ring of the furrow with 256 bytes (8 frame descriptors, 4 mover descriptors at size 2). -/
def ring (h size : Nat) : Ring := { hdr := h, ext := 0, off := 0x8000, size := size, rext := 0, roff := 0xC000, rsize := 10, fetched := 0, pubs := [bell h], closing := false }

/-- Furrow 1 with an ingress ring for queue 0, an egress ring for queue 1, a mover ring and a TX and an RX ring of drill 0, and a twin. -/
def stream1 : Furrow :=
  { furrow1 ctx0 with
    desc := { desc0 with ingress := [0, 255, 255, 255], egress := [1, 255, 255, 255], drills := 0xFFFF }
    rings := [ring 0 14, ring 4 3, ring 8 2, ring 9 3, ring 25 8], twin := some 2 }

/-- The small state with that furrow, queues 0 (ingress) and 1 (egress, twin) bound with frames of up to 512 bytes. -/
def streamed : State :=
  { (started ctx0).updField 0 (fun F => { F with queueTab := [[0, 0, 0, 0, 0, 2, 0, 0, 0, 0, 0, 0], [1, 1, 0, 0, 0, 2, 2, 0, 0, 0, 0, 0]] }) with
    furrows := [stream1] }

/-- DrillProgramAndFeeders: the feeders' furrow, rings and place, with words of a frame to feed. -/
theorem witness_feeders : streamed.drillFurrow 0 0 = some stream1 ∧ streamed.furrow? stream1.id = some stream1 ∧ stream1.ring? 9 = some (ring 9 3) ∧
    stream1.ring? 25 = some (ring 25 8) ∧ stream1.plotAddr 0 0x8000 = some 0x8000 ∧ streamed.rangeOk stream1 0x8000 256 = true ∧
    ({ Drill.reset with dmode := 0x80000, feed := [1, 2, 3, 4, 5] } : Drill).dmode.getLsbD 19 = true ∧
    (streamed.hidx stream1 25 - streamed.fidx stream1 25).toNat + 16 ≤ 2 ^ 8 := by
  decide

/-- A remote copy that is due now. -/
def farCopy : TwinFrame := { own := false, fseq := 6, due := 0, place := 0, desc := List.replicate 32 0, data := [1, 2, 3, 4], err := none }

/-- TwinSelection: the twin-bound ring of egress header 4; a decision due; a frame number not yet decided; room for a copy in the remote area. -/
theorem witness_twin : streamed.furrow? 1 = some stream1 ∧ stream1.home = some 0 ∧ streamed.twinRing stream1 4 = true ∧
    stream1.ring? 4 = some (ring 4 3) ∧ isEgress 4 = true ∧ isTx 9 = true ∧ streamed.carries 0 = true ∧
    ({ stream1 with rings := [{ ring 4 3 with pubs := [] }] } : Furrow).ring? 4 = some { ring 4 3 with pubs := [] } ∧
    streamed.frameAt { stream1 with rings := [{ ring 4 3 with pubs := [] }] } 4 0 = none ∧ streamed.decideNow stream1 farCopy.due = true ∧
    (stream1.selOf 4).past farCopy.fseq = false ∧ (stream1.selOf 4).far = [] ∧
    farPlace [] (2 ^ 10) (recordBytes (bytesAt farCopy.desc 0 32) farCopy.data).length = some 0 ∧
    stream1.plotAddr 0 0xC000 = some 0xC000 ∧ streamed.rangeOk stream1 0xC000 (2 ^ 10) = true := by
  decide

/-- TwinSelection: a copy for the furrow's selector that has crossed the bridge whole, in its turn, in the mover of Field 1. -/
def crossed : OwnJob :=
  { copy := true, fid := 2, hdr := 4, dst := 0, dfid := 1, ord := 7, len := 36, moved := 36, cut := false, data := List.replicate 32 0 ++ [1, 2, 3, 4] }

theorem witness_arrival :
    let s := streamed.updPorts 1 fun P => { P with own := [crossed] }
    s.furrow? 1 = some stream1 ∧ s.fields[(1 : Fin 4)].ports.own.find? (fun p => p.ord == 7 && s.fields[(1 : Fin 4)].ports.copyDone 0 1 4 p) = some crossed ∧
    (ring 4 3).rsize ≠ 0 ∧ farPlace (stream1.selOf 4).far (2 ^ 10) (recordBytes (bytesAt (crossed.data.take 32) 0 32) (crossed.data.drop 32)).length = some 0 ∧
    stream1.plotAddr (ring 4 3).rext (ring 4 3).roff = some 0xC000 ∧ s.rangeOk stream1 0xC000 (2 ^ 10) = true := by
  decide

/-- Beats of queue q: a first one, one that goes on, and those that end a packet. -/
def beat (sop eop : Bool) (nb : BitVec 6) : Beat :=
  { sop := sop, eop := eop, nb := nb, err := false, queue := 0, ts := 0, data := List.replicate 64 1, freed := 0 }

/-- A packet of 64 bytes on queue 0. -/
def packet : RxPacket := { queue := 0, ts := 0, data := List.replicate 64 1 }

/-- StreamPorts: a beat that opens and ends a packet, one that opens it, one that goes on; the buffer at its last place and full; a packet one byte too
long in its ring's frames of 512 bytes. -/
theorem witness_beats : (beat true true 0).sop = true ∧ streamed.fields[(0 : Fin 4)].ports.rxOpen = none ∧
    packet = { packet with data := [] ++ bytesAt (beat true true 0).data 0 64 } ∧ (beat true true 0).eop = true ∧ (beat true false 3).nb ≠ 0 ∧
    (let s := streamed.updPorts 0 fun P => { P with rxOpen := some packet, inHeld := 127 }
     s.fields[(0 : Fin 4)].ports.rxOpen = some packet ∧ s.fields[(0 : Fin 4)].ports.inHeld - (beat false false 0).freed < 128) ∧
    128 ≤ (streamed.updPorts 0 fun P => { P with inHeld := 128 }).fields[(0 : Fin 4)].ports.inHeld - (beat true false 0).freed ∧
    512 < ({ packet with data := List.replicate 513 1 } : RxPacket).data.length ∧ streamed.spUp 0 = true := by
  decide +kernel

/-- StreamPorts: the port is up; the packet's queue is bound to a ring with room; without a binding (queue 9); a doorbell for a closed header. -/
theorem witness_ingress : streamed.spUp 0 = true ∧ streamed.strmRuns = true ∧ streamed.carries 0 = true ∧
    mapSorted streamed.fields[(0 : Fin 4)].ports.counts ∧ mapSorted streamed.tally ∧
    streamed.fields[(0 : Fin 4)].binding 0 0 = some [0, 0, 0, 0, 0, 2, 0, 0, 0, 0, 0, 0] ∧ streamed.fields[(0 : Fin 4)].binding 9 0 = none ∧
    bindMerge [0, 0, 0, 0, 0, 2, 0, 0, 0, 0, 0, 0] = false ∧ bindMax [0, 0, 0, 0, 0, 2, 0, 0, 0, 0, 0, 0] = 512 ∧
    mapSorted streamed.fields[(0 : Fin 4)].ports.drops ∧ streamed.ingressOf 0 0 = some (stream1, 0) ∧
    streamed.fields[(0 : Fin 4)].primaryOf 0 = 0 ∧ streamed.ringsStopped 1 = false ∧
    stream1.ring? 0 = some (ring 0 14) ∧ packet.data.length ≤ 512 ∧
    (32 + 512 + 63) / 64 * 64 ≤ 2 ^ 14 - (streamed.hidx stream1 0 - streamed.fidx stream1 0).toNat ∧
    (32 + 512 + 63) / 64 * 64 ≤ 2 ^ 14 - (streamed.hidx stream1 0).toNat % 2 ^ 14 ∧ stream1.keyAddr (extKey 0 0x8000) = some (0, 0x8000) ∧
    streamed.rangeOk stream1 0x8000 (2 ^ 14) = true ∧ stream1.ring? 5 = none ∧ (bell 5).words[0].getLsbD 0 = true := by
  decide

/-- A frame descriptor of 64 bytes at offset 0x9000 through S0, to be sent at once. -/
def frameDesc : List Byte := [64, 0, 0, 0, 0, 0x90] ++ List.replicate 26 (0 : Byte)

/-- Furrow 1 without a twin and with egress credits, its frame descriptor in Plot. -/
def sending : State :=
  let s := (streamed.updPorts 0 fun P => { P with credits := 1 }).plotWrite 0 0x8000 frameDesc
  { s with furrows := [{ stream1 with twin := none }] }

/-- StreamPorts: the frame of queue 1 is due and its turn has come; it resolves and is sound. -/
theorem witness_egress : sending.egressOf 0 1 = some ({ stream1 with twin := none }, 4) ∧ sending.nextQueue 0 = some 1 ∧
    sending.egressNext { stream1 with twin := none } 4 = some (.inr (bell 4, frameDesc)) ∧ isTx 4 = false ∧
    stream1.framePlace 4 (bell 4) frameDesc = some 0x9000 ∧ frameSound 4 (sending.frameTop stream1 4) frameDesc = true ∧
    frameLen 4 frameDesc = 64 ∧ sending.rangeOk stream1 0x9000 64 = true ∧ (∀ j, j < 64 → sending.eccAt 0 (0x9000 + j) = none) ∧
    sending.spUp 0 = true ∧ sending.strmRuns = true ∧ sending.carries 0 = true ∧ (ring 4 3).closing = false ∧
    sending.fields[(0 : Fin 4)].ports.txOpen = none ∧ sending.fields[(0 : Fin 4)].ports.credits = 1 ∧ sending.fields[(0 : Fin 4)].ports.left = [] ∧
    (sending.noteDesc 0 { stream1 with twin := none } 4 (sending.hidx { stream1 with twin := none } 4)).2 = false := by
  decide +kernel

/-- StreamPorts: a chosen twin frame of one beat, with a credit and without one; a frame on its way that needs more than 1 credit. -/
theorem witness_chosen :
    let c : TwinFrame := { farCopy with place := 64 }
    let F : Furrow := { stream1 with sels := [{ stream1.selOf 4 with chosen := [c] }] }
    let s : State := { sending with furrows := [F] }
    s.egressNext F 4 = some (.inl c) ∧ c.own = false ∧ s.egressOf 0 1 = some (F, 4) ∧ s.nextQueue 0 = some 1 ∧ (c.data.length + 63) / 64 = 1 ∧
    s.fields[(0 : Fin 4)].ports.credits = 1 := by
  decide +kernel

/-- StreamPorts: doorbells of a header that is closed, one whose ring resolves and one whose SIZE is out of range, and one that closes a ring. -/
theorem witness_doorbell : takeFirst (fun x : Doorbell => x.hdr == 5) [bell 5] = some (bell 5, []) ∧ (bell 5).hdr = 5 ∧ stream1.ring? 5 = none ∧
    (resolveRing 5 { bell 5 with words := #v[0x81, 0x8000, 0, 0] } 0).isSome = true ∧
    resolveRing 5 { bell 5 with words := #v[0x21, 0x8000, 0, 0] } 0 = none ∧
    ({ bell 5 with words := #v[0, 0, 0, 0] } : Doorbell).words[0].getLsbD 0 = false ∧ stream1.ownsHeader 5 = true ∧ 5 ∉ stream1.enSeen ∧
    stream1.home = some 0 ∧ streamed.ringBusy 0 1 4 = false ∧
    (streamed.updPorts 0 fun P => { P with txOpen := some { queue := 1, src := some (1, 4), chosen := none, desc := [], data := [], err := none, beats := 3 } }).ringBusy
      0 1 4 = true := by
  decide

/-! The fabric and the mover -/



/-- A FILL of 64 bytes and a read of 64 bytes into Plot in the mover. -/
def job (op : Nat) (waiting : Nat) : Job :=
  { fid := 1, idx := 0, slotAddr := 0x8000, op := op, event := true, fence := false, tag := 4, len := 64, src := (true, 0x1000)
    dst := (false, 0x9000), pattern := 0xAABBCCDD, dfurrow := 0, dring := 0, ord := 5, moved := 0, waiting := waiting, status := 0, resp := 0, bridge := none
    got := [] }

def readTxn : Txn := { id := 9, write := false, addr := 0x1000, len := 64, bytes := [], sid := 0, ssv := true, ssid := 1, attr := 0, owner := .mover 1 0 0, issued := 0 }

def flying (l : List Txn) (j : List Job) : State := streamed.updPorts 0 fun P => { P with txns := l, jobs := j, quarantine := [7] }

/-- FabricResponses: a store and a mover read in flight, an ID in quarantine, no engine waiting for room. -/
theorem witness_fabric : (∀ (e : Fin 24), (flying [storeTxn] []).engines[globalOf 0 e].phase = .ready) ∧
    1000000 ≤ ((flying [storeTxn] []).updAlm fun A => { A with tb := 1000000 }).since storeTxn.issued ∧ (job 0 1).src.1 = true ∧
    (flying [readTxn] [job 0 1]).keyHeld stream1 (0x9000 + 0) 64 = false ∧ (job 0 1).dst = (false, 0x9000) ∧ (flying [storeTxn] []).dbg.dumpOut = [] ∧
    (flying [storeTxn] []).fields[(0 : Fin 4)].ports.txns.find? (fun u => u.id == 3 && u.write == true) = some storeTxn ∧
    (flying [readTxn] [job 0 1]).fields[(0 : Fin 4)].ports.txns.find? (fun u => u.id == 9 && u.write == false) = some readTxn ∧
    stream1.ctx.rep8 = none ∧ (job 0 1).moved + readTxn.len = (job 0 1).len ∧ stream1.keyAddr 0x9000 = some (0, 0x9000) ∧
    streamed.rangeOk stream1 0x9000 64 = true ∧ (7 : BitVec 10) ∈ (flying [] []).fields[(0 : Fin 4)].ports.quarantine := by
  decide

/-- A mover descriptor: FILL of 64 bytes at offset 0x9000 through S0, with its CRC. -/
def fillDesc : List Byte :=
  let l : List Byte := [1, 0, 4, 0, 64, 0, 0, 0, 0, 0, 0, 0, 0, 0, 0, 0, 0, 0x90, 0, 0, 0xDD, 0xCC, 0xBB, 0xAA] ++ List.replicate 20 0
  l ++ bytes32 (crc32cOf l) ++ List.replicate 16 0

def moving : State := streamed.plotWrite 0 0x8000 fillDesc

/-- MoverAndBridge: the next descriptor of the mover ring is a FILL that passes its checks; a job whose work has ended. -/
theorem witness_mover : (ring 8 2).pubOf 0 = some (bell 8) ∧ (moving.moverRead stream1 (extKey 0 0x8000) 64).2 = (fillDesc, 0) ∧
    fillDesc.length = 64 ∧ moving.moverSlot 0 (some 0) = true ∧ (byteAt fillDesc 1).getLsbD 1 = false ∧
    (moving.jobOf stream1 (bell 8) 0 (extKey 0 0x8000) fillDesc).status = 0 ∧ (moving.jobOf stream1 (bell 8) 0 (extKey 0 0x8000) fillDesc).op = 1 ∧
    (moving.jobOf stream1 (bell 8) 0 (extKey 0 0x8000) fillDesc).dst = (false, 0x9000) ∧
    (moving.jobOf stream1 (bell 8) 0 (extKey 0 0x8000) (List.replicate 64 0)).status ≠ 0 ∧
    (flying [] [{ job 1 0 with moved := 64 }]).job? 0 1 0 = some { job 1 0 with moved := 64 } ∧
    streamed.rangeOk stream1 0x8030 16 = true ∧ stream1.keyAddr (0x8000 + 48) = some (0, 0x8030) ∧
    moving.keyHeld stream1 (extKey 0 0x8000) 64 = false ∧ moving.fields[(0 : Fin 4)].ports.jobs = [] ∧
    moving.keyHeld stream1 0x9000 64 = false ∧ stream1.home = some 0 := by
  decide +kernel

/-- MoverAndBridge: a job whose work has ended and whose turn has come; one that failed after it had begun to write. -/
theorem witness_completion :
    let j : Job := { job 1 0 with moved := 64 }
    let s := flying [] [j]
    s.job? 0 1 0 = some j ∧ (∀ h : Fin 4, h ≠ 0 → s.job? h 1 0 = none) ∧ j.waiting = 0 ∧ s.fields[(0 : Fin 4)].ports.inOrder j = true ∧
    s.keyHeld stream1 (j.slotAddr + 48) 16 = false ∧ j.op ≠ 2 ∧ j.len ≤ j.moved ∧ j.spoils = false ∧
    (let b : Job := { job 0 0 with moved := 16, status := 6 }
     b.spoils = true ∧ b.moved < b.len ∧ stream1.keyAddr (b.dst.2 + b.moved) = some (0, 0x9010) ∧ streamed.rangeOk stream1 0x9010 (b.len - b.moved) = true ∧
       (flying [] [b]).fields[(0 : Fin 4)].ports.inOrder b = true ∧ (flying [] [b]).job? 0 1 0 = some b) := by
  decide

/-- MoverAndBridge: a SEND of furrow 1 to its own ingress ring, whose data have been read. -/
theorem witness_send :
    let j : Job := { job 2 0 with moved := 64, dfurrow := 1, dring := 0, got := List.replicate 64 7 }
    let s := flying [] [j]
    j.status = 0 ∧ j.op = 2 ∧ j.len ≤ j.moved ∧ s.bridgeFor 0 j = j.bridge ∧ (s.deliver stream1 j).isSome = true := by
  decide +kernel

/-- MoverAndBridge: a frame copy, and a SEND whose source has been read, wait for the bridge, whose turn is Field 0's. -/
theorem witness_bridge :
    (let s := streamed.updPorts 0 fun P => { P with own := [{ crossed with moved := 0, dst := 1 }] }
     nextField s.bridgeRr (fun h => s.fabRuns && s.fields[h].ports.nextUnit.isSome) = some 0 ∧ s.fields[(0 : Fin 4)].ports.nextUnit = some 7 ∧
       (s.fields[(0 : Fin 4)].ports.jobs.find? fun k => k.ord == 7 && s.fields[(0 : Fin 4)].ports.grantsJob k) = none ∧
       s.fields[(0 : Fin 4)].ports.own.find? (fun p => p.ord == 7) = some { crossed with moved := 0, dst := 1 }) ∧
    (let j : Job := { job 2 0 with bridge := some 1, got := List.replicate 64 0 }
     let s := flying [] [j]
     nextField s.bridgeRr (fun h => s.fabRuns && s.fields[h].ports.nextUnit.isSome) = some 0 ∧ s.fields[(0 : Fin 4)].ports.nextUnit = some 5 ∧
       (s.fields[(0 : Fin 4)].ports.jobs.find? fun k => k.ord == 5 && s.fields[(0 : Fin 4)].ports.grantsJob k) = some j) := by
  decide

/-! Staging, commits, furrows, images -/

/-- A watchdog record: WDF0, 500 ms, enabled. -/
def wdItem : Item := { ty := 0x0041, body := [1, 0, 0, 0, 0xF4, 1, 1, 0] }

/-- The small state with Field 0 Out and a session of MB00 on every Field. -/
def staging : State := outState.updSup fun S => { S with sessions := [{ mb := 0, mask := 15, num := 1, items := [] }] }

/-- StagingAndRecords: the session; a record that stands whole in its buffer and can be staged; one with a bad CRC and a short one. -/
theorem witness_staging : (staging.session? 0).isSome = true ∧ wdItem.ok = true ∧ wdItem.ty < 65536 ∧ wdItem.body.length < 65528 ∧
    parseRecords wdItem.record 0 3 = .ok [(0, wdItem)] ∧ (staging.stageAll 0 15 [] [(0, wdItem)]).isOk = true ∧
    parseRecords (wdItem.record.take 15 ++ [2]) 0 3 = .error (0xB, 0) ∧ parseRecords [1, 2, 3] 0 1 = .error (9, 0) ∧
    (acmd 0x0203 [0x41, 1]).args[(0 : Fin 10)].toNat < 0xF0 := by
  decide +kernel

/-- CommitTakesEffect: Rolling mode, Field 0 Out and covered by the session; SEAL_REF at the seal of the configuration, and another. -/
def committing : State :=
  let s := { staging with pins := { Pins.reset with strapCode := 1 } }
  s.updHost fun H => { H with sealRef := (confSeal (s.asCommitted 0 1)).1 }

theorem witness_commit : committing.supServes = true ∧ committing.sealed = false ∧ committing.sessionError 0 1 = 0 ∧
    committing.sessionHeld (some (0, 5)) 0 = false ∧ committing.fieldHeld (some (0, 5)) 0 = false ∧ committing.fields[(0 : Fin 4)].st = .out ∧
    committing.sup.custErr.getLsbD 0 = false ∧ committing.commitError (committing.asCommitted 0 1) 1 = none ∧
    (confSeal (committing.asCommitted 0 1)).1 = committing.host.sealRef ∧
    (confSeal (committing.asCommitted 0 1)).1 ≠ staging.host.sealRef ∧ committing.sessionError 3 1 ≠ 0 := by
  decide +kernel

/-- A plan table without entries, with its CRC. -/
def planTable : List Byte :=
  let l : List Byte := [1, 0, 3, 0] ++ List.replicate 60 0
  l ++ bytes32 (crc32cOf l)

/-- PlansAndPolicy: the last plan and one past it; a table in order; rates and headroom at the ends of their ranges. -/
theorem witness_plans : planLen planTable = 68 ∧ crc32cOf (planTable.take 64) = le32 planTable 64 ∧ (staging.sessionError 0 0xF = 0) ∧
    (acmd 0x0401 [15]).args[(0 : Fin 10)].toNat < 16 ∧ 16 ≤ (acmd 0x0401 [16]).args[(0 : Fin 10)].toNat ∧
    5 ≤ (acmd 0x0404 [5, 1]).args[(0 : Fin 10)].toNat ∧ (acmd 0x0404 [50, 0]).args[(0 : Fin 10)].toNat ≤ 50 ∧
    (acmd 0x0803 [0, 400000]).args[(1 : Fin 10)].toNat = 400000 ∧ (acmd 0x0803 [4, 1600000]).args[(1 : Fin 10)].toNat ≤ 1600000 ∧
    outState.fields[(0 : Fin 4)].st = .out ∧ mapFind 2 [(2, planTable)] = some planTable := by
  decide +kernel

theorem witness_plan_ranges : ∀ r ∈ planRanges 3 planTable, r.2 = true := by decide +kernel

/-- A descriptor of class 2 for Field 0, restartable, demand 100, 128 KiB, with 64 bytes of firmware and its CRC: its first 64 bytes. -/
def descHead : List Byte :=
  [1, 0, 2, 1, 0xFF, 0xFF, 1, 3, 100, 0, 128, 0, 64, 0, 0, 0, 0, 0, 0, 0, 0, 0, 0, 0, 103, 235, 200, 3, 0, 0, 0, 0, 0xFF, 0xFF, 0xFF, 0xFF, 0xFF, 0xFF, 0xFF, 0xFF] ++
    List.replicate 24 0

/-- The descriptor with its CRC. -/
def furrowDesc : List Byte := descHead ++ (List.replicate 60 0 ++ [82, 19, 63, 214])

theorem descHead_crc : descHead.foldl crcByte 0xFFFFFFFF#32 = 1335440896#32 := by decide +kernel

theorem furrowDesc_crc : crc32cOf (bytesAt furrowDesc 0 124) = le32 furrowDesc 124 := by
  have e : bytesAt furrowDesc 0 124 = descHead ++ List.replicate 60 0 := by decide +kernel
  rw [e]
  unfold crc32cOf
  rw [List.foldl_append, descHead_crc]
  decide +kernel

/-- Rolling mode with a session, furrow 5 as FURROW_CREATE made it, its Field In service. -/
def created : State :=
  let s := { started ctx0 with pins := { Pins.reset with strapCode := 1 } }
  { s with furrows := [newFurrow 5 0 (descOf furrowDesc) 0], sup := { s.sup with sessions := [{ mb := 0, mask := 15, num := 1, items := [] }] } }

/-- FurrowCommands: a descriptor that passes; a created furrow that an engine can take. -/
theorem witness_create : created.createCheck 0 furrowDesc = .ok (0, 0) ∧ (descOf furrowDesc).twinOf = 0xFFFF ∧ 128 ≤ (acmd 0x0301 []).bufLen := by
  refine ⟨?_, by decide +kernel, by decide⟩
  unfold State.createCheck
  rw [if_neg (not_not_intro furrowDesc_crc)]
  decide +kernel

theorem witness_start_furrow : (withCmd created (acmd 0x0302 [5])).named 0 (acmd 0x0302 [5]) false = .ok (newFurrow 5 0 (descOf furrowDesc) 0) ∧
    created.bindings (newFurrow 5 0 (descOf furrowDesc) 0) = 2 ∧ created.twinStart (newFurrow 5 0 (descOf furrowDesc) 0) = (true, false) ∧
    crc32cOf (bytesAt (List.replicate 64 0) 0 64) = (descOf furrowDesc).codeCrc ∧ created.sealed = false ∧
    created.codeWaits (newFurrow 5 0 (descOf furrowDesc) 0) = false ∧ (newFurrow 5 0 (descOf furrowDesc) 0).blockCanFit = true ∧
    (let u := created.readCode (newFurrow 5 0 (descOf furrowDesc) 0)
     u.bindings (newFurrow 5 0 (descOf furrowDesc) 0) = 2 ∧ (u.twinStart (newFurrow 5 0 (descOf furrowDesc) 0)).2 = false ∧
       u.choose (newFurrow 5 0 (descOf furrowDesc) 0) (fun _ => true) = some (0, false) ∧
       (u.alloc 0 (newFurrow 5 0 (descOf furrowDesc) 0) none none).any (fun a => (newFurrow 5 0 (descOf furrowDesc) 0).blockFits a.extents) = true) := by
  decide +kernel

/-- FurrowCommands, SignalAndRestore: a furrow in each state; one that another mailbox owns; a zone that is not known. -/
theorem witness_furrow_states : (withCmd (started ctx0) (acmd 0x0303 [1])).named 0 (acmd 0x0303 [1]) false = .ok (furrow1 ctx0) ∧
    (withCmd (started ctx0) (acmd 0x0303 [1])).named 0 (acmd 0x0303 [1]) true = .ok (furrow1 ctx0) ∧ (furrow1 ctx0).st = .running ∧
    (withCmd (started ctx0) (acmd 0x0303 [2])).named 0 (acmd 0x0303 [2]) false = .error 9 ∧ (furrow1 ctx0).home = some 0 ∧
    (started ctx0).restoreCode 0 (acmd 0x0306 [1, 1, 7]) = 1 ∧ (started ctx0).sower.migs = [] := by
  decide

/-- ImageLoads: the mask of Field 0, which is Out and covered; an image too short for its checks, of either target. -/
theorem witness_images : (acmd 0x0501 [0, 1]).args[(0 : Fin 10)] = 0 ∧ (acmd 0x0501 [1]).args[(0 : Fin 10)] = 1 ∧ staging.sessionError 0 1 = 0 ∧
    staging.fieldHeld (some (0, 5)) 0 = false ∧ staging.fields[(0 : Fin 4)].st = .out ∧
    staging.custError (List.replicate 131 0) 4096 = some (9, 0) ∧ staging.fwError (List.replicate 131 0) 4096 = some (9, 0) := by
  decide

/-! Service, host registers, the Almanac -/

/-- Every Field In service, in Rolling mode, with no furrow. -/
def allIn : State :=
  { started ctx0 with
    fields := Vector.replicate 4 field1, furrows := [], pins := { Pins.reset with strapCode := 1 }
    engines := Vector.replicate 96 { Engine.reset with resetHeld := false } }

/-- Furrow 1 as a furrow that may move: 16 KiB, any Field. -/
def mover1 : Furrow := { furrow1 ctx0 with desc := { desc0 with workset := 128 } }

/-- Furrow 1 on engine 0 of four Fields In service, a session open. -/
def movable : State := { allIn with furrows := [mover1], engines := allIn.engines.set 0 engine1 }

/-- ServiceCommands: a drain of a Field without furrows; power off, retained and on; a bank that is FREE and one that is OWNED; an engine without furrows, as
ENGINE_TEST and ENGINE_RETIRE need it. -/
theorem witness_service : (∀ h : Fin 4, allIn.fields[h].st = .inService) ∧ (∀ F ∈ allIn.furrows, F.engine.map fieldOf ≠ some 3) ∧
    (withCmd allIn (acmd 0x0804 [3])).fieldHeld (some (0, 5)) 3 = false ∧ (acmd 0x0804 [3]).started = false ∧
    (allIn.updField 1 fun F => { F with st := .out }).fields[(1 : Fin 4)].st = .out ∧
    (allIn.updField 1 fun F => { F with st := .off }).fields[(1 : Fin 4)].st = .off ∧
    10000000 ≤ (allIn.updAlm fun A => { A with tb := 10000000 }).since 0 ∧ (withCmd allIn (acmd 0x0602 [0, 31, 0x10])).bankHeld (some (0, 5)) 0 31 = false ∧
    allIn.fields[(0 : Fin 4)].banks[(31 : Fin 32)].st = .free ∧ allIn.fields[(0 : Fin 4)].banks[(0 : Fin 32)].st = .owned ∧
    (allIn.flaggedRows 0 31).length ≤ allIn.fields[(0 : Fin 4)].banks[(31 : Fin 32)].freeSpares.length ∧
    (withCmd allIn (acmd 0x0603 [95])).engineHeld (some (0, 5)) 95 = false ∧ allIn.residents 95 = [] ∧ allIn.isTarget 95 = false ∧
    allIn.engines[(95 : Fin 96)].st ≠ .retired ∧ (allIn.updSup fun S => { S with firstCommit := true }).sup.firstCommit = true := by
  decide

/-- FIELD_DRAIN of a Field with a furrow that another Field can take (packing in Doze and awake engines). -/
theorem witness_drain : (∃ F ∈ movable.furrows, F.engine.map fieldOf = some 0) ∧ (movable.drainMoves 0).isSome = true ∧
    movable.hasRefuge mover1 0 = true := by
  decide +kernel

/-- MoveWalkDebugCommands: a move of furrow 1 to engine 1 of Field 0; a walk later today; zones of LINE_READ up to the last. -/
theorem witness_move : (withCmd movable (acmd 0x0307 [1, 0, 1])).named 0 (acmd 0x0307 [1, 0, 1]) false = .ok mover1 ∧ mover1.engine = some 0 ∧
    globalOf 0 1 ≠ 0 ∧ mover1.desc.fieldMask.getLsbD 0 = true ∧ movable.usable (globalOf 0 1) = true ∧ movable.fieldOk mover1 0 = true ∧
    movable.slotFor mover1 (globalOf 0 1) = true ∧ (movable.migAlloc mover1 (globalOf 0 1)).isSome = true ∧
    movable.furrowsHeld (some (0, 5)) (movable.walkFields 0 4095) = false ∧ fieldN movable.now 32 32 < 5 ∧ movable.walk? 0 5 = none ∧
    movable.zonesToWalk 0 4095 = [] ∧ (0 : Nat) + 4095 ≤ 4095 ∧ (4095 < 1 + 4095) ∧ 32 ≤ (acmd 0x0901 []).bufLen ∧ movable.dbg.session = none ∧
    movable.sealed = false ∧ ({ movable with pins := { Pins.reset with strapCode := 1 } } : State).dbgAuth = false := by
  decide +kernel

/-- HostRegisters: an unlocked requester and one that is not; an indirect pair held by requester 1 at timer 0's CMP, writable and readable; a write in
flight; an interrupt message that may leave; accesses of the right and of a wrong size. -/
def paired : State :=
  (started ctx0).updHost fun H =>
    { H with
      unlocks := [(7, 0)], idxHolder := H.idxHolder.set 0 (some 1), idxAddr := H.idxAddr.set 0 0x01020008#32
      route := H.route.set 16 3, idxWrite := H.idxWrite.set 1 (some (0x020008, 5, 1)), fldAck := 1 }

theorem witness_host : paired.unlocked 7 = true ∧ paired.unlocked 8 = false ∧ paired.sealedCommitted = false ∧ paired.host.idxWrite[(0 : Fin 4)] = none ∧
    paired.host.idxHolder[(0 : Fin 4)] = some 1 ∧ idxAddrOf paired.host.idxAddr[(0 : Fin 4)] = 0x020008 ∧
    (paired.riRead 0 0x020008 (paired.isPeek 1)).isSome = true ∧ paired.host.idxWrite[(1 : Fin 4)] = some (0x020008, 5, 1) ∧
    fieldN paired.host.route[(16 : Fin 22)] 0 2 = 3 ∧ paired.irqCond 16 = true ∧ paired.host.msgFlight[(16 : Fin 22)] = false ∧
    paired.host.msgHeld[(16 : Fin 22)] = false ∧ paired.fabRuns = true ∧
    (paired.issueTxn 0 supIds true 0 4 (bytes32 0) (.message 16)).isSome = true ∧ accessOk 0x00000 4 = true ∧ accessOk 0x00002 4 = false ∧
    accessOk 0 8 = false ∧ (0x1F010#20).toNat = 0x10010 + 0x1000 * (15 : Fin 16).val := by
  decide

theorem witness_idx_write : (paired.updAlm fun A => { A with timers := A.timers.set 0 { Timer.reset with owner := some none } }).riRefuses 0x020008 = 0 := by
  decide

/-- TimeBase: no timer is due; a frozen watchdog without honoured freezes (Sealed mode, no session); the DRL clock in range; the supervisor's firmware runs
and does not; no edge for 3 s, and one just seen. -/
theorem witness_time : (∀ n : Fin 32, (started ctx0).almanac.timers[n].due = false) ∧ (started ctx0).freezeHonoured = false ∧
    ((started ctx0).updAlm fun A => { A with wds := { A.wds with frozen := true } }).almanac.wds.frozen = true ∧
    (started ctx0).pins.clkFault.getLsbD 7 = false ∧ (started ctx0).almanac.set = false ∧ (started ctx0).supAlive = true ∧
    ((started ctx0).updSup fun u => { u with halted := true }).supAlive = false ∧ (started ctx0).since (started ctx0).almanac.ppsAt < 1500000000 ∧
    3000000000 ≤ ((started ctx0).updAlm fun A => { A with tb := 0x0000000300000000#64 }).since 0 := by
  decide

/-- Timers: a timer of the host and one of furrow 1, running in AUTO mode, its match due; captures of source 1 and of sources 2 and 5; a pair not chained. -/
def timed : State :=
  (started ctx0).updAlm fun A =>
    { A with
      timers := (A.timers.set 4 { Timer.reset with owner := some (some 1), ctl := 0x53, due := true, period := 9, pendCmp := some 3 }).set 6
        { Timer.reset with owner := some none, ctl := 0x11 } }

theorem witness_timers : timed.ownsTimer (.furrow 0) 4 = true ∧ timed.ownsTimer (.host 1) 6 = true ∧ timed.ownsTimer (.host 1) 4 = false ∧
    chained timed.almanac.timers 4 = false ∧ timed.almanac.timers[(4 : Fin 32)].mode = 1 ∧ timed.almanac.timers[(4 : Fin 32)].capsrc = 5 ∧
    timed.almanac.timers[(6 : Fin 32)].capsrc = 1 ∧ timed.almanac.timers[(4 : Fin 32)].capDue = false ∧ timed.almanac.timers[(4 : Fin 32)].due = true ∧
    timed.almanac.timers[(4 : Fin 32)].owner = some (some 1) ∧ timed.sealedCommitted = false ∧ fieldN (0x55#32) 1 2 ≠ 3 ∧
    timed.furrow? 1 = some (furrow1 ctx0) := by
  decide

/-! Background work -/

/-- SealLedgerMessages: a committed block with the seal in force and with another; an item waiting in queue 0; a message sent once and twice. -/
def committed : State := (started ctx0).updSup fun S => { S with committed := true, firstCommit := true }

theorem witness_seal : committed.sup.committed = true ∧ committed.reset? = none ∧
    (committed.updHost fun H => { H with sealAct := committed.passSeal.1 }).host.sealAct = committed.passSeal.1 ∧
    committed.passSeal.1 ≠ committed.host.sealAct ∧ committed.sealed = true ∧ committed.passSeal.2[(0 : Fin 5)] ≠ committed.host.sealActParts[(0 : Fin 5)] := by
  decide +kernel

theorem witness_ledger : (started ctx0).pins.clkFault.getLsbD 4 = false ∧ (started ctx0).ledger.nextSource = some 0 ∧
    (started ctx0).ledger.queues[(0 : Fin 15)].length = 1 ∧ (started ctx0).fieldGone 0 = false ∧
    ((started ctx0).updField 0 fun F => { F with msgs := [(3, false, 0)] }).fields[(0 : Fin 4)].msgs.find? (fun m => m.1 == 3) = some (3, false, 0) ∧
    ((started ctx0).updField 0 fun F => { F with msgs := [(3, true, 0)] }).fields[(0 : Fin 4)].msgs.find? (fun m => m.1 == 3) = some (3, true, 0) ∧
    4000 ≤ ((started ctx0).updAlm fun A => { A with tb := 4000 }).since 0 := by
  decide

/-- Scrubbing: a correctable and an uncorrectable word, the last position of the sweep, a reported word and microword, a preserving test at its first and at
its last stripe, tables in error. -/
def errors : State :=
  ((started ctx0).updField 0 fun F =>
    { F with
      ecc := [(8191, .corr), (16383, .uncorr)], gleanPos := 8191, sowerErr := some .uncorr
      banks := F.banks.set 0 { F.banks[(0 : Fin 32)] with gleanQ := [8191] } }).updEngine 0 fun E => { E with csErr := [(7, .corr)], dispErr := some .corr }

theorem witness_scrub : errors.fieldGone 0 = false ∧ errors.fields[(0 : Fin 4)].gleanPos < 8192 ∧ errors.eccAt 0 (0 * 131072 + 16 * 8191) = some .corr ∧
    errors.eccAt 0 (1 * 131072 + 16 * 8191) = some .uncorr ∧ mapSorted errors.fields[(0 : Fin 4)].ecc ∧
    errors.fields[(0 : Fin 4)].banks[(0 : Fin 32)].gleanQ = [8191] ∧ errors.supAlive = true ∧ errors.engines[(0 : Fin 96)].st = .awake ∧
    mapFind 7 errors.engines[(0 : Fin 96)].csErr = some .corr ∧ errors.engines[(0 : Fin 96)].dispErr = some .corr ∧
    errors.fields[(0 : Fin 4)].sowerErr ≠ none ∧ errors.fields[(0 : Fin 4)].sowerErr ≠ some .corr := by
  decide

theorem witness_preserving :
    (withCmd (started ctx0) { acmd 0x0602 [0, 0, 1] with started := true }).preservingOn 0 0 = some (0, { acmd 0x0602 [0, 0, 1] with started := true }) ∧
    (withCmd (started ctx0) { acmd 0x0602 [0, 0, 1] with started := true, num := 127 }).preservingOn 0 0 =
      some (0, { acmd 0x0602 [0, 0, 1] with started := true, num := 127 }) ∧
    (started ctx0).fields[(0 : Fin 4)].banks[(0 : Fin 32)].st = .owned ∧ (started ctx0).bankPinned 0 0 = false ∧
    (started ctx0).fields[(0 : Fin 4)].banks[(0 : Fin 32)].failsIn 127 [] = [] := by
  decide

/-- Migrations: a move of furrow 1 to engine 1 of Field 0 in each of its states. -/
def mig (st : MigSt) (aborts : Nat) : Migration :=
  { fid := 1, src := 0, dst := 1, st := st, was := .running, aborts := aborts, extents := [], handed := false, rechosen := false, cmd := none, why := 0, arrived := []
    swapped := false }

def migrating (st : MigSt) (aborts : Nat) : State := movable.updSower fun W => { W with migs := [mig st aborts] }

/-- The small state at a migration's boundary: furrow 1 runs on, or is off its engine, its copy under way to engine 30 of Field 1. -/
def crossing (moved : Nat) (cut : Bool) : State :=
  let o : OwnJob := { copy := false, fid := 1, hdr := 0, dst := 1, dfid := 1, ord := 0, len := 131072, moved := moved, cut := cut, data := [] }
  (movable.updSower fun W => { W with migs := [{ mig .transfer 0 with dst := 30 }] }).updPorts 0 fun P => { P with own := [o] }

theorem witness_migrations : (∀ st ∈ [MigSt.prepare, .quiesce, .capture, .repoint, .transfer, .resume], (migrating st 0).mig? 1 = some (mig st 0)) ∧
    (migrating .prepare 0).furrow? 1 = some mover1 ∧ (migrating .prepare 0).fields[(0 : Fin 4)].stallSower = false ∧
    (migrating .prepare 0).targetOk 1 = true ∧ (migrating .prepare 0).slotFor mover1 1 = true ∧
    (migrating .prepare 0).sameMicrocode mover1 0 = true ∧ (migrating .prepare 0).engines[(0 : Fin 96)].st ≠ .halted ∧
    ((migrating .prepare 0).migAlloc mover1 1).isSome = true ∧ (migrating .prepare 0).moveWaits (mig .prepare 0) = false ∧
    (migrating .quiesce 0).quiesceable 0 = true ∧ (migrating .quiesce 0).engines[(0 : Fin 96)].cur = some 1 ∧
    ((migrating .quiesce 0).updEngine 0 fun E => { E with phase := .stalled 0 }).quiesceable 0 = false ∧ (mig .quiesce 2).aborts = 2 ∧
    (mig .quiesce 2).why ≠ forRetire ∧ (migrating .capture 0).storesOut 1 = false ∧ mover1.ctxLost = false ∧
    mapFind 0xC0 (migrating .capture 0).engines[(0 : Fin 96)].csErr = none ∧ (migrating .resume 0).handingOver mover1 = false ∧
    (migrating .resume 0).sealed = false ∧ (mig .resume 0).arrived = [] ∧
    (migrating .resume 0).sower.resetAfter = [] ∧ mover1.handsOver 1 = true ∧ mover1.handsOver 30 = false ∧ mover1.home ≠ some (fieldOf 30) ∧
    (movable.updBank 0 3 fun B => { B with st := .handover, target := 5 }).fields[(0 : Fin 4)].banks[(3 : Fin 32)].st = .handover ∧
    (∀ g : Fin 96, fieldOf g = 0 → ∀ v, movable.engines[g].phase ≠ .stalled v) := by
  refine ⟨by decide +kernel, by decide +kernel, by decide +kernel, by decide +kernel, by decide +kernel, by decide +kernel, by decide +kernel,
    by decide +kernel, by decide +kernel, by decide +kernel, by decide +kernel, by decide +kernel, by decide +kernel, by decide +kernel,
    by decide +kernel, by decide +kernel, by decide +kernel, by decide +kernel, by decide +kernel, by decide +kernel, by decide +kernel,
    by decide +kernel, by decide +kernel, by decide +kernel, by decide +kernel, fun g _ v => ?_⟩
  rw [show movable.engines[g].phase = .ready from by revert g; decide +kernel]
  exact fun e => Phase.noConfusion e

/-- Migrations, TRANSFER to another Field: no copy yet, one whose last unit has crossed, one under way, one cut off; and a copy within a Field. -/
theorem witness_transfer :
    (migrating .transfer 0).copyOf { mig .transfer 0 with dst := 30 } = none ∧ (crossing 0 false).targetOk 30 = true ∧
    (∀ c ∈ [false, true], ∀ n ∈ [0, 131072], ∃ o, (crossing n c).copyOf { mig .transfer 0 with dst := 30 } = some o ∧ o.cut = c ∧ o.moved = n ∧ o.len = 131072) ∧
    ({ mover1 with st := .moving } : Furrow).st = .moving ∧ (mig .transfer 0).why ≠ forRetire ∧
    (let G : Furrow := { mover1 with desc := { mover1.desc with workset := 16 }, extents := [{ base := 0, len := 16384 }] }
     let d : Extent := { base := 32768, len := 16384 }
     G.handsOver 1 = false ∧ G.home = some (fieldOf 1) ∧ ({ mig .transfer 0 with extents := [d] } : Migration).extents = [d] ∧
       d.base + 16384 ≤ 4194304 ∧ mapSorted movable.plot) := by
  refine ⟨by decide +kernel, by decide +kernel, fun c hc n hn => ⟨{ copy := false, fid := 1, hdr := 0, dst := 1, dfid := 1, ord := 0, len := 131072, moved := n, cut := c, data := [] }, ?_⟩,
    by decide, by decide, by decide +kernel⟩
  exact ⟨rfl, rfl, rfl, rfl⟩

/-- SowerActs: an engine of Field 0 overloaded for three windows, with room elsewhere; Doze; an event with and without a transition; a retirement due; a cold restart
with and without a place; a stalled Sower; a run of escalations that is over. -/
theorem witness_sower : movable.sowerActs 0 = true ∧ movable.sealed = false ∧ movable.fields[(0 : Fin 4)].st = .inService ∧
    movable.residents 5 = [] ∧ (movable.updEngine 5 fun E => { E with st := .awake }).engines[(5 : Fin 96)].st = .awake ∧ movable.sower.packing = true ∧
    movable.sup.passThrough = false ∧ (started ctx0).sealed = true ∧ (started ctx0).transiting = false ∧ (started ctx0).transitionFor 1 0 = none ∧
    movable.isTarget 5 = false ∧
    (∀ k : Fin 4, (started ctx0).fields[k].stallSower = false) ∧ (movable.updEngine 5 fun E => { E with retireDue := some 3 }).engines[(5 : Fin 96)].retireDue = some 3 ∧
    movable.restartChoice mover1 1 = some (some (1, none, false)) ∧ (movable.allocFor 1 mover1 none).isSome = true ∧
    ({ mover1 with run := some (2, some 0) } : Furrow).run = some (2, some 0) ∧
    1000000000 ≤ (movable.updAlm fun A => { A with tb := 0x100000000 }).since 0 := by
  decide +kernel

/-! Lines, tally, debug, exceptions -/

/-- The record of zone 5: one line, its A end 2 and its B end 3. -/
def zone5 : List Byte := [5, 0, 1] ++ List.replicate 13 0 ++ [2, 0, 3, 0] ++ List.replicate 8 0

/-- A class-A line of zone 5 before any estimate. -/
def line5 : LineSt := (linesOf 0 [{ ty := 0x0030, body := zone5 }]).headD
  { zone := 0, line := 0, field := 0, classA := false, a := EndSt.start, b := EndSt.start, adrv := true, bdrv := false, crossed := false
    release := false, zmag := 0, dev := none, gain := 0, vb := 0, seq := 0, owed := false, posted := 0 }

/-- A drill in DDR mode at DDIV 0x00140000, begun on a DRL edge by a WAIT on timer 3. -/
def linkDrill1 (mode : Word) : Drill :=
  { Drill.reset with st := .running, ddiv := 0x00140000, dmode := mode ||| 0x10000, began := some (3, 0) }

/-- Pin record: pin p carries role r of drill d. -/
def pinRec (p d r : Nat) : List Byte := [BitVec.ofNat 8 p, BitVec.ofNat 8 d, BitVec.ofNat 8 r, 0]

/-- A supervision furrow of Field 0 with zone 5 as z and one line, its drills D0, D3 and D4 on their pins. -/
def lined (z : ZoneSt) : State :=
  let F : Furrow := { furrow1 ctx0 with desc := { desc0 with cls := 1, fieldMask := 1 }, twin := some 2 }
  let U : Sup := { (started ctx0).sup with conf := [(0, { ty := 0x0030, body := zone5 })], judged := [line5], zones := [z] }
  ({ started ctx0 with furrows := [F], sup := U } : State).updField 0 fun H =>
    { H with
      drills := ((H.drills.set 0 (linkDrill1 0xFF)).set 4 (linkDrill1 0x300)).set 3 { Drill.reset with st := .running, dmode := 0x100 }
      pinTab := [pinRec 24 0 8, pinRec 25 0 9, pinRec 27 4 0, pinRec 28 4 1, pinRec 0 0 0, pinRec 26 3 0] }

/-- A walk of zone 5 in its step n, yielded or not. -/
def walking5 (n : Nat) (y : Bool) : ZoneSt := { ZoneSt.start 5 0 with walking := true, step := n, yielded := y }

/-- LineSupervision: a supervised line that owes its post; room in the queue; a post that waits; a stale zone; sides that differ since long; a walk in its first and
in its last step, running and yielded; a walk of the command past its four hours. -/
theorem witness_lines :
    ((lined (ZoneSt.start 5 0)).supervisor? 0).isSome = true ∧ (lined (ZoneSt.start 5 0)).drlRuns 0 = true ∧ (lined (ZoneSt.start 5 0)).linkRuns 0 = true ∧
    (lined (ZoneSt.start 5 0)).rackSampled 0 = true ∧ (lined (ZoneSt.start 5 0)).fields[(0 : Fin 4)].rackPosted = none ∧
    (started ctx0).linkRuns 0 = false ∧
    (lined (ZoneSt.start 5 0)).sup.judged = [line5] ∧ line5.field = 0 ∧ (lined (ZoneSt.start 5 0)).zoneRec 0 line5.zone = some zone5 ∧
    (lined (ZoneSt.start 5 0)).inWalkStep line5.zone = false ∧ (((lined (ZoneSt.start 5 0)).zone? line5.zone).any ZoneSt.walking) = false ∧
    (line5.cycle (lineCfg zone5 line5.line) (stepLevel 0) (fun _ => true) []).owed = true ∧
    (({ line5 with owed := false } : LineSt).cycle (lineCfg zone5 line5.line) (stepLevel 0) (fun _ => false) []).owed = false ∧
    4930000000 ≤ ((lined (ZoneSt.start 5 0)).updAlm fun A => { A with tb := 0x600000000 }).since line5.posted ∧ (lined (ZoneSt.start 5 0)).fields[(0 : Fin 4)].posts.length < 64 ∧
    (lined (ZoneSt.start 5 0)).engines[(0 : Fin 96)].cur = some 1 ∧ (lined (ZoneSt.start 5 0)).postRoom (fieldOf 0) = true ∧
    (lined (ZoneSt.start 5 0)).supAlive = true ∧ fieldN (0x00005005#32) 0 12 = 5 ∧ (lined (ZoneSt.start 5 0)).isStale 5 = true ∧
    20000000000 ≤ ((lined (ZoneSt.start 5 0)).updAlm fun A => { A with tb := 0x2000000000 }).since (ZoneSt.start 5 0).since ∧
    30000000000 ≤ ((lined { ZoneSt.start 5 0 with differ := [(0, 0)] }).updAlm fun A => { A with tb := 0x4000000000 }).since 0 := by
  decide +kernel

/-- Ends 2 and 3 in a cycle in which both lines' words show VALID, the A end with DRIVING. -/
def shown : List EndObs :=
  let a : List Word := List.replicate 480 0x88
  let b : List Word := List.replicate 480 0x80
  [{ endNo := 2, v := a, i := a, b := [], programme := [] }, { endNo := 3, v := b, i := b, b := b, programme := [] }]

/-- A line with its two ends as commanded passes step W3. -/
theorem witness_step : (lined (walking5 3 false)).stepFails 5 3 [shown] = none := by
  decide +kernel

theorem witness_walks :
    (lined (walking5 1 false)).zone? 5 = some (walking5 1 false) ∧ (lined (walking5 1 false)).zoneServed 5 = true ∧
    (lined (walking5 1 false)).hasLoop 5 = true ∧ (lined (walking5 1 false)).stepFails 5 1 [] ≠ none ∧ (walking5 1 false).step < 4 ∧ 4 ≤ (walking5 4 false).step ∧
    (∀ u ∈ (lined (walking5 4 false)).sup.walks, 5 ∉ u.now) ∧ (walking5 1 false).yields < 2 ∧
    2 ≤ ({ walking5 1 false with yields := 2 } : ZoneSt).yields ∧
    60000000000 ≤ ((lined (walking5 0 true)).updAlm fun A => { A with tb := 0x4000000000 }).since (walking5 0 true).yieldAt ∧
    14400000000000 ≤ ((lined (walking5 0 true)).updAlm fun A => { A with tb := 0x400000000000 }).since (acmd 0x0604 []).since := by
  decide

/-- TallyAndTrace: a tally configuration that samples Field 0; a window that is not frozen; an awake engine; a packet of two words at engine 0. -/
def tallied : State :=
  let s := (started ctx0).updDbg fun d => { d with tallyCfg := [0, 0, 0, 0, 1, 0, 3, 0] ++ List.replicate 14 0 ++ [1, 1] }
  s.updEngine 0 fun E => { E with trace := [0x10, 7] }

theorem witness_tally : tallied.dbg.tallyCfg ≠ [] ∧ tallyEvent tallied.dbg.tallyCfg ≠ 0 ∧ tallyPeriod tallied.dbg.tallyCfg ≠ 0 ∧
    (tallyFields tallied.dbg.tallyCfg).getLsbD (fieldOf 0).val = true ∧ tallied.dbg.samples.length < 64 ∧ mapSorted tallied.tally ∧
    tallied.fields[(0 : Fin 4)].freezeWin = false ∧ tallied.supAlive = true ∧ tallied.engines[(0 : Fin 96)].st = .awake ∧ tallied.dbg.trcPkt = 0 ∧
    tallied.nextTrace = some 0 ∧ tallied.agingDue tallied.engines[(0 : Fin 96)] = true ∧ (tallied.updDbg fun d => { d with trcPkt := 1 }).dbg.trcPkt ≠ 0 ∧
    (tallied.updHost fun H => H).fabRuns = true ∧
    ({ tallied with pins := { tallied.pins with clkFault := 0x3FF } } : State).fabRuns = false ∧
    tallied.windowOver 0 2 = false ∧ (tallied.updAlm fun A => { A with tb := 100000 }).windowOver 0 2 = true := by
  decide

/-- DebugPort: a debugger of every scope; engine 0 running furrow 1 in a word, idle, halted; the supervisor running and halted. -/
def debugged : State := (started ctx0).updDbg fun d => { d with session := some 0x7F, dmmCtl := 0xFFFF0 }

theorem witness_debug : debugged.pins.clkFault.getLsbD 9 = false ∧ debugged.portBHeld 0 debugged.dbg.dmmPlot 16 = false ∧
    ({ debugged with pins := { debugged.pins with clkFault := 0x200 } } : State).pins.clkFault.getLsbD 9 = true ∧
    60000000000 ≤ (debugged.updAlm fun A => { A with tb := 0x4000000000 }).since 0 ∧ debugged.since 0 < 60000000000 ∧
    debugged.mayControl (.engine 0) = true ∧ debugged.mayControl .sup = true ∧ debugged.engines[(0 : Fin 96)].st = .awake ∧
    debugged.engines[(0 : Fin 96)].ctl.stepping = false ∧ debugged.engines[(0 : Fin 96)].resetHeld = false ∧ debugged.engines[(0 : Fin 96)].cur ≠ none ∧
    (debugged.updEngine 0 fun E => { E with cur := none }).engines[(0 : Fin 96)].cur = none ∧
    (debugged.updEngine 0 fun E => { E with phase := .stalled 0 }).engines[(0 : Fin 96)].phase ≠ .ready ∧
    (debugged.updEngine 0 fun E => { E with st := .halted }).engines[(0 : Fin 96)].st = .halted ∧ debugged.sup.running = true ∧
    debugged.sup.halted = false ∧ debugged.furrow? 1 = some (furrow1 ctx0) ∧
    (writeSelected (furrow1 ctx0) Sheaf.given 0 7).isSome = true ∧ debugged.dbg.dmmSpace = 0 ∧ debugged.dbg.dmmField = 0 ∧
    debugged.dmmClosed 0 (bankOf debugged.dbg.dmmPlot) = false ∧ debugged.debugRead.getLsbD 0 = true ∧ debugged.debugWrite.getLsbD 0 = true ∧ debugged.dbg.dmmMask = 0xFFFF ∧
    debugged.fields[(0 : Fin 4)].banks[bankOf debugged.dbg.dmmPlot].st ≠ .harrow ∧ mapSorted debugged.plot ∧
    (0x1FFF#32 ^^^ debugged.dbg.freeze) &&& 0x1FFF#32 &&& ~~~freezeScope debugged.debugWrite = 0 := by
  decide

/-- DebugPort, PROV_CMD: an open block without a commit (Config.validPoint is a device's own: some key must be a point of the curve). -/
theorem witness_prov : ({ started ctx0 with pins := { Pins.reset with strapCode := 1 } } : State).sealed = false ∧
    ({ started ctx0 with pins := { Pins.reset with strapCode := 1 } } : State).dbgAuth = false ∧ (started ctx0).sup.firstCommit = false ∧
    (started ctx0).seed.custKey = none ∧ (started ctx0).seed.dbgKey = none := by
  decide

/-- ExceptionEntered: a word of vector 12 at fault, its descriptor in the table at 0x4000 of extent 0 with its handler at 0x800, the frame below SP. -/
def fault12 : EngFault :=
  { vector := 12, pc := 0x100, addr := 0, slot := false, seg := 0, fetch := false, write := false, more := 0, detail := 0 }

def ctxE : Ctx := { ctx0 with excBase := 0x4000 }

def faulting : State :=
  ((started ctxE).plotWrite 0 (0x4000 + 16 * 12) [0, 8, 0, 0, 0, 7, 0, 0]).updEngine 0 fun E => { E with phase := .faulted fault12 }

theorem witness_exception_event : faulting.nextEvent 0 (furrow1 ctxE) = some { fault := fault12, sync := true } := rfl

theorem witness_exception : faulting.tableFault 0 (furrow1 ctxE) 0x4000 [12] = none ∧
    faulting.descWord 0 (furrow1 ctxE) 0x4000 12 0 = 0x800 ∧ faulting.descWord 0 (furrow1 ctxE) 0x4000 12 1 = 0x700 ∧
    (ExcDesc.mk 0x800 0x700 0 0).invalid 12 = false ∧ masked (entryLevel ctxE (ExcDesc.mk 0x800 0x700 0 0) 12) ctxE.psw = false ∧
    targetFault (ctxE.segAt (ExcDesc.mk 0x800 0x700 0 0).cseg) (ExcDesc.mk 0x800 0x700 0 0).priv 0x800 = none ∧
    (ExcDesc.mk 0x800 0x700 0 0).stksw = false ∧ mapSorted faulting.plot ∧ faulting.engines[(0 : Fin 96)].st = .awake ∧
    faulting.engines[(0 : Fin 96)].hold = none ∧ faulting.engines[(0 : Fin 96)].mismatch = none ∧ mapFind 0x20 faulting.engines[(0 : Fin 96)].csErr = none ∧
    faulting.eccAt (fieldOf 0) (0 + tableAddr 0x4000 12 0) = none ∧ faulting.furrow? 1 = some (furrow1 ctxE) := by
  decide +kernel

theorem witness_exception_frame :
    Span (started ctxE) 0 { furrow1 ctxE with ctx := { ctxE with psw := insertBits ctxE.psw 15 (if (ExcDesc.mk 0x800 0x700 0 0).priv then 1#1 else 0#1) } }
      7 0xFD0 48 4 false true 0xFD0 := by
  have e : ({ ctxE with psw := insertBits ctxE.psw 15 (if (ExcDesc.mk 0x800 0x700 0 0).priv then 1#1 else 0#1) } : Ctx) = ctxE := by decide
  rw [e]
  have h : Span (started ctxE) 0 (furrow1 ctxE) 7 0xFD0 48 4 false true (0xFD0#32).toNat :=
    started_span ctxE (by rfl) (by rfl) 7 0xFD0 48 4 false true (by decide) (by decide)
  exact h

/-- EngineEvents: a furrow escalated, its headland page on top of the first bank. -/
def escalated : State :=
  (started ctx0).updEngine 0 fun E =>
    { E with
      phase := .escalated { fault := fault12, reason := 1, level := 0, behind := 0 }, hdlSp := 0x20000 }

theorem witness_engine_events : (0x20000#22).toNat = 131072 ∧ 4096 ≤ escalated.engines[(0 : Fin 96)].hdlSp.toNat ∧ escalated.owns 0 (131072 - 64) = true ∧
    escalated.headlandCount 0 131072 = (0, true) ∧ escalated.owns 0 (131072 - 64 * (0 % 63 + 2)) = true ∧
    mapFind 0x40 escalated.engines[(0 : Fin 96)].csErr = none ∧ escalated.mig? 1 = none ∧
    ((started ctx0).updEngine 0 fun E => { E with cur := none }).pickNext 0 = some (furrow1 ctx0) ∧ (furrow1 ctx0).ctxLost = false ∧
    mapFind 0x80 (started ctx0).engines[(0 : Fin 96)].csErr = none := by
  decide +kernel

/-- Furrows 1 and 2 of equal PRIORITY on engine 0, furrow 1 with a Sheaf save area and altered registers. -/
def sharing : State :=
  let F : Furrow := { furrow1 { ctx0 with shsave := 0x80010000 } with engine := some 0 }
  let s : State := { started ctx0 with furrows := [F, { furrow1 ctx0 with id := 2 }] }
  s.updEngine 0 fun E => { E with order := [1, 2], sliceUp := true, sheaf := { E.sheaf with dirty := true }, hold := none }

theorem witness_switch : sharing.switchDue 0 = true ∧ sharing.switchable 0 = true ∧ (sharing.furrow? 1).any (fun F => decide (F.saveArea = some 0x10000)) = true ∧
    sharing.engines[(0 : Fin 96)].sheaf.dirty = true ∧ sharing.engines[(0 : Fin 96)].phase = .ready ∧ mapSorted sharing.plot ∧
    ((sharing.readyOn 0).map Furrow.id) = [1, 2] ∧
    (sharing.updEngine 0 fun E => { E with hold := some 0 }).engines[(0 : Fin 96)].hold = some 0 ∧
    (sharing.updEngine 0 fun E => { E with phase := .customerOver 0x100 }).engines[(0 : Fin 96)].phase = .customerOver 0x100 := by
  decide +kernel

/-! The block -/

theorem witness_invariant : Inv State.reset.pending State.reset := State.reset_inv

theorem witness_plot : Memory.wf State.reset ∧ (4194300 : Nat) + ([1, 2, 3, 4] : List Byte).length ≤ 4194304 := by
  decide

/-! Ill-formed commands: one for each check of WellFormed.lean -/

theorem ill_furrow : fidOk 4095 = false := by decide
theorem ill_zone : zoneInRange 4095 = false := by decide
theorem ill_row : (Instr.harrowRunDestructive 0 0 [1032] true).wf = false := by decide
theorem ill_size : (Instr.registerWrite 0 0 3 0).wf = false := by decide
theorem ill_reply : (Instr.descriptorFetch (.bad 0)).wf = false := by decide
theorem ill_end : (EndObs.mk 6144 [] [] [] []).wf = false := by decide
theorem ill_dwell : (Instr.walkStep 1 [[EndObs.mk 1 [0] [] [] []]]).wf = false := by decide
theorem ill_packet : (Packet.mk []).wf = false ∧ (Packet.mk [{ beat true true 0 with data := [1] }]).wf = false := by decide
theorem well_packet : (Packet.mk [beat true true 1]).wf = true := by decide

/-! Small checks against the manual's own examples -/

/-- A of furrow 1 after one command. -/
def aAfter (c : Instr) (s : State) : Option Word :=
  match exec c s with
  | .next t => (t.furrow? 1).map fun F => F.ctx.view.a
  | _ => none

theorem crc_of_five : ([0x31, 0x32, 0x33, 0x34, 0x35] : List Byte).foldl crcByte 0xFFFFFFFF#32 = 0xE72EDCCA#32 := by decide +kernel

/-- The check value of R47. -/
theorem test_crc32c : crc32cOf ([0x31, 0x32, 0x33, 0x34, 0x35] ++ [0x36, 0x37, 0x38, 0x39]) = 0xE3069283#32 := by
  unfold crc32cOf
  rw [List.foldl_append, crc_of_five]
  decide +kernel

/-- The example after R126: mask 0x97 at SP 0x7F00. -/
theorem test_call_frame : frameSize 0x97 = 10 ∧ callFrame 0x97 0x1234 { ctx0 with sp := 0x7F00 } =
    [0x0A97, 0x7F00] ++ ((List.range 4).map fun j => (open_ false).image.extractLsb' (32 * j) 32) ++ [0x200, 3, 7, 0x1234] := by
  decide +kernel

/-- The example before R148: LDAH of IMM 0x1C60D, then OR of 0x01283. -/
theorem test_ldah : aAfter (.ldah 0 always 0x1C60D) (started ctx0) = some 0xE3068000 := by decide +kernel
theorem test_or : aAfter (.or 0 always 0x01283) (started { ctx0 with a := 0xE3068000 }) = some 0xE3069283 := by decide +kernel

/-- Descriptor 26 of the example after R213, and its cause word. -/
theorem test_descriptor : (ExcDesc.mk 0x1A00 0x344E 2 0x800).cseg = 6 ∧ (ExcDesc.mk 0x1A00 0x344E 2 0x800).priv = true ∧
    (ExcDesc.mk 0x1A00 0x344E 2 0x800).newml = 4 ∧ (ExcDesc.mk 0x1A00 0x344E 2 0x800).level = 4 ∧
    (ExcDesc.mk 0x1A00 0x344E 2 0x800).stksw = true ∧ (ExcDesc.mk 0x1A00 0x344E 2 0x800).arm = true ∧
    (ExcDesc.mk 0x1A00 0x344E 2 0x800).slim = 2048 ∧ (ExcDesc.mk 0x1A00 0x344E 2 0x800).invalid 26 = false ∧
    causeWord { fault12 with vector := 26 } true = 0x9A := by
  decide

/-- The deviation of the example after R342. -/
theorem test_deviation : devOf 262 212 = 24 := by decide

/-- A command at the front of the queue runs first and leaves the queue. -/
theorem test_queue : (match step { State.reset with pending := [.fldAckWrite 0 5, .startOk] } with
    | .next t => (t.host.fldAck, t.pending)
    | _ => (0, [])) = (5, [.startOk]) := by
  decide +kernel

end Sys2Proof.Tests
end

section
/-! PROOFS. The host register window, one rule per operation: the guard (R386-R391), the indirect pairs (R394-R396), acknowledgements and
interrupt messages (R397-R399), sampling reads (R359, R367, R401) and plain accesses (R375, R376). -/

namespace Sys2Proof.Machine

/-! The guard (R7, R386, R391) -/

/-- The unlocks that stand beside a requester's own: those of others, not yet 1 ms old (R386). -/
def State.otherUnlocks (s : State) (rid : Rid) : List (Rid × DWord) :=
  s.host.unlocks.filter fun e => e.1 != rid && decide (s.since e.2 < 1000000)

/-- The unlocks after the right key: at most 16, the oldest of them displaced (R386). -/
def State.unlocksWith (s : State) (rid : Rid) : List (Rid × DWord) :=
  (if (s.otherUnlocks rid).length < 16 then s.otherUnlocks rid else (s.otherUnlocks rid).drop 1) ++ [(rid, s.now)]

theorem State.dropUnlock_live (s : State) (rid : Rid) :
    ((dropUnlock s.host.unlocks rid).filter fun e => decide (s.since e.2 < unlockNs)) = s.otherUnlocks rid := by
  rw [dropUnlock, List.filter_filter, State.otherUnlocks]
  exact List.filter_congr fun _ _ => Bool.and_comm _ _

@[simp] theorem State.since_now (s : State) : s.since s.now = 0 := Nat.sub_self _

/-- Time since is measured by the Almanac alone. -/
theorem State.since_of_almanac {s t : State} (h : t.almanac = s.almanac) (d : DWord) : t.since d = s.since d := by
  simp [State.since, State.now, h]

@[simp] theorem State.writeKey_almanac (s : State) (rid : Rid) (v : Word) : (s.writeKey rid v).almanac = s.almanac := by
  unfold State.writeKey
  dsimp only
  split
  · split <;> simp
  · simp

theorem State.writeKey_right_host (s : State) (rid : Rid) :
    (s.writeKey rid 0x0000C5A9).host = { s.host with unlocks := s.unlocksWith rid } := by
  unfold State.writeKey State.unlocksWith
  simp only [s.dropUnlock_live, if_true]
  split <;> simp

theorem State.writeKey_wrong_host (s : State) (rid : Rid) {v : Word} (hv : v ≠ 0x0000C5A9) :
    (s.writeKey rid v).host =
      { s.host with unlocks := s.otherUnlocks rid, badKeys := if s.host.badKeys = 255 then 255 else s.host.badKeys + 1 } := by
  unfold State.writeKey
  simp only [s.dropUnlock_live, if_neg hv, State.log_host, State.updHost_host]

theorem State.writeKey_right_unlocked (s : State) (rid : Rid) : (s.writeKey rid 0x0000C5A9).unlocked rid = true := by
  rw [State.unlocked, s.writeKey_right_host]
  simp [State.unlocksWith, State.since_of_almanac (s.writeKey_almanac rid _), unlockNs]

/-- No unlock of the requester itself stands among the others. -/
theorem State.otherUnlocks_ne {s : State} {rid : Rid} {e : Rid × DWord} (h : e ∈ s.otherUnlocks rid) : e.1 ≠ rid := by
  have := (List.mem_filter.mp h).2
  simp only [Bool.and_eq_true, bne_iff_ne] at this
  exact this.1

theorem State.writeKey_wrong_unlocked (s : State) (rid : Rid) {v : Word} (hv : v ≠ 0x0000C5A9) :
    (s.writeKey rid v).unlocked rid = false := by
  rw [State.unlocked, s.writeKey_wrong_host rid hv, List.any_eq_false]
  intro e he
  simp [State.otherUnlocks_ne he]

/-- An RG register written without an unlock: only the Ledger takes note (R386). -/
theorem State.guardedWrite_locked_host (s : State) (rid : Rid) (off : Nat) (h : State → State) (hl : s.unlocked rid = false) :
    (s.guardedWrite rid off h).host = s.host := by
  simp [State.guardedWrite, hl]

/-- An RG register written under an unlock: the write takes effect and the unlock is used up (R386). -/
theorem State.guardedWrite_unlocked (s : State) (rid : Rid) (off : Nat) (h : State → State) (hu : s.unlocked rid = true) :
    s.guardedWrite rid off h = h (s.updHost fun H => { H with unlocks := dropUnlock H.unlocks rid }) :=
  if_pos hu

theorem State.writeSealRef_open (s : State) (rid : Rid) (v : Word) (hu : s.unlocked rid = true) (hs : s.sealedCommitted = false) :
    s.writeSealRef rid v = { s with host := { s.host with unlocks := dropUnlock s.host.unlocks rid, sealRef := v } } := by
  have hs' : (s.updHost fun H => { H with unlocks := dropUnlock H.unlocks rid }).sealedCommitted = false := hs
  rw [State.writeSealRef, s.guardedWrite_unlocked rid _ _ hu, if_neg (by simp [hs'])]
  rfl

theorem execGuardUnlockExpiry_locked (s : State) (rid : Rid) (hl : s.unlocked rid = false) :
    execGuardUnlockExpiry rid s = .next (s.updHost fun H => { H with unlocks := dropUnlock H.unlocks rid }) := by
  simp [execGuardUnlockExpiry, hl]

/-! The indirect pairs (R395, R396, R401) -/

/-- What IDX_ADDR of a pair holds after an access: with AINC the next word of its range (R395). -/
def State.idxAddrNext (s : State) (p : Fin 4) : Word :=
  if s.host.idxAddr[p].getLsbD 24 then
    insertBits s.host.idxAddr[p] 0 (BitVec.ofNat 24 (idxNext (idxAddrOf s.host.idxAddr[p])))
  else s.host.idxAddr[p]

theorem State.idxStep_eq (s : State) (p : Fin 4) :
    s.idxStep p = s.updHost fun H => { H with idxAddr := H.idxAddr.set p (s.idxAddrNext p) } := by
  unfold State.idxStep State.idxAddrNext
  dsimp only
  split
  · rfl
  · simp [State.updHost]

theorem State.idxFinish_idle {s : State} {p : Fin 4} (h : s.host.idxWrite[p] = none) : s.idxFinish p = s := by
  simp [State.idxFinish, h]

theorem State.idxFinish_busy {s : State} {p : Fin 4} {a : BitVec 24} {v : Word} {rid : Rid} (h : s.host.idxWrite[p] = some (a, v, rid)) :
    s.idxFinish p =
      (s.riWrite rid a.toNat v).updHost fun H => { H with idxWrite := H.idxWrite.set p none, idxBusy := H.idxBusy.set p false } := by
  simp [State.idxFinish, h]

theorem State.writeIdxAddr_idle (s : State) (rid : Rid) (p : Fin 4) (v : Word) (h : s.host.idxWrite[p] = none) :
    s.writeIdxAddr rid p v =
      { s with host := { s.host with
          idxAddr := s.host.idxAddr.set p (v &&& 0x01FFFFFC#32), idxHolder := s.host.idxHolder.set p (some rid) } } := by
  rw [State.writeIdxAddr, State.idxFinish_idle h]
  rfl

/-- The pair's holder writes a word that takes the write: the write is in progress and the pair is busy (R395). -/
theorem State.writeIdxData_held (s : State) (rid : Rid) (p : Fin 4) (v : Word) (h : s.host.idxWrite[p] = none)
    (hh : s.host.idxHolder[p] = some rid) (hr : s.riRefuses (idxAddrOf s.host.idxAddr[p]) = 0) :
    s.writeIdxData rid p v =
      { s with host := { s.host with
          idxAddr := s.host.idxAddr.set p (s.idxAddrNext p), idxErr := s.host.idxErr.set p false
          idxWrite := s.host.idxWrite.set p (some (BitVec.ofNat 24 (idxAddrOf s.host.idxAddr[p]), v, rid))
          idxBusy := s.host.idxBusy.set p true } } := by
  simp only [State.writeIdxData, State.idxFinish_idle h, hh, hr, s.idxStep_eq p, ne_eq, not_true_eq_false, if_false]
  rfl

/-- A refusal, or a value with a state whose host window is H. -/
def KeepsHost (H : HostWin) (o : Option (Word × State)) : Prop := ∀ w u, o = some (w, u) → u.host = H

theorem KeepsHost.none {H : HostWin} : KeepsHost H none := fun _ _ h => nomatch h

theorem KeepsHost.some {H : HostWin} {w : Word} {u : State} (h : u.host = H) : KeepsHost H (some (w, u)) := by
  rintro _ _ ⟨⟩
  exact h

theorem KeepsHost.map {u : State} (o : Option Word) : KeepsHost u.host (o.map fun w => (w, u)) := by
  cases o
  · exact .none
  · exact .some rfl

theorem KeepsHost.ite {H : HostWin} {c : Prop} [Decidable c] {o o' : Option (Word × State)} (h : KeepsHost H o) (h' : KeepsHost H o') :
    KeepsHost H (if c then o else o') := by
  split
  · exact h
  · exact h'

/-- An indirect read leaves the host window as it was: the ranges of R396 in their order, of which timers and TB_INC sample. -/
theorem State.riRead_keepsHost (s : State) (p : Fin 4) (a : Nat) (peek : Bool) : KeepsHost s.host (s.riRead p a peek) :=
  have plain (w : Word) : KeepsHost s.host (some (w, s)) := .some rfl
  .ite (plain _) <| .ite (plain _) <| .ite (.some (by split <;> rfl)) <| .ite (plain _) <| .ite (plain _) <| .ite (plain _) <|
    .ite (.some (by split <;> rfl)) <| .ite (plain _) <| .ite (plain _) <| .ite (plain _) <| .ite (.map _) .none

/-- The pair's holder reads a word: its value, and the address and ERR unless it peeks (R395, R401). -/
theorem State.readIdxData_held {s u : State} {rid : Rid} {p : Fin 4} {w : Word} (h : s.host.idxWrite[p] = none)
    (hh : s.host.idxHolder[p] = some rid) (hr : s.riRead p (idxAddrOf s.host.idxAddr[p]) (s.isPeek rid) = some (w, u)) :
    s.readIdxData rid p = (w, if s.isPeek rid then u else (u.idxStep p).idxErr p false) := by
  simp only [State.readIdxData, State.idxFinish_idle h, hh, hr, ne_eq, not_true_eq_false, if_false]
  cases s.isPeek rid <;> rfl

theorem State.idxAddrNext_of_host {s u : State} (h : u.host = s.host) (p : Fin 4) : u.idxAddrNext p = s.idxAddrNext p := by
  simp [State.idxAddrNext, h]

/-- What an answered IDX_DATA_READ shows and changes (R395, R401). -/
theorem execIdxDataRead_held {s u : State} {rid : Rid} {p : Fin 4} {w : Word} (h : s.host.idxWrite[p] = none)
    (hh : s.host.idxHolder[p] = some rid) (hr : s.riRead p (idxAddrOf s.host.idxAddr[p]) (s.isPeek rid) = some (w, u)) :
    ∃ t, execIdxDataRead rid p s = .next t ∧ t.host.resp = some w ∧ t.host.idxErr[p] = (s.isPeek rid && s.host.idxErr[p]) ∧
      t.almanac = u.almanac ∧ t.fields = u.fields ∧
      t.host.idxAddr[p] = if s.isPeek rid then s.host.idxAddr[p] else s.idxAddrNext p := by
  refine ⟨_, rfl, ?_⟩
  have hu : u.host = s.host := s.riRead_keepsHost _ _ _ w u hr
  rw [State.readIdxData_held h hh hr]
  cases s.isPeek rid
  · simp [State.respond, State.idxErr, u.idxStep_eq p, State.idxAddrNext_of_host hu]
  · simp [State.respond, hu]

/-! Acknowledgements (R397, R399) -/

/-- From s to t the message logic alone has moved: which sources have a message due or held. -/
def MessagesOnly (s t : State) : Prop :=
  t = { s with host := { s.host with msgDue := t.host.msgDue, msgHeld := t.host.msgHeld } }

theorem MessagesOnly.refl (s : State) : MessagesOnly s s := rfl

theorem MessagesOnly.trans {s t u : State} (h : MessagesOnly s t) (h' : MessagesOnly t u) : MessagesOnly s u := by
  unfold MessagesOnly at *
  rw [h', h]

theorem MessagesOnly.fieldCond {s t : State} (h : MessagesOnly s t) (f : Fin 4) : t.fieldCond f = s.fieldCond f := by
  rw [h]; rfl

theorem State.acked_messagesOnly (s : State) (i : Fin 22) (c : Bool) : MessagesOnly s (s.acked i c) := by
  cases c <;> rfl

theorem State.acked_msgDue (s : State) (i : Fin 22) (c : Bool) : (s.acked i c).host.msgDue = s.host.msgDue.set i c := by
  cases c <;> rfl

/-- Interrupt source of a Field (R397). -/
def fieldSource (f : Fin 4) : Fin 22 := ⟨16 + f.val, by omega⟩

/-- The acknowledgement of a Field's changes, judged by the Field condition as it stands (R399). -/
def State.ackField (s : State) (f : Fin 4) : State := s.acked (fieldSource f) (s.fieldCond f)

theorem State.writeFldAck_eq (s : State) (v : Word) :
    s.writeFldAck v = (allFin 4).foldl State.ackField (s.updHost fun H => { H with fldAck := v }) := rfl

theorem ackFields_messagesOnly (l : List (Fin 4)) (s : State) : MessagesOnly s (l.foldl State.ackField s) := by
  induction l generalizing s with
  | nil => exact .refl s
  | cons f l ih => exact (s.acked_messagesOnly _ _).trans (ih _)

/-- Each Field of the list has a further message due exactly where its condition holds; the others stand. -/
theorem ackFields_msgDue (l : List (Fin 4)) (s : State) (f : Fin 4) :
    (l.foldl State.ackField s).host.msgDue[fieldSource f] = if f ∈ l then s.fieldCond f else s.host.msgDue[fieldSource f] := by
  induction l generalizing s with
  | nil => simp
  | cons g l ih =>
    have hc : (s.ackField g).fieldCond f = s.fieldCond f := (s.acked_messagesOnly _ _).fieldCond f
    have hd : (s.ackField g).host.msgDue[fieldSource f] =
        if f = g then s.fieldCond g else s.host.msgDue[fieldSource f] := by
      rw [State.ackField, State.acked_msgDue]
      simp [fieldSource, Vector.getElem_set, Fin.ext_iff, eq_comm]
    rw [List.foldl_cons, ih, hc, hd]
    by_cases hl : f ∈ l
    · simp [hl]
    · by_cases hg : f = g
      · simp [hg]
      · simp [hl, hg]

theorem State.irqCond_field (s : State) (f : Fin 4) : s.irqCond (fieldSource f) = s.fieldCond f := by
  simp [State.irqCond, fieldSource, toFin?]

theorem State.irqOut_field (s : State) (f : Fin 4) :
    s.irqOut (fieldSource f) = (fieldN s.host.route[fieldSource f] 0 2 == 1 && s.fieldCond f) := by
  have h : (fieldSource f).val ≠ 21 := by simp [fieldSource]; omega
  rw [State.irqOut, if_neg h, s.irqCond_field]

/-- FLD_ACK as written, each Field's message and output by its own byte of it (R397, R399). -/
theorem State.writeFldAck_spec (s : State) (v : Word) :
    let t := s.writeFldAck v
    t = { s with host := t.host } ∧ t.host.fldAck = v ∧
      ∀ f : Fin 4, t.host.msgDue[fieldSource f] = (s.fields[f].chg != bits v (8 * f.val) 8) ∧
        (fieldN s.host.route[fieldSource f] 0 2 = 1 → t.irqOut (fieldSource f) = (s.fields[f].chg != bits v (8 * f.val) 8)) := by
  intro t
  have ht : MessagesOnly (s.updHost fun H => { H with fldAck := v }) t := ackFields_messagesOnly _ _
  refine ⟨?_, ?_, fun f => ⟨?_, fun hr => ?_⟩⟩
  · rw [ht]; rfl
  · rw [ht]; rfl
  · have hf : f ∈ allFin 4 := List.mem_finRange f
    exact (ackFields_msgDue _ _ f).trans (if_pos hf)
  · have hroute : t.host.route = s.host.route := by rw [ht]; rfl
    rw [State.irqOut_field, ht.fieldCond, hroute, hr]
    rfl

/-- ALM_ACKi as written, the Almanac's message by its condition (R397, R399). -/
theorem State.writeAlmAck_spec (s : State) (i : Fin 7) (v : Word) :
    let seen := s.updHost fun H => { H with almAck := H.almAck.set i v }
    let t := s.writeAlmAck i v
    t = { s with host := t.host } ∧ t.host.almAck = s.host.almAck.set i v ∧ t.host.msgDue[20] = seen.almCond := by
  intro seen t
  have ht : MessagesOnly seen t := seen.acked_messagesOnly _ _
  refine ⟨?_, ?_, ?_⟩
  · rw [ht]; rfl
  · rw [ht]; rfl
  · exact (congrArg (·[20]) (seen.acked_msgDue 20 seen.almCond)).trans (Vector.getElem_set_self _)

/-! Interrupt messages (R399) -/

/-- A transaction issues whatever the host window holds. -/
theorem State.issueTxn_updHost (s : State) (h : HostWin → HostWin) (f : Fin 4) (ids : List Nat) (write : Bool) (addr : DWord) (len : Nat)
    (l : List Byte) (owner : TxnOwner) :
    (s.updHost h).issueTxn f ids write addr len l owner =
      (s.issueTxn f ids write addr len l owner).map fun r => (r.1, r.2.updHost h) := by
  unfold State.issueTxn
  dsimp only [State.updHost_fields]
  split
  · rfl
  · split <;> rfl

/-- What the message logic's look at a source whose condition holds may change: the enabled ERR bits it has seen, and nothing else. -/
theorem State.lookAt_of_cond {s : State} {i : Fin 22} (hc : s.irqCond i = true) :
    ∃ e, s.lookAt i = s.updHost fun H => { H with errSeen := e } := by
  by_cases hi : i.val = 21
  · exact ⟨s.host.errSeen &&& s.errStat &&& s.host.errEn, by simp [State.lookAt, State.updHost, hc, hi]⟩
  · exact ⟨s.host.errSeen, by simp [State.lookAt, State.updHost, hc, hi]⟩

theorem State.messageIsDue_of {s : State} {i : Fin 22} (hr : fieldN s.host.route[i] 0 2 = 3) (hc : s.irqCond i = true)
    (hf : s.host.msgFlight[i] = false) (hd : s.host.msgHeld[i] = false ∨ s.host.msgDue[i] = true) : s.messageIsDue i = true := by
  unfold State.messageIsDue
  dsimp only
  rw [hr, hc, hf]
  rcases hd with hd | hd
  · rw [hd]; rfl
  · rw [hd, Bool.or_true]; rfl

/-- A due message that the port takes: the transaction is issued, the source is held and in flight (R399). -/
theorem execInterruptMessageWrite_sends {s u seen : State} {i : Fin 22} {id : BitVec 10} (hl : s.lookAt i = seen)
    (hgo : ¬(!seen.messageIsDue i ∨ seen.fieldGone 0 ∨ !seen.fabRuns))
    (hi : seen.issueTxn 0 supIds true seen.host.msgAddr[i] 4 (bytes32 seen.host.msgData[i]) (.message i) = some (id, u)) :
    execInterruptMessageWrite i s = .next (u.updHost fun H =>
      { H with
        msgFlight := H.msgFlight.set i true, msgHeld := H.msgHeld.set i true, msgDue := H.msgDue.set i false
        errSeen := if i.val = 21 then seen.errStat &&& H.errEn else H.errSeen }) := by
  subst hl
  unfold execInterruptMessageWrite
  dsimp only
  rw [if_neg hgo, hi]

theorem execInterruptMessageWrite_issued {s u : State} {i : Fin 22} {id : BitVec 10} (hr : fieldN s.host.route[i] 0 2 = 3)
    (hc : s.irqCond i = true) (hf : s.host.msgFlight[i] = false) (hd : s.host.msgHeld[i] = false ∨ s.host.msgDue[i] = true)
    (hg : s.fieldGone 0 = false) (hfab : s.fabRuns = true)
    (hi : s.issueTxn 0 supIds true s.host.msgAddr[i] 4 (bytes32 s.host.msgData[i]) (.message i) = some (id, u)) :
    ∃ t, execInterruptMessageWrite i s = .next t ∧ t.fields = u.fields ∧ t.host.msgFlight[i] = true ∧ t.host.msgHeld[i] = true ∧
      t.host.msgDue[i] = false := by
  obtain ⟨e, hl⟩ := State.lookAt_of_cond hc
  have hgo : ¬(!(s.lookAt i).messageIsDue i ∨ (s.lookAt i).fieldGone 0 ∨ !(s.lookAt i).fabRuns) := by
    have hdue : (s.lookAt i).messageIsDue i = true := by
      rw [hl]
      exact State.messageIsDue_of hr hc hf hd
    have hg' : (s.lookAt i).fieldGone 0 = false := hg
    have hfab' : (s.lookAt i).fabRuns = true := hfab
    simp [hdue, hg', hfab']
  have hiss : (s.lookAt i).issueTxn 0 supIds true (s.lookAt i).host.msgAddr[i] 4 (bytes32 (s.lookAt i).host.msgData[i]) (.message i) =
      some (id, u.updHost fun H => { H with errSeen := e }) := by
    rw [hl]
    exact (s.issueTxn_updHost _ _ _ _ _ _ _ _).trans (congrArg _ hi)
  refine ⟨_, execInterruptMessageWrite_sends rfl hgo hiss, rfl, ?_, ?_, ?_⟩ <;> exact Vector.getElem_set_self _

/-! Sampling reads (R359, R367, R401) -/

theorem tbSampleOf_cons_self (rid : Rid) (d : DWord) (l : List (Rid × DWord)) : tbSampleOf ((rid, d) :: l) rid = d := by
  simp [tbSampleOf]

theorem execTbLoRead_spec (s : State) (rid : Rid) :
    ∃ t, execTbLoRead rid s = .next t ∧ t.host = { s.host with resp := some (bits s.now 0 32) } ∧
      (s.isPeek rid = true → t.almanac = s.almanac) ∧ (s.isPeek rid = false → tbSampleOf t.almanac.tbSample rid = s.now) := by
  refine ⟨_, rfl, ?_⟩
  cases s.isPeek rid
  · exact ⟨rfl, nofun, fun _ => tbSampleOf_cons_self rid _ _⟩
  · exact ⟨rfl, fun _ => rfl, nofun⟩

/-- A capture read by its owner pops, by any other party it stands (R367, R401). -/
theorem execAtnCapRead_spec (s : State) (w : AlmParty) (n : Fin 32) :
    ∃ t, execAtnCapRead w n s = .next t ∧ t.host = { s.host with resp := some (capValue s.almanac.timers n) } ∧
      t.almanac.timers = if s.ownsTimer w n then popCap s.almanac.timers n else s.almanac.timers := by
  have ho : (s.updHost fun H => { H with resp := some (capValue s.almanac.timers n) }).ownsTimer w n = s.ownsTimer w n := rfl
  refine ⟨_, rfl, ?_⟩
  rw [ho]
  cases s.ownsTimer w n <;> exact ⟨rfl, rfl⟩

/-! Plain accesses (R28, R375, R376) -/

theorem State.reaches_iff (s : State) (rid : Rid) : s.reaches rid = true ↔ rid ≠ debugRid ∨ s.pins.clkFault.getLsbD 9 = false := by
  rw [State.reaches, Bool.not_eq_true', Bool.and_eq_false_iff, beq_eq_false_iff_ne]

/-- An access of a wrong size or alignment, or of a port that does not reach the window, is answered by an error and does nothing. -/
theorem access_refused (s : State) {rid : Rid} {addr : BitVec 20} {size : Nat} (v : Word)
    (h : ¬(accessOk addr size = true ∧ s.reaches rid = true)) :
    execRegisterRead rid addr size s = .next (s.respond none) ∧ execRegisterWrite rid addr size v s = .next (s.respond none) := by
  simp only [execRegisterRead, execRegisterWrite, if_neg h, and_self]

theorem execRegisterRead_taken (s : State) {rid : Rid} {addr : BitVec 20} {size : Nat} (h : accessOk addr size = true ∧ s.reaches rid = true) :
    execRegisterRead rid addr size s = .next ((s.windowRead rid addr.toNat).2.respond (some (s.windowRead rid addr.toNat).1)) := by
  rw [execRegisterRead, if_pos h]

theorem execRegisterWrite_taken (s : State) {rid : Rid} {addr : BitVec 20} {size : Nat} (v : Word)
    (h : accessOk addr size = true ∧ s.reaches rid = true) :
    execRegisterWrite rid addr size v s = .next (s.windowWrite rid addr.toNat v) := by
  rw [execRegisterWrite, if_pos h]

theorem State.windowRead_global (s : State) (rid : Rid) {off : Nat} (h : off < 0x1000) :
    s.windowRead rid off = (s.globalRead off, s) := by
  rw [State.windowRead, if_pos h]

/-- The global page is read only (R376). -/
theorem State.windowWrite_global (s : State) (rid : Rid) {off : Nat} (v : Word) (h : off < 0x1000) : s.windowWrite rid off v = s := by
  unfold State.windowWrite
  simp only [show off ≠ 0x1000 by omega, show off ≠ 0x1010 by omega, show off ≠ 0x2000 by omega,
    show ¬0x3000 ≤ off by omega, show ¬0x10000 ≤ off by omega, show ¬0x20000 ≤ off by omega, show ¬0x40000 ≤ off by omega,
    show ¬0x80000 ≤ off by omega, false_and, if_false]

/-- The mailbox pages: word o of mailbox m's page (R376). -/
theorem State.windowWrite_mailbox (s : State) (rid : Rid) (m : Fin 16) {o : Nat} (ho : o < 0x1000) (v : Word) :
    s.windowWrite rid (0x10000 + 0x1000 * m.val + o) v = s.mbWrite rid m o v := by
  have hm := m.isLt
  have hpage : pageOf (0x10000 + 0x1000 * m.val + o) = m := Fin.ext (by simp only [pageOf]; omega)
  have hoff : (0x10000 + 0x1000 * m.val + o) % 0x1000 = o := by omega
  rw [State.windowWrite, if_neg (by omega), if_neg (by omega), if_neg (by omega), if_neg (by omega), if_pos (by omega), hpage, hoff]

theorem State.mbWrite_cmdBaseLo (s : State) (rid : Rid) (m : Fin 16) (v : Word) (h : s.mailboxes[m].enabled = false) :
    s.mbWrite rid m 0x010 v = s.updMailbox m fun M => { M with cmdBase := bits M.cmdBase 32 32 ++ (v &&& 0xFFFFF000#32) } := by
  simp only [State.mbWrite, h]
  rfl

/-- CMD_BASE_LO of a mailbox that is not enabled takes its value; the other mailboxes stand (R34). -/
theorem State.windowWrite_cmdBaseLo (s : State) (rid : Rid) (m : Fin 16) (v : Word) (h : s.mailboxes[m].enabled = false) :
    let t := s.windowWrite rid (0x10010 + 0x1000 * m.val) v
    t = { s with mailboxes := t.mailboxes } ∧ (∀ k : Fin 16, k ≠ m → t.mailboxes[k] = s.mailboxes[k]) ∧
      t.mailboxes[m] = { s.mailboxes[m] with cmdBase := bits s.mailboxes[m].cmdBase 32 32 ++ (v &&& 0xFFFFF000#32) } := by
  intro t
  have ht : t = s.updMailbox m fun M => { M with cmdBase := bits M.cmdBase 32 32 ++ (v &&& 0xFFFFF000#32) } := by
    rw [← s.mbWrite_cmdBaseLo rid m v h, ← s.windowWrite_mailbox rid m (by decide) v]
    exact congrArg (s.windowWrite rid · v) (by omega)
  rw [ht]
  exact ⟨rfl, fun k hk => vupd_other _ m k _ (Ne.symm hk), vupd_same _ m _⟩

/-- Settles O43: each clause is the rule of its register, shown above; the machine's dispatch is unfolding. -/
theorem hostRegisters : Obligations.HostRegisters := by
  unfold Obligations.HostRegisters
  intro s u rid v w p i src id a party n addr size m host H live x next
  refine ⟨?rightKey, ?wrongKey, ?locked, ?sealRef, ?pair, ?pairDone, ?fldAck, ?almAck, ?message, ?tbLo, ?cap, ?refused, ?taken⟩
  case rightKey =>
    rintro rfl
    exact ⟨_, rfl, s.writeKey_right_unlocked rid, s.writeKey_right_host rid⟩
  case wrongKey =>
    exact fun hv => ⟨_, rfl, s.writeKey_wrong_unlocked rid hv, s.writeKey_wrong_host rid hv⟩
  case locked =>
    exact fun hl => ⟨execGuardUnlockExpiry_locked s rid hl, _, rfl, s.guardedWrite_locked_host rid _ _ hl⟩
  case sealRef =>
    exact fun hu hs => congrArg Host.Outcome.next (s.writeSealRef_open rid v hu hs)
  case pair =>
    exact fun hp => ⟨congrArg Host.Outcome.next (s.writeIdxAddr_idle rid p v hp),
      fun hh hr => congrArg Host.Outcome.next (s.writeIdxData_held rid p v hp hh hr),
      fun hh hr => execIdxDataRead_held hp hh hr⟩
  case pairDone =>
    exact fun hp => congrArg Host.Outcome.next (State.idxFinish_busy hp)
  case fldAck => exact ⟨_, rfl, s.writeFldAck_spec v⟩
  case almAck => exact ⟨_, rfl, s.writeAlmAck_spec i v⟩
  case message =>
    intro hr hc hf hd hoff hres hfab hi
    have hg : s.fieldGone 0 = false := by simpa [State.fieldGone] using ⟨hoff, hres⟩
    exact execInterruptMessageWrite_issued hr hc hf hd hg hfab hi
  case tbLo => exact execTbLoRead_spec s rid
  case cap => exact execAtnCapRead_spec s party n
  case refused =>
    intro hbad
    refine access_refused s v fun ⟨hok, hreach⟩ => ?_
    rcases hbad with h | ⟨hrid, hclk⟩
    · simp [h] at hok
    · exact ((s.reaches_iff rid).mp hreach).elim (· hrid) (by simp only [hclk]; nofun)
  case taken =>
    intro hok hport
    have hacc : accessOk addr size = true ∧ s.reaches rid = true := ⟨hok, (s.reaches_iff rid).mpr hport⟩
    refine ⟨fun haddr => ⟨?_, ?_⟩, fun haddr hen => ⟨_, execRegisterWrite_taken s v hacc, ?_⟩⟩
    · refine (execRegisterRead_taken s hacc).trans ?_
      rw [s.windowRead_global rid haddr]
      rfl
    · exact (execRegisterWrite_taken s v hacc).trans (congrArg _ (s.windowWrite_global rid v haddr))
    · rw [haddr]
      exact s.windowWrite_cmdBaseLo rid m v hen

end Sys2Proof.Machine
end

section
/-! PROOFS. What shared operations leave: folds over units, Ledger records, states of Fields, commands in execution and their ends
(R46, R49, R71, R72). -/

namespace Sys2Proof.Machine

/-! Folds over units -/

/-- Steps that each satisfy a reflexive and transitive relation satisfy it together. -/
theorem foldl_rel {α σ : Type} {R : σ → σ → Prop} (refl : ∀ s, R s s) (trans : ∀ {s t u}, R s t → R t u → R s u) {g : σ → α → σ}
    (l : List α) (s : σ) (h : ∀ t a, R t (g t a)) : R s (l.foldl g s) := by
  induction l generalizing s with
  | nil => exact refl s
  | cons a l ih => exact trans (h s a) (ih (g s a))

/-- Steps of which none does anything do nothing together. -/
theorem foldl_idle {α σ : Type} {g : σ → α → σ} (l : List α) (s : σ) (h : ∀ a ∈ l, g s a = s) : l.foldl g s = s := by
  induction l with
  | nil => rfl
  | cons a l ih =>
    rw [List.foldl_cons, h a List.mem_cons_self]
    exact ih fun b hb => h b (List.mem_cons_of_mem a hb)

/-- Of steps over distinct members only the one of `a` does anything. -/
theorem foldl_only {α σ : Type} {g : σ → α → σ} {l : List α} (hl : l.Nodup) {a : α} (ha : a ∈ l) (s : σ)
    (h : ∀ b, b ≠ a → g s b = s) (h' : ∀ b, b ≠ a → g (g s a) b = g s a) : l.foldl g s = g s a := by
  induction l with
  | nil => cases ha
  | cons b l ih =>
    obtain ⟨hb, hl⟩ := List.nodup_cons.mp hl
    by_cases e : b = a
    · subst e
      exact foldl_idle l _ fun c hc => h' c fun e => hb (e ▸ hc)
    · rw [List.foldl_cons, h b e]
      exact ih hl ((List.mem_cons.mp ha).resolve_left fun x => e x.symm)

theorem allFin_nodup (n : Nat) : (allFin n).Nodup := List.nodup_finRange n

theorem mem_allFin {n : Nat} (i : Fin n) : i ∈ allFin n := List.mem_finRange i

/-- Two vectors are one when their members are. -/
theorem vector_ext {α : Type} {n : Nat} {v w : Vector α n} (h : ∀ i : Fin n, v[i] = w[i]) : v = w :=
  Vector.ext fun i hi => h ⟨i, hi⟩

theorem toFin?_val {n : Nat} (i : Fin n) : toFin? n i.val = some i := by simp [toFin?]

theorem mem_fieldEngines {f : Fin 4} {g : Fin 96} : g ∈ fieldEngines f ↔ fieldOf g = f := by
  simp only [fieldEngines, List.mem_map, Fin.ext_iff, fieldOf, globalOf]
  constructor
  · rintro ⟨e, -, h⟩; omega
  · intro h; exact ⟨localOf g, mem_allFin _, by simp only [localOf]; omega⟩

theorem fieldEngines_nodup (f : Fin 4) : (fieldEngines f).Nodup :=
  (allFin_nodup 24).map fun a b h => by
    simp only [globalOf, Fin.mk.injEq] at h
    exact Fin.ext (by omega)

@[simp] theorem fieldOf_globalOf (f : Fin 4) (e : Fin 24) : fieldOf (globalOf f e) = f := by
  simp only [fieldOf, globalOf, Fin.ext_iff]
  omega

theorem vupd_id {α : Type} {n : Nat} (v : Vector α n) (i : Fin n) : vupd v i (fun x => x) = v := by simp [vupd]

theorem vupd_vupd {α : Type} {n : Nat} (v : Vector α n) (i : Fin n) (h k : α → α) :
    vupd (vupd v i h) i k = vupd v i fun x => k (h x) := by simp [vupd]

/-- Some distinct members of a vector rewritten in turn. -/
theorem foldl_vupd {α : Type} {n : Nat} (h : α → α) {l : List (Fin n)} (hl : l.Nodup) (v : Vector α n) :
    l.foldl (fun v i => vupd v i h) v = vmap (fun i x => if i ∈ l then h x else x) v := by
  induction l generalizing v with
  | nil => exact vector_ext fun i => by simp
  | cons a l ih =>
    obtain ⟨ha, hl⟩ := List.nodup_cons.mp hl
    rw [List.foldl_cons, ih hl]
    refine vector_ext fun i => ?_
    rw [vmap_at, vmap_at]
    by_cases e : a = i
    · subst e; simp [ha]
    · have e' : ¬ i = a := fun x => e x.symm
      rw [vupd_other _ _ _ _ e]
      simp [e']

/-- Some engines rewritten in turn. -/
theorem foldl_updEngine (h : Engine → Engine) (l : List (Fin 96)) (s : State) :
    l.foldl (fun (s : State) (g : Fin 96) => s.updEngine g h) s =
      { s with engines := l.foldl (fun v g => vupd v g h) s.engines } := by
  induction l generalizing s with
  | nil => rfl
  | cons a l ih => exact ih (s.updEngine a h)

/-- The engines of a Field rewritten in turn. -/
theorem foldl_updEngine_field (h : Engine → Engine) (f : Fin 4) (s : State) :
    (fieldEngines f).foldl (fun (s : State) (g : Fin 96) => s.updEngine g h) s =
      { s with engines := vmap (fun g E => if fieldOf g = f then h E else E) s.engines } := by
  rw [foldl_updEngine, foldl_vupd h (fieldEngines_nodup f)]
  simp only [mem_fieldEngines]

/-! Records and states -/

/-- A Ledger record changes nothing but the Ledger and Tally. -/
theorem State.log_rest (s : State) (c : Fin 15) (e : Nat) (f : Option (Fin 4)) (o : Nat) (a b : Word) :
    s.log c e f o a b = { s with ledger := (s.log c e f o a b).ledger, tally := (s.log c e f o a b).tally } := by
  unfold State.log
  extract_lets i t
  split
  · rfl
  · rw [count_rest]

theorem State.setFieldSt_fields (s : State) (f : Fin 4) (st : FieldSt) (h : s.fields[f].st ≠ st) :
    (s.setFieldSt f st).fields = vupd s.fields f fun F => { F with st := st, chg := F.chg + 1 } := by
  rw [State.setFieldSt, if_neg h]
  rfl

/-- A Field's change of state touches the Fields, the Almanac's watchdogs and the events of EVENT_WAIT. -/
theorem State.setFieldSt_rest (s : State) (f : Fin 4) (st : FieldSt) :
    s.setFieldSt f st = { s with
      fields := (s.setFieldSt f st).fields, almanac := (s.setFieldSt f st).almanac, mailboxes := (s.setFieldSt f st).mailboxes } := by
  unfold State.setFieldSt
  split <;> rfl

@[simp] theorem State.setFieldSt_plot (s : State) (f : Fin 4) (st : FieldSt) : (s.setFieldSt f st).plot = s.plot := by
  rw [s.setFieldSt_rest]
@[simp] theorem State.setFieldSt_engines (s : State) (f : Fin 4) (st : FieldSt) : (s.setFieldSt f st).engines = s.engines := by
  rw [s.setFieldSt_rest]
@[simp] theorem State.setFieldSt_furrows (s : State) (f : Fin 4) (st : FieldSt) : (s.setFieldSt f st).furrows = s.furrows := by
  rw [s.setFieldSt_rest]
@[simp] theorem State.setFieldSt_sower (s : State) (f : Fin 4) (st : FieldSt) : (s.setFieldSt f st).sower = s.sower := by
  rw [s.setFieldSt_rest]

/-! Commands in execution -/

/-- The first member that satisfies p, between those before it, of which none does, and those after it. -/
theorem takeFirst_split {α : Type} {p : α → Bool} {l r : List α} {x : α} (h : takeFirst p l = some (x, r)) :
    ∃ a b, l = a ++ x :: b ∧ r = a ++ b ∧ (∀ y ∈ a, p y = false) ∧ p x = true := by
  induction l generalizing r with
  | nil => cases h
  | cons y l ih =>
    unfold takeFirst at h
    split at h
    · rename_i hy
      obtain ⟨rfl, rfl⟩ := Prod.mk.inj (Option.some.inj h)
      exact ⟨[], l, rfl, rfl, fun _ h => (List.not_mem_nil h).elim, hy⟩
    · rename_i hy
      obtain ⟨q, hq, e⟩ := Option.map_eq_some_iff.mp h
      obtain ⟨rfl, rfl⟩ := Prod.mk.inj e
      obtain ⟨a, b, rfl, h2, h3, h4⟩ := ih hq
      refine ⟨y :: a, b, rfl, by rw [h2]; rfl, fun z hz => ?_, h4⟩
      rcases List.mem_cons.mp hz with rfl | hz
      · exact Bool.eq_false_iff.mpr hy
      · exact h3 z hz

/-- A rewriting that p does not see takes the first member along. -/
theorem takeFirst_map {α : Type} {p : α → Bool} (k : α → α) (hk : ∀ x, p (k x) = p x) (l : List α) :
    takeFirst p (l.map k) = (takeFirst p l).map fun r => (k r.1, r.2.map k) := by
  induction l with
  | nil => rfl
  | cons y l ih =>
    rw [List.map_cons, takeFirst, takeFirst, hk]
    split
    · rfl
    · rw [ih, Option.map_map, Option.map_map]
      rfl

theorem Runs.index {s : State} {mb : Fin 16} {k : BitVec 16} {op : Nat} {c : ActiveCmd} {rest : List ActiveCmd}
    (h : Runs s mb k op c rest) : c.k = k := by
  obtain ⟨_, _, _, _, _, hk⟩ := takeFirst_split h.first
  exact eq_of_beq hk

/-- A command that may run is the one its row acts on. -/
theorem Runs.cmd {s : State} {mb : Fin 16} {k : BitVec 16} {op : Nat} {c : ActiveCmd} {rest : List ActiveCmd}
    (h : Runs s mb k op c rest) : s.cmd? mb k op = some c := by
  obtain ⟨a, b, hl, -, ha, hk⟩ := takeFirst_split h.first
  have hf : (s.mailboxes[mb].active.find? fun d => d.k == k && d.opcode == BitVec.ofNat 16 op) = some c := by
    rw [hl, List.find?_append, List.find?_eq_none.mpr fun y hy => by simp [ha y hy]]
    simp [hk, h.opcode]
  have hg : (c.going || s.mailboxes[mb].mayStart c) = true := by simpa using h.starts
  simp only [State.cmd?, h.serves, hf, hg, h.reaches, Bool.not_true, Bool.false_eq_true, if_false, Bool.not_false, Bool.and_self, if_true]

/-- Every command of the mailbox is the one that runs, or another of a different index. -/
theorem Runs.mem {s : State} {mb : Fin 16} {k : BitVec 16} {op : Nat} {c : ActiveCmd} {rest : List ActiveCmd}
    (h : Runs s mb k op c rest) {d : ActiveCmd} (hd : d ∈ s.mailboxes[mb].active) : d = c ∨ d ∈ rest := by
  obtain ⟨a, b, hl, hr, -, -⟩ := takeFirst_split h.first
  rw [hl] at hd
  rw [hr]
  simp only [List.mem_append, List.mem_cons] at hd ⊢
  tauto

/-- A command that ends changes nothing but its mailbox. -/
theorem State.finish_rest (s : State) (mb : Fin 16) (k : BitVec 16) (st : Nat) (r : List Word) (x : Option Bool) :
    s.finish mb k st r x = { s with mailboxes := (s.finish mb k st r x).mailboxes } := rfl

theorem State.finish_other (s : State) {mb n : Fin 16} (k : BitVec 16) (st : Nat) (r : List Word) (x : Option Bool) (h : n ≠ mb) :
    (s.finish mb k st r x).mailboxes[n] = s.mailboxes[n] :=
  vupd_other _ _ _ _ fun e => h e.symm

theorem State.finish_mine (s : State) {mb : Fin 16} {k : BitVec 16} {c : ActiveCmd} {rest : List ActiveCmd}
    (h : takeFirst (fun d => d.k == k) s.mailboxes[mb].active = some (c, rest)) (st : Nat) (r : List Word) (x : Option Bool) :
    (s.finish mb k st r x).mailboxes[mb] =
      Mailbox.complete { s.mailboxes[mb] with active := rest } (cplOf c.tag st c.k c.opcode r x) := by
  rw [State.finish, State.updMailbox_mailboxes, vupd_same, h]

/-- The end of a command that runs, in a state with the mailboxes it was started in (R49, R73). -/
theorem Runs.ends {s : State} {mb : Fin 16} {k : BitVec 16} {op : Nat} {c : ActiveCmd} {rest : List ActiveCmd}
    (h : Runs s mb k op c rest) {u : State} (hm : u.mailboxes = s.mailboxes) (st : Nat) (r : List Word) :
    Ends s (u.finish mb k st r) mb c rest st r none := by
  have hf : takeFirst (fun d => d.k == k) u.mailboxes[mb].active = some (c, rest) := by rw [hm]; exact h.first
  constructor
  · rw [u.finish_mine hf, hm]
    rfl
  · intro n hn
    rw [u.finish_other k st r none hn, hm]

/-- Commands that end change nothing but the mailboxes. -/
theorem State.finishAll_rest (s : State) (p : ActiveCmd → Bool) (st : Nat) (r : List Word) :
    s.finishAll p st r = { s with mailboxes := (s.finishAll p st r).mailboxes } := by
  unfold State.finishAll
  refine foldl_rel (R := fun (s t : State) => t = { s with mailboxes := t.mailboxes }) (fun _ => rfl)
    (fun h h' => by rw [h', h]) _ s fun t m => ?_
  exact foldl_rel (R := fun (s t : State) => t = { s with mailboxes := t.mailboxes }) (fun _ => rfl)
    (fun h h' => by rw [h', h]) _ t fun _ _ => rfl

theorem State.finishOk_rest (s : State) (p : ActiveCmd → Bool) (r : ActiveCmd → List Word) :
    s.finishOk p r = { s with mailboxes := (s.finishOk p r).mailboxes } := by
  unfold State.finishOk
  refine foldl_rel (R := fun (s t : State) => t = { s with mailboxes := t.mailboxes }) (fun _ => rfl)
    (fun h h' => by rw [h', h]) _ s fun t m => ?_
  exact foldl_rel (R := fun (s t : State) => t = { s with mailboxes := t.mailboxes }) (fun _ => rfl)
    (fun h h' => by rw [h', h]) _ t fun _ _ => rfl

/-- Where one command alone satisfies p, it alone completes. -/
theorem State.finishOk_only {s : State} {mb : Fin 16} {k : BitVec 16} {c : ActiveCmd} {rest : List ActiveCmd} {p : ActiveCmd → Bool}
    (r : ActiveCmd → List Word) (first : takeFirst (fun d => d.k == k) s.mailboxes[mb].active = some (c, rest))
    (hc : (c.started && p c) = true) (hr : ∀ d ∈ rest, (d.started && p d) = false)
    (ho : ∀ m : Fin 16, m ≠ mb → ∀ d ∈ s.mailboxes[m].active, (d.started && p d) = false) :
    s.finishOk p r = s.finish mb k eOk (r c) := by
  obtain ⟨a, b, hl, rfl, -, hk⟩ := takeFirst_split first
  have idle (t : State) (m : Fin 16) (ht : t.mailboxes[m] = s.mailboxes[m]) (hm : m ≠ mb) :
      (t.mailboxes[m].active.filter fun c => c.started && p c).foldl (fun (s : State) (c : ActiveCmd) => s.finish m c.k eOk (r c)) t =
        t := by
    rw [ht, List.filter_eq_nil_iff.mpr fun d hd => by simp [ho m hm d hd]]
    rfl
  have mine : (s.mailboxes[mb].active.filter fun c => c.started && p c).foldl
      (fun (s : State) (c : ActiveCmd) => s.finish mb c.k eOk (r c)) s = s.finish mb k eOk (r c) := by
    have ha : a.filter (fun c => c.started && p c) = [] :=
      List.filter_eq_nil_iff.mpr fun d hd => by simp [hr d (List.mem_append_left b hd)]
    have hb : b.filter (fun c => c.started && p c) = [] :=
      List.filter_eq_nil_iff.mpr fun d hd => by simp [hr d (List.mem_append_right a hd)]
    rw [hl, List.filter_append, ha, List.filter_cons_of_pos (p := fun c => c.started && p c) hc, hb, List.nil_append,
      List.foldl_cons, List.foldl_nil, eq_of_beq hk]
  unfold State.finishOk
  refine (foldl_only (allFin_nodup 16) (mem_allFin mb) s (fun m hm => idle s m rfl hm) fun m hm => ?_).trans mine
  rw [mine]
  exact idle _ m (s.finish_other k eOk _ none hm) hm

end Sys2Proof.Machine
end

section
/-! PROOFS. A Field reset that writes the Seed store: the record of a SEND that is cut lands on an uncorrectable word (R14, R266, R402). -/

namespace Sys2Proof.Machine

/-- A furrow of Field 0 with one granule-aligned extent and an ingress ring of 4 KiB at offset 0x1000. -/
def cutReceiver : Furrow :=
  { id := 2, owner := 0, creator := 0
    desc :=
      { cls := 0, restartable := false, pin := false, twinOf := 0xFFFF, fieldMask := 15, priority := 1, demand := 100, workset := 128
        codeLen := 64, codeAddr := 0, codeCrc := 0, entry := 0, ingress := [0xFF], egress := [], drills := 0, selMargin := 0
        fabBase := 0, fabLen := 0, param := [], raw := [] }
    st := .running, engine := some 0, home := some 0, extents := [{ base := 0, len := 131072 }], ctx := Ctx.zero, waitMask := none
    mbar := false, restarts := 0, migrations := 0, runAtCommit := false, startOnCommit := false, twin := none, run := none
    rings :=
      [{ hdr := 0, ext := 0, off := 0x1000, size := 12, rext := 0, roff := 0, rsize := 0, fetched := 0, pubs := [], closing := false }]
    enSeen := [], doorbells := [], sels := [], ctlq := [], verAtStart := (0, 0), loads := [], fetched := [], ctxErr := none }

/-- A SEND of one byte from Field 1 to that ring, whose unit has crossed the bridge. -/
def cutSend : Job :=
  { fid := 1, idx := 0, slotAddr := 0, op := 2, event := false, fence := false, tag := 0, len := 1, src := (false, 0), dst := (false, 0)
    pattern := 0, dfurrow := 2, dring := 0, ord := 0, moved := 1, waiting := 0, status := 0, resp := 0, bridge := some 0, got := [7] }

/-- Fields 0 and 1 In service, the SEND under way, and the 16-byte word uncorrectable in which its data would stand. -/
def cutState : State :=
  { State.reset with
    reset? := none, furrows := [cutReceiver]
    fields := #v[
      { Field.reset with
        st := .inService, ecc := [(0x102, .uncorr)], banks := Vector.replicate 32 { Bank.reset with st := .owned, epoch := 2 } },
      { Field.reset with st := .inService, ports := { Ports.reset with jobs := [cutSend] } }, Field.reset, Field.reset] }

/-- The reset of Field 0 lands the byte (R14), a partial write that finds the word uncorrectable (R258), and its row, 32 of bank 0, enters
the pending-repair list of the Seed store (R266). -/
theorem cutState_reset_flags_row : (cutState.fieldReset 0 0xB).seed.pendingRows = [(0, 32)] := by decide +kernel

/-- Some command, for the statement's clause on RESET. -/
def someCmd : ActiveCmd :=
  { k := 0, opcode := 0, fence := false, tag := 0, bufAddr := 0, bufLen := 0, args := Vector.replicate 10 0, begun := false, ord := 0
    started := false, effect := false, since := 0, hit := none, num := 0, bad := 0 }

/-- Refutes O24: the Seed store does not stand through every Field reset. The units of a SEND that the reset cuts land in the destination's
ring (R14); where they meet an uncorrectable word, its row enters the pending-repair list (R266), which the Seed store holds. -/
theorem not_fieldAndEngineResets : ¬ Obligations.FieldAndEngineResets := by
  unfold Obligations.FieldAndEngineResets
  intro h
  obtain ⟨t, ht, -, -, ⟨-, seedStands, -⟩, -⟩ := (h.1 cutState 0 0xB 0 0 someCmd []).1 rfl (by decide) (by decide)
  have ht : cutState.fieldReset 0 0xB = t := Host.Outcome.next.inj ht
  have rows : t.seed.pendingRows = [] := by rw [seedStands]; rfl
  rw [← ht, cutState_reset_flags_row] at rows
  cases rows

/-! Two descriptors of one index (R292, R293) -/

/-- A doorbell of the mover ring that publishes the descriptor of index 0, and the ring, of four slots. -/
def twiceBell : Doorbell := { hdr := 8, words := #v[1, 0, 1, 0], segs := Vector.replicate 8 Seg.zero, priv := false }

def twiceRing : Ring :=
  { hdr := 8, ext := 0, off := 0x8000, size := 2, rext := 0, roff := 0, rsize := 0, fetched := 0, pubs := [twiceBell], closing := false }

/-- A furrow of Field 0 with that mover ring. -/
def twiceFurrow : Furrow :=
  { cutReceiver with id := 1, rings := [twiceRing] }

/-- A FILL of that furrow and index that is still in execution, transfer 0 of its Field. -/
def earlierFill : Job := { cutSend with op := 1, len := 4, moved := 0, dfurrow := 0, bridge := none, got := [] }

/-- Field 0 with the FILL in its mover; the next transfer is number 1. -/
def twiceState : State :=
  { State.reset with
    reset? := none, furrows := [twiceFurrow]
    fields := #v[
      { Field.reset with
        st := .inService, banks := Vector.replicate 32 { Bank.reset with st := .owned, epoch := 2 }
        ports := { Ports.reset with jobs := [earlierFill], bridgeSeq := 1 } }, Field.reset, Field.reset, Field.reset] }

/-- Some descriptor of a mover's own, for the statement's clauses on the bridge. -/
def someOwn : OwnJob :=
  { copy := true, fid := 0, hdr := 0, dst := 0, dfid := 0, ord := 0, len := 0, moved := 0, cut := false, data := [] }

/-- The transfer numbers of Field 0's jobs in the state that a command answers. -/
def ordsAfter (o : Out) : List Nat :=
  match o with
  | .next t => t.fields[(0 : Fin 4)].ports.jobs.map Job.ord
  | _ => []

/-- The mover's next unit is the earlier FILL's, and what it leaves takes the place of both jobs of furrow 1 and index 0. -/
theorem twiceState_start_ords : ordsAfter (exec (.moverDescriptorStart 1) twiceState) = [0, 0] := by decide +kernel

/-- Refutes O34: a started descriptor need not stand in the mover under its transfer number. Where an earlier descriptor of the same furrow
and index is still in execution and takes the mover's unit, the unit rewrites both jobs, and the new one has the earlier one's number. -/
theorem not_moverAndBridge : ¬ Obligations.MoverAndBridge := by
  unfold Obligations.MoverAndBridge
  intro h
  obtain ⟨starts, -, -⟩ := h twiceState 0 twiceFurrow twiceRing twiceBell (List.replicate 64 0) 0 0 0 0 earlierFill someOwn rfl rfl
  obtain ⟨⟨t, ht, -, ⟨k, hk, -, -, hord⟩, -⟩, -⟩ := starts rfl rfl rfl (by decide) (by decide) (by decide +kernel) (by decide)
  have ords : ordsAfter (.next t) = [0, 0] := ht ▸ twiceState_start_ords
  have mem : k.ord ∈ [0, 0] := ords ▸ List.mem_map_of_mem hk
  rw [hord] at mem
  revert mem
  decide

end Sys2Proof.Machine
end

section
/-! PROOFS. Clocks, supplies, the Field heartbeat and Dormant (R23, R28, R371, R408, R409, R412, R476, R477, R479, R483). -/

namespace Sys2Proof.Machine

/-! Clocks (R28) -/

theorem clockMask_eq (c : Fin 10) : 1#10 <<< c.val = BitVec.ofNat 10 (2 ^ c.val) := by revert c; decide

/-- The Ledger and the fault bit take note of a faulty clock. -/
def State.faultNoted (s : State) (c : Fin 10) : State :=
  (s.log 9 1 none 0 (nw c.val) 0).updPins fun p => { p with clkFault := p.clkFault ||| (1#10 <<< c.val) }

theorem State.faultNoted_eq (s : State) (c : Fin 10) :
    s.faultNoted c = { s with
      pins := { s.pins with clkFault := s.pins.clkFault ||| BitVec.ofNat 10 (2 ^ c.val) }, ledger := (s.faultNoted c).ledger
      tally := (s.faultNoted c).tally } := by
  unfold State.faultNoted
  rw [State.log_rest, clockMask_eq]
  rfl

/-- The clocks that no Field, no fabric and no time base runs on: their fault is noted and nothing else. -/
theorem clockLost_noted (s : State) {c : Fin 10} (h : c = 4 ∨ c = 6 ∨ c = 8 ∨ c = 9) : s.clockLost c = s.faultNoted c := by
  rcases h with rfl | rfl | rfl | rfl <;> rfl

theorem clockLost_fab (s : State) : s.clockLost 5 = (s.faultNoted 5).timeoutAll := rfl

/-- Without a transaction in flight none times out. -/
theorem State.timeoutAll_idle {s : State} (h : ∀ f : Fin 4, s.fields[f].ports.txns = []) : s.timeoutAll = s :=
  foldl_idle _ s fun f _ => by rw [h f]; rfl

theorem clockLost_almanac {s : State} (h : s.pins.clkFault.getLsbD 8 = false) :
    s.clockLost 7 = (s.faultNoted 7).updAlm fun A => { A with lf := true } := by
  have e : (s.faultNoted 7).pins.clkFault.getLsbD 8 = false := by
    rw [s.faultNoted_eq]
    show (s.pins.clkFault ||| BitVec.ofNat 10 (2 ^ 7)).getLsbD 8 = false
    rw [BitVec.getLsbD_or, h]
    decide
  show (if (s.faultNoted 7).pins.clkFault.getLsbD 8 = true then _ else _) = _
  rw [e]
  rfl

theorem execClockFault_lost {s : State} {c : Fin 10} (hf : s.pins.clkFault.getLsbD c.val = false) (hm : s.mayStop c = false) :
    exec (.clockFault c) s = .next (s.clockLost c) := by
  show execClockFault c s = _
  rw [execClockFault, hf, hm]
  rfl

theorem execClockFault_ignored {s : State} {c : Fin 10} (h : s.pins.clkFault.getLsbD c.val = true ∨ s.mayStop c = true) :
    exec (.clockFault c) s = .next s := by
  show execClockFault c s = _
  rcases h with h | h <;> simp [execClockFault, h]

/-- The end of a clock fault: its bit clears, and the Ledger takes note. -/
theorem execClockRecovery_faulty {s : State} {c : Fin 10} (h : s.pins.clkFault.getLsbD c.val = true) :
    ∃ t, exec (.clockRecovery c) s = .next t ∧
      t = { s with
        pins := { s.pins with clkFault := s.pins.clkFault &&& ~~~BitVec.ofNat 10 (2 ^ c.val) }, ledger := t.ledger, tally := t.tally } := by
  refine ⟨(s.updPins fun p => { p with clkFault := p.clkFault &&& ~~~(1#10 <<< c.val) }).log 9 2 none 0 (nw c.val) 0, ?_, ?_⟩
  · show execClockRecovery c s = _
    rw [execClockRecovery, if_pos h]
  · rw [State.log_rest, clockMask_eq]
    rfl

/-! Supplies (R23, R476) -/

/-- A bank whose contents are lost. -/
def Bank.lost (B : Bank) : Bank := { B with epoch := lossAfter B.epoch }

/-- The banks of a list lose their contents one by one (R23). -/
theorem foldl_loseBank (f : Fin 4) (l : List (Fin 32)) (s : State) :
    ∃ p, l.foldl (fun (s : State) (b : Fin 32) => s.loseBank f b) s = { s with
      plot := p, fields := vupd s.fields f fun F => { F with banks := l.foldl (fun v b => vupd v b Bank.lost) F.banks } } := by
  induction l generalizing s with
  | nil =>
    have e : vupd s.fields f (fun F => { F with banks := F.banks }) = s.fields := vupd_id _ _
    exact ⟨s.plot, by rw [List.foldl_nil]; simp only [List.foldl_nil, e]⟩
  | cons a l ih =>
    obtain ⟨p, hp⟩ := ih (s.loseBank f a)
    refine ⟨p, hp.trans ?_⟩
    simp only [State.loseBank, State.updBank, State.updField, vupd_vupd]
    rfl

/-- A Field without its supply loses the contents of every bank once, and the findings on its words (R23). -/
theorem State.losePlot_eq (s : State) (f : Fin 4) :
    ∃ p, s.losePlot f = { s with
      plot := p, fields := vupd s.fields f fun F => { F with banks := vmap (fun _ B => B.lost) F.banks, ecc := [], known := [] } } := by
  obtain ⟨p, hp⟩ := foldl_loseBank f (allFin 32) s
  refine ⟨p, ?_⟩
  simp only [State.losePlot, hp, foldl_vupd _ (allFin_nodup 32), mem_allFin, if_true, State.updField, vupd_vupd]

theorem Bank.lost_epoch (B : Bank) : B.epoch < B.lost.epoch ∧ B.lost.epoch % 2 = 1 := by
  simp only [Bank.lost, lossAfter]
  omega

theorem State.resetEngines_eq (s : State) (f : Fin 4) :
    s.resetEngines f = { s with engines := vmap (fun g E => if fieldOf g = f then E.restart else E) s.engines } :=
  foldl_updEngine_field Engine.restart f s

/-- The supply of a Field that is Out falls as asked: the Field is Off, its port down (R476). -/
theorem execPwrEngOkChange_falls {s : State} {f : Fin 4} (hst : s.fields[f].st = .out) (hreq : s.fields[f].pwrReq = false) :
    ∃ t, exec (.pwrEngOkChange f false) s = .next t ∧ t.fields[f].st = .off ∧ t.fields[f].pwrOk = false ∧
      t.fields[f].chg = s.fields[f].chg + 1 ∧ t.plot = s.plot ∧ (∀ h : Fin 4, h ≠ f → t.fields[h] = s.fields[h]) ∧
      t.engines = s.engines ∧ t.furrows = s.furrows := by
  have e : exec (.pwrEngOkChange f false) s = .next
      ((((s.updField f fun F => { F with pwrOk := false }).setFieldSt f .off).portDown f).finishAll
        (fun c => c.opcode == 0x0805 && c.args[0].toNat == f.val) eOk []) := by
    show execPwrEngOkChange f false s = _
    simp only [execPwrEngOkChange, hst, hreq]
    rfl
  refine ⟨_, e, ?_⟩
  have hs : (s.updField f fun F => { F with pwrOk := false }).fields[f].st ≠ .off := by
    rw [State.updField_fields, vupd_same]
    show s.fields[f].st ≠ .off
    rw [hst]
    decide
  rw [State.finishAll_rest]
  simp only [State.portDown, State.updPorts, State.updField_fields, State.updField_plot, State.updField_engines,
    State.updField_furrows, State.setFieldSt_fields _ _ _ hs, State.setFieldSt_plot, State.setFieldSt_engines,
    State.setFieldSt_furrows, vupd_vupd, vupd_same, and_self, and_true, true_and]
  exact fun h hh => vupd_other _ _ _ _ fun e => hh e.symm

/-- A Field whose supply has risen enters Resetting. -/
def State.enterResetting (s : State) (f : Fin 4) : State :=
  (((s.resetEngines f).updField f fun F => F.restart (s.resetEngines f).seed f).openWindows f).setFieldSt f .resetting

theorem State.enterResetting_fields {s : State} {f : Fin 4} (hst : s.fields[f].st ≠ .resetting) :
    ∃ P : Field → Ports, (s.enterResetting f).fields =
      vupd s.fields f fun F => { F.restart s.seed f with st := .resetting, chg := F.chg + 1, ports := P F } := by
  have hs : (((s.resetEngines f).updField f fun F => F.restart (s.resetEngines f).seed f).openWindows f).fields[f].st ≠ .resetting := by
    rw [State.openWindows, State.updPorts, State.updField_fields, State.updField_fields, vupd_vupd, vupd_same, s.resetEngines_eq]
    exact hst
  rw [State.enterResetting, State.setFieldSt_fields _ _ _ hs, State.openWindows, State.updPorts, State.updField_fields,
    State.updField_fields, vupd_vupd, vupd_vupd, s.resetEngines_eq]
  exact ⟨_, rfl⟩

theorem State.enterResetting_engine (s : State) (f : Fin 4) (e : Fin 24) :
    (s.enterResetting f).engines[globalOf f e] = s.engines[globalOf f e].restart := by
  rw [State.enterResetting, State.setFieldSt_engines, State.openWindows, State.updPorts_engines, State.updField_engines,
    s.resetEngines_eq, vmap_at, if_pos (fieldOf_globalOf f e)]

@[simp] theorem State.enterResetting_furrows (s : State) (f : Fin 4) : (s.enterResetting f).furrows = s.furrows := by
  rw [State.enterResetting, State.setFieldSt_furrows, State.openWindows, State.updPorts_furrows, State.updField_furrows,
    s.resetEngines_eq]

@[simp] theorem State.enterResetting_plot (s : State) (f : Fin 4) : (s.enterResetting f).plot = s.plot := by
  rw [State.enterResetting, State.setFieldSt_plot, State.openWindows, State.updPorts_plot, State.updField_plot, s.resetEngines_eq]

/-- A Field whose supply has risen, with or without retention (R23). -/
def Field.supplied (keep : Bool) (F : Field) : Field :=
  if keep then { F with pwrOk := true }
  else { F with pwrOk := true, banks := vmap (fun _ B => B.lost) F.banks, ecc := [], known := [] }

theorem Field.supplied_bank (F : Field) (b : Fin 32) : (F.supplied false).banks[b] = F.banks[b].lost := vmap_at _ _ _

theorem Field.restart_epoch (seed : Seed) (f : Fin 4) (F : Field) (b : Fin 32) :
    (F.restart seed f).banks[b].epoch = F.banks[b].epoch := by
  rw [Field.restart, vmap_at]
  rfl

def State.supplied (s : State) (f : Fin 4) : State :=
  let u := s.updField f fun F => { F with pwrOk := true }
  if s.fields[f].retain then u else u.losePlot f

theorem State.supplied_eq (s : State) (f : Fin 4) :
    ∃ p, s.supplied f = { s with plot := p, fields := vupd s.fields f (Field.supplied s.fields[f].retain) } ∧
      (s.fields[f].retain = true → p = s.plot) := by
  unfold State.supplied
  cases s.fields[f].retain with
  | true => exact ⟨_, rfl, fun _ => rfl⟩
  | false =>
    obtain ⟨p, hp⟩ := (s.updField f fun F => { F with pwrOk := true }).losePlot_eq f
    rw [State.updField_fields, vupd_vupd] at hp
    exact ⟨p, hp, fun h => nomatch h⟩

theorem execPwrEngOkChange_up {s : State} {f : Fin 4} (hst : s.fields[f].st = .off) (hreq : s.fields[f].pwrReq = true) :
    exec (.pwrEngOkChange f true) s = .next
      (((s.supplied f).enterResetting f).finishAll (fun c => c.opcode == 0x0805 && c.args[0].toNat == f.val) eOk []) := by
  show execPwrEngOkChange f true s = _
  simp only [execPwrEngOkChange, hst, hreq, if_true, and_self]
  rfl

/-- The supply of a Field that is Off rises as asked: the Field enters Resetting with its engines reset; without retention every bank
has lost its contents (R23, R476, R477). -/
theorem execPwrEngOkChange_rises {s : State} {f : Fin 4} (hst : s.fields[f].st = .off) (hreq : s.fields[f].pwrReq = true) :
    ∃ t, exec (.pwrEngOkChange f true) s = .next t ∧ t.fields[f].st = .resetting ∧ t.fields[f].pwrOk = true ∧
      (∀ h : Fin 4, h ≠ f → t.fields[h] = s.fields[h]) ∧ t.furrows = s.furrows ∧
      (∀ e : Fin 24, t.engines[globalOf f e].resetHeld = true) ∧ (s.fields[f].retain = true → t.plot = s.plot) ∧
      (s.fields[f].retain = false → ∀ b : Fin 32, s.fields[f].banks[b].epoch < t.fields[f].banks[b].epoch ∧
        t.fields[f].banks[b].epoch % 2 = 1) := by
  obtain ⟨p, hu, hp⟩ := s.supplied_eq f
  have hst' : (s.supplied f).fields[f].st ≠ .resetting := by
    rw [hu, vupd_same, Field.supplied]
    split <;> (rw [hst]; decide)
  obtain ⟨P, hf⟩ := State.enterResetting_fields hst'
  rw [hu, vupd_vupd] at hf
  refine ⟨_, execPwrEngOkChange_up hst hreq, ?_⟩
  rw [State.finishAll_rest]
  simp only [State.enterResetting_furrows, State.enterResetting_plot, State.enterResetting_engine, hf, hu, vupd_same]
  refine ⟨trivial, ?_, fun h hh => vupd_other _ _ _ _ fun e => hh e.symm, trivial, fun _ => rfl, hp, fun hr b => ?_⟩
  · cases s.fields[f].retain <;> rfl
  · rw [Field.restart_epoch, hr, Field.supplied_bank]
    exact Bank.lost_epoch _

/-! The Field heartbeat (R371) -/

theorem Watchdog.kick_counts {w : Watchdog} (h : w.frozen = false) : w.kick = { w with remain := w.period.toNat * 98304 } :=
  if_neg (by simp [h])

/-- Every engine of the Field lets the heartbeat pass: it kicks WDFn. -/
theorem execFieldHeartbeat_kicks {s : State} {f : Fin 4} (ha : s.supAlive = true) (hst : s.fields[f].st = .inService)
    (hb : ∀ e : Fin 24, s.beatOk (globalOf f e) = true) :
    exec (.fieldHeartbeat f) s = .next { s with
      almanac := { s.almanac with wdf := vupd s.almanac.wdf f Watchdog.kick }
      engines := vmap (fun g E => if fieldOf g = f then { E with beat := false } else E) s.engines } := by
  have hall : (fieldEngines f).all s.beatOk = true := by
    simp only [fieldEngines, List.all_map, List.all_eq_true]
    exact fun e _ => hb e
  show execFieldHeartbeat f s = _
  simp only [execFieldHeartbeat, ha, hst, hall, Bool.not_true, Bool.false_eq_true, ne_eq, not_true_eq_false, or_self, if_false, if_true,
    foldl_updEngine_field]
  rfl

/-- An engine of the Field holds the heartbeat back: the watchdog is not kicked. -/
theorem execFieldHeartbeat_held {s : State} {f : Fin 4} (ha : s.supAlive = true) (hst : s.fields[f].st = .inService)
    {e : Fin 24} (hb : s.beatOk (globalOf f e) = false) :
    exec (.fieldHeartbeat f) s = .next { s with engines := vmap (fun g E => if fieldOf g = f then { E with beat := false } else E) s.engines } := by
  have hall : (fieldEngines f).all s.beatOk = false := by
    simp only [fieldEngines, List.all_map, List.all_eq_false]
    exact ⟨e, mem_allFin e, by simp [hb]⟩
  show execFieldHeartbeat f s = _
  simp only [execFieldHeartbeat, ha, hst, hall, Bool.not_true, Bool.false_eq_true, ne_eq, not_true_eq_false, or_self, if_false,
    foldl_updEngine_field]

/-! Dormant (R483) -/

/-- The block enters Dormant where every condition of R483 holds. -/
theorem execDormantEntry_enters {s : State} (h1 : s.sealed = false) (h2 : s.supAlive = true) (h3 : s.reset? = none)
    (h4 : s.pins.clkFault.getLsbD 8 = false) (h5 : s.fields[(0 : Fin 4)].st = .out) (h6 : ∀ h : Fin 4, h ≠ 0 → s.fields[h].st = .off)
    (h7 : ∀ e : Fin 24, s.engines[globalOf 0 e].st = .doze) (h8 : ∀ m : Fin 16, s.mailboxes[m].active = []) (h9 : s.dbg.session = none) :
    exec .dormantEntry s = .next
      (((s.updPins fun p => { p with dormantAck := true }).portDown 0).updAlm fun A =>
        { A with lf := true, wds := { A.wds with running := false } }) := by
  have f : (allFin 4).all (fun f => f.val == 0 || s.fields[f].st == .off) = true := by
    simp only [List.all_eq_true]
    intro f _
    by_cases e : f = 0
    · subst e; rfl
    · rw [h6 f e]; exact Bool.or_true _
  have g : (fieldEngines 0).all (fun g => s.engines[g].st == .doze || s.engines[g].st == .retired) = true := by
    simp only [fieldEngines, List.all_map, List.all_eq_true]
    intro e _
    show (s.engines[globalOf 0 e].st == .doze || _) = true
    rw [h7 e]
    rfl
  have m : (allFin 16).all (fun m => s.mailboxes[m].active.isEmpty) = true := by
    simp only [List.all_eq_true]
    intro m _
    rw [h8 m]
    rfl
  show execDormantEntry s = _
  simp only [execDormantEntry, h1, h2, h3, h4, h5, h9, f, g, m]
  rfl

/-- Settles O25, row by row: the FAB clock's fault finds no transaction in flight to end, by the clause's hypothesis. -/
theorem clocksSuppliesHeartbeats : Obligations.ClocksSuppliesHeartbeats := by
  unfold Obligations.ClocksSuppliesHeartbeats
  refine ⟨fun s c f => ⟨fun hf hm => ⟨fun hc => ?_, fun hc h8 => ?_, fun hc ht => ?_⟩, execClockRecovery_faulty,
    execClockFault_ignored, execPwrEngOkChange_falls, execPwrEngOkChange_rises⟩, fun s f => ⟨fun hk => ?_, rfl, fun ht hd => ?_,
    fun ha hst hz hb => ?_, fun ha hst hb => ?_, fun h1 h2 h3 h4 h5 h6 h7 h8 h9 => ?_, fun h => ?_, rfl⟩⟩
  · exact ⟨_, execClockFault_lost hf hm, by rw [clockLost_noted s hc]; exact s.faultNoted_eq c⟩
  · subst hc
    refine ⟨_, execClockFault_lost hf hm, ?_⟩
    rw [clockLost_almanac h8, s.faultNoted_eq]
    exact ⟨rfl, rfl⟩
  · subst hc
    refine ⟨_, execClockFault_lost hf hm, ?_⟩
    have idle : ∀ h : Fin 4, (s.faultNoted 5).fields[h].ports.txns = [] := by rw [s.faultNoted_eq]; exact ht
    rw [clockLost_fab, State.timeoutAll_idle idle]
    exact s.faultNoted_eq 5
  · show execMemKeepAckRise s = _
    rw [execMemKeepAckRise, if_pos hk]
    rfl
  · refine ⟨s.updField f fun F => { F with draining := false, ports := { F.ports with quarantine := [] } }, ?_, rfl,
      vupd_same _ _ _, fun h hh => vupd_other _ _ _ _ fun e => hh e.symm⟩
    show execFabricDrainCompletion f s = _
    simp only [execFabricDrainCompletion, ht, hd, List.isEmpty_nil, and_self, if_true]
  · refine ⟨_, execFieldHeartbeat_kicks ha hst hb, ?_, fun e => ?_, fun g hg => ?_, rfl⟩
    · show { s.almanac with wdf := s.almanac.wdf.set f s.almanac.wdf[f].kick } = _
      rw [Watchdog.kick_counts hz]
    · rw [vmap_at, if_pos (fieldOf_globalOf f e)]
    · rw [vmap_at, if_neg hg]
  · obtain ⟨e, he⟩ := hb
    exact ⟨_, execFieldHeartbeat_held ha hst he, rfl⟩
  · exact ⟨_, execDormantEntry_enters h1 h2 h3 h4 h5 h6 h7 h8 h9, vupd_same _ _ _,
      fun h hh => vupd_other _ _ _ _ fun e => hh e.symm, rfl⟩
  · show execDormantExit s = _
    rw [execDormantExit, State.leaveDormant, if_pos h]
    rfl

end Sys2Proof.Machine
end

section
/-! PROOFS. Writes to Plot and the repair of banks: what they leave alone, and what a write to Plot depends on (R247, R258, R259, R261-R267). -/

namespace Sys2Proof.Machine

/-! What work on Plot leaves alone -/

/-- t differs from s by work on Plot and its banks: the contents, the codes and findings of words, the records of banks, and what the
Seed store, the Ledger and Tally keep of them. -/
structure PlotWork (s t : State) : Prop where
  rest : t = { s with fields := t.fields, plot := t.plot, seed := t.seed, ledger := t.ledger, tally := t.tally }
  field : ∀ f : Fin 4, t.fields[f] =
    { s.fields[f] with banks := t.fields[f].banks, ecc := t.fields[f].ecc, known := t.fields[f].known }

namespace PlotWork

variable {s t u : State}

theorem refl (s : State) : PlotWork s s := ⟨rfl, fun _ => rfl⟩

theorem trans (h : PlotWork s t) (h' : PlotWork t u) : PlotWork s u :=
  ⟨by rw [h'.rest, h.rest], fun f => by rw [h'.field f, h.field f]⟩

theorem of_fields (h : t = { s with plot := t.plot, seed := t.seed, ledger := t.ledger, tally := t.tally }) : PlotWork s t := by
  have e : t.fields = s.fields := by rw [h]
  exact ⟨by rw [h], fun f => by rw [e]⟩

theorem mailboxes (h : PlotWork s t) : t.mailboxes = s.mailboxes := by rw [h.rest]
theorem engines (h : PlotWork s t) : t.engines = s.engines := by rw [h.rest]
theorem furrows (h : PlotWork s t) : t.furrows = s.furrows := by rw [h.rest]
theorem furrow (h : PlotWork s t) (id : Nat) : t.furrow? id = s.furrow? id := by rw [State.furrow?, h.furrows]; rfl
theorem ports (h : PlotWork s t) (f : Fin 4) : t.fields[f].ports = s.fields[f].ports := by rw [h.field f]

end PlotWork

theorem State.updField_work (s : State) (f : Fin 4) (h : Field → Field)
    (hh : ∀ F, h F = { F with banks := (h F).banks, ecc := (h F).ecc, known := (h F).known }) : PlotWork s (s.updField f h) := by
  refine ⟨rfl, fun g => ?_⟩
  show (vupd s.fields f h)[g] = { s.fields[g] with
    banks := (vupd s.fields f h)[g].banks, ecc := (vupd s.fields f h)[g].ecc, known := (vupd s.fields f h)[g].known }
  by_cases e : f = g
  · subst e
    rw [vupd_same]
    exact hh _
  · rw [vupd_other _ _ _ _ e]

theorem State.updBank_work (s : State) (f : Fin 4) (b : Fin 32) (h : Bank → Bank) : PlotWork s (s.updBank f b h) :=
  s.updField_work f _ fun _ => rfl

theorem State.updSeed_work (s : State) (h : Seed → Seed) : PlotWork s (s.updSeed h) := .of_fields rfl

theorem State.log_work (s : State) (c : Fin 15) (e : Nat) (f : Option (Fin 4)) (o : Nat) (a b : Word) :
    PlotWork s (s.log c e f o a b) := by
  rw [s.log_rest]
  exact .of_fields rfl

theorem State.count_work (s : State) (p i n : Nat) : PlotWork s (s.count p i n) := by
  rw [count_rest]
  exact .of_fields rfl

theorem foldl_work {α : Type} {g : State → α → State} (l : List α) (s : State) (h : ∀ t a, PlotWork t (g t a)) :
    PlotWork s (l.foldl g s) :=
  foldl_rel .refl .trans l s h

/-! Writes to Plot -/

theorem State.putBytes_work (s : State) (f : Fin 4) (a : Nat) (l : List Byte) : PlotWork s (s.putBytes f a l) := by
  rw [s.putBytes_plot f a l]
  exact .of_fields rfl

theorem State.flagRow_work (s : State) (f : Fin 4) (a : Nat) : PlotWork s (s.flagRow f a) := by
  unfold State.flagRow
  extract_lets e t
  have ht : PlotWork s t := by
    unfold t
    split
    · exact .refl s
    · exact s.updSeed_work _
  split
  · exact ht.trans (t.log_work ..)
  · exact ht

theorem State.noteCorr_work (s : State) (f : Fin 4) (a : Nat) : PlotWork s (s.noteCorr f a) := by
  unfold State.noteCorr
  extract_lets t B w old times u
  have hu : PlotWork s u := (s.count_work ..).trans (t.updBank_work ..)
  split
  · exact hu.trans (u.flagRow_work f a)
  · exact hu

theorem State.noteUncorr_work (s : State) (f : Fin 4) (a e : Nat) : PlotWork s (s.noteUncorr f a e) := by
  unfold State.noteUncorr
  extract_lets t u v
  have ht : PlotWork s t := s.count_work ..
  have hv : PlotWork s v := (ht.trans (t.log_work ..)).trans (u.flagRow_work f a)
  split
  · exact ht
  · split
    · exact hv.trans (v.updField_work f _ fun _ => rfl)
    · exact hv

theorem State.setEcc_work (s : State) (f : Fin 4) (a : Nat) (e : Option EccSt) : PlotWork s (s.setEcc f a e) :=
  s.updField_work f _ fun _ => rfl

theorem State.clearEcc_work (s : State) (f : Fin 4) (a : Nat) : PlotWork s (s.clearEcc f a) :=
  s.updField_work f _ fun _ => rfl

theorem State.writeWord_work (s : State) (f : Fin 4) (a : Nat) (l : List Byte) : PlotWork s (s.writeWord f a l) := by
  unfold State.writeWord
  split
  · exact (s.clearEcc_work f a).trans (State.putBytes_work ..)
  · split
    · exact s.putBytes_work f a l
    · exact ((s.noteCorr_work f a).trans (State.setEcc_work ..)).trans (State.putBytes_work ..)
    · exact ((s.noteUncorr_work f a 2).trans (State.setEcc_work ..)).trans (State.putBytes_work ..)

theorem State.writeWords_work (n : Nat) (s : State) (f : Fin 4) (a : Nat) (l : List Byte) : PlotWork s (s.writeWords f a l n) := by
  induction n generalizing s a l with
  | zero => exact .refl s
  | succ n ih =>
    unfold State.writeWords
    split
    · exact .refl s
    · exact (s.writeWord_work f a _).trans (ih _ _ _)

theorem State.plotWrite_work (s : State) (f : Fin 4) (a : Nat) (l : List Byte) : PlotWork s (s.plotWrite f a l) :=
  s.writeWords_work _ f a l

/-! What a write to Plot depends on -/

/-- Plot and the codes of its words stand alike, and unwritten bytes read alike. -/
structure SamePlot (s t : State) : Prop where
  plot : t.plot = s.plot
  ecc : ∀ f : Fin 4, t.fields[f].ecc = s.fields[f].ecc
  epoch : ∀ (f : Fin 4) (b : Fin 32), t.fields[f].banks[b].epoch = s.fields[f].banks[b].epoch

namespace SamePlot

variable {s t u : State}

theorem symm (h : SamePlot s t) : SamePlot t s :=
  ⟨h.plot.symm, fun f => (h.ecc f).symm, fun f b => (h.epoch f b).symm⟩

theorem trans (h : SamePlot s t) (h' : SamePlot t u) : SamePlot s u :=
  ⟨h'.plot.trans h.plot, fun f => (h'.ecc f).trans (h.ecc f), fun f b => (h'.epoch f b).trans (h.epoch f b)⟩

theorem of_fields (hp : t.plot = s.plot) (hf : t.fields = s.fields) : SamePlot s t :=
  ⟨hp, fun f => by rw [hf], fun f b => by rw [hf]⟩

theorem plotDefault (h : SamePlot s t) (f : Fin 4) (a : Nat) : t.plotDefault f a = s.plotDefault f a := by
  unfold State.plotDefault
  rw [h.epoch]

theorem eccAt (h : SamePlot s t) (f : Fin 4) (a : Nat) : t.eccAt f a = s.eccAt f a := by
  unfold State.eccAt
  rw [h.ecc]

theorem putByte (h : SamePlot s t) (f : Fin 4) (a : Nat) (b : Byte) : SamePlot (s.putByte f a b) (t.putByte f a b) :=
  ⟨by unfold State.putByte; rw [h.plot, h.plotDefault], h.ecc, h.epoch⟩

theorem putBytes (l : List Byte) (h : SamePlot s t) (f : Fin 4) (a : Nat) : SamePlot (s.putBytes f a l) (t.putBytes f a l) := by
  induction l generalizing s t a with
  | nil => exact h
  | cons b l ih => exact ih (h.putByte f a b) (a + 1)

end SamePlot

/-- A rewriting of a Field that keeps its codes and its banks' loss counts. -/
theorem State.updField_samePlot (s : State) (f : Fin 4) (h : Field → Field) (he : (h s.fields[f]).ecc = s.fields[f].ecc)
    (hb : ∀ b : Fin 32, (h s.fields[f]).banks[b].epoch = s.fields[f].banks[b].epoch) : SamePlot s (s.updField f h) := by
  refine ⟨rfl, fun g => ?_, fun g b => ?_⟩ <;> rw [State.updField_fields] <;> by_cases e : f = g
  · subst e; rw [vupd_same]; exact he
  · rw [vupd_other _ _ _ _ e]
  · subst e; rw [vupd_same]; exact hb b
  · rw [vupd_other _ _ _ _ e]

theorem State.updPorts_mine (s : State) (f : Fin 4) (h : Ports → Ports) : (s.updPorts f h).fields[f].ports = h s.fields[f].ports := by
  rw [State.updPorts, State.updField_fields, vupd_same]

theorem State.updPorts_samePlot (s : State) (f : Fin 4) (h : Ports → Ports) : SamePlot s (s.updPorts f h) :=
  s.updField_samePlot f _ rfl fun _ => rfl

/-- The codes of a Field's words rewritten. -/
theorem SamePlot.updEcc {s t : State} (h : SamePlot s t) (f : Fin 4) (k k' : Field → Field)
    (he : (k' t.fields[f]).ecc = (k s.fields[f]).ecc)
    (hb : ∀ b : Fin 32, (k' t.fields[f]).banks[b].epoch = (k s.fields[f]).banks[b].epoch) :
    SamePlot (s.updField f k) (t.updField f k') := by
  refine ⟨h.plot, fun g => ?_, fun g b => ?_⟩ <;> rw [State.updField_fields, State.updField_fields] <;> by_cases e : f = g
  · subst e; rw [vupd_same, vupd_same]; exact he
  · rw [vupd_other _ _ _ _ e, vupd_other _ _ _ _ e]; exact h.ecc g
  · subst e; rw [vupd_same, vupd_same]; exact hb b
  · rw [vupd_other _ _ _ _ e, vupd_other _ _ _ _ e]; exact h.epoch g b

theorem SamePlot.setEcc {s t : State} (h : SamePlot s t) (f : Fin 4) (a : Nat) (e : Option EccSt) :
    SamePlot (s.setEcc f a e) (t.setEcc f a e) :=
  h.updEcc f _ _ (by rw [h.ecc f]) (h.epoch f)

theorem SamePlot.clearEcc {s t : State} (h : SamePlot s t) (f : Fin 4) (a : Nat) : SamePlot (s.clearEcc f a) (t.clearEcc f a) :=
  h.updEcc f _ _ (by show mapPut _ _ _ = mapPut _ _ _; rw [h.ecc f]) (h.epoch f)

theorem State.flagRow_samePlot (s : State) (f : Fin 4) (a : Nat) : SamePlot s (s.flagRow f a) := by
  unfold State.flagRow
  extract_lets e t
  have ht : SamePlot s t := by
    unfold t
    split <;> exact .of_fields rfl rfl
  split
  · exact ht.trans (.of_fields (State.log_plot ..) (State.log_fields ..))
  · exact ht

/-- A finding of a reader leaves Plot and its codes as they are (R259). -/
theorem State.noteCorr_samePlot (s : State) (f : Fin 4) (a : Nat) : SamePlot s (s.noteCorr f a) := by
  unfold State.noteCorr
  extract_lets t B w old times u
  have ht : SamePlot s t := .of_fields (State.count_plot ..) (State.count_fields ..)
  have hu : SamePlot s u := ht.trans (t.updField_samePlot f _ rfl fun b => by
    by_cases e : bankOf a = b
    · subst e; rw [vupd_same]
    · rw [vupd_other _ _ _ _ e])
  split
  · exact hu.trans (u.flagRow_samePlot f a)
  · exact hu

theorem State.noteUncorr_samePlot (s : State) (f : Fin 4) (a e : Nat) : SamePlot s (s.noteUncorr f a e) := by
  unfold State.noteUncorr
  extract_lets t u v
  have ht : SamePlot s t := .of_fields (State.count_plot ..) (State.count_fields ..)
  have hv : SamePlot s v := (ht.trans (.of_fields (State.log_plot ..) (State.log_fields ..))).trans (u.flagRow_samePlot f a)
  split
  · exact ht
  · split
    · exact hv.trans (v.updField_samePlot f _ rfl fun _ => rfl)
    · exact hv

namespace SamePlot

variable {s t : State}

theorem writeWord (h : SamePlot s t) (f : Fin 4) (a : Nat) (l : List Byte) : SamePlot (s.writeWord f a l) (t.writeWord f a l) := by
  unfold State.writeWord
  rw [h.eccAt]
  split
  · exact (h.clearEcc f a).putBytes l f a
  · split
    · exact h.putBytes l f a
    · exact ((((s.noteCorr_samePlot f a).symm.trans h).trans (t.noteCorr_samePlot f a)).setEcc f a none).putBytes l f a
    · exact ((((s.noteUncorr_samePlot f a 2).symm.trans h).trans (t.noteUncorr_samePlot f a 2)).setEcc f a _).putBytes l f a

theorem writeWords (n : Nat) (h : SamePlot s t) (f : Fin 4) (a : Nat) (l : List Byte) :
    SamePlot (s.writeWords f a l n) (t.writeWords f a l n) := by
  induction n generalizing s t a l with
  | zero => exact h
  | succ n ih =>
    unfold State.writeWords
    split
    · exact h
    · exact ih (h.writeWord f a _) _ _

/-- What a write leaves of Plot depends on Plot, the codes of its words and the banks' loss counts alone. -/
theorem plotWrite (h : SamePlot s t) (f : Fin 4) (a : Nat) (l : List Byte) : SamePlot (s.plotWrite f a l) (t.plotWrite f a l) :=
  h.writeWords _ f a l

end SamePlot

end Sys2Proof.Machine
end

section
/-! PROOFS. The twin selector (R86, R283, R325): its table, a decision without a local frame, and a copy that has crossed the bridge. -/

namespace Sys2Proof.Machine

theorem selectorChoice_eq (remote here far : Bool) (n : Nat) :
    selectorChoice remote here far n =
      if here && (!remote || decide (16 ≤ n)) then (0, false) else if far then (1, true) else (2, remote) := by
  cases remote <;> cases here <;> simp [selectorChoice]

/-! One selector rewritten -/

/-- A furrow with a selector put in its place. -/
def Furrow.withSel (F : Furrow) (y : Selector) : Furrow := { F with sels := F.sels.filter (fun z => z.hdr != y.hdr) ++ [y] }

/-- In t the furrow fid of s has the selector y, and no other furrow differs. -/
structure TakesSel (s t : State) (fid : Nat) (F : Furrow) (y : Selector) : Prop where
  mine : t.furrow? fid = some (F.withSel y)
  others : ∀ id, id ≠ fid → t.furrow? id = s.furrow? id

theorem State.putSel_takes {s : State} {fid : Nat} {F : Furrow} (h : s.furrow? fid = some F) (y : Selector) :
    TakesSel s (s.putSel fid y) fid F y := by
  have e := updFurrow_furrow s fid (fun F => F.withSel y) fun _ => rfl
  exact ⟨by rw [State.putSel]; exact (e fid).trans (by rw [if_pos rfl, h]; rfl), fun id hid => (e id).trans (if_neg hid)⟩

theorem TakesSel.of_furrows {s t u : State} {fid : Nat} {F : Furrow} {y : Selector} (h : TakesSel s t fid F y)
    (hu : u.furrows = t.furrows) : TakesSel s u fid F y := by
  constructor
  · rw [State.furrow?, hu]; exact h.mine
  · intro id hid
    rw [State.furrow?, hu]; exact h.others id hid

/-! A decision without a local frame -/

@[simp] theorem State.putSel_plot (s : State) (fid : Nat) (y : Selector) : (s.putSel fid y).plot = s.plot := rfl
@[simp] theorem State.putSel_fields (s : State) (fid : Nat) (y : Selector) : (s.putSel fid y).fields = s.fields := rfl
@[simp] theorem State.putSel_ledger (s : State) (fid : Nat) (y : Selector) : (s.putSel fid y).ledger = s.ledger := rfl

/-- The selector after a decision that finds only the remote copy c. -/
def Selector.tookRemote (x : Selector) (c : TwinFrame) : Selector :=
  { x with
    remote := true, streak := 0, lastSeq := some c.fseq, noneRun := false, chosen := x.chosen ++ [{ c with own := false }] }

/-- The selector of header h after a decision on frame n that finds no copy, the last frame fed having been `len` bytes long. -/
def Selector.tookNone (x : Selector) (h : Nat) (n : Word) (len : Nat) : Selector :=
  { x with
    streak := 0, lastSeq := some n, noneRun := true
    chosen := x.chosen ++ if isTx h && decide (0 < len) then [zeroFrame n len] else [] }

/-- The decision on a frame of which only the remote copy is there: it is chosen, and the selector turns REMOTE (R86). -/
theorem State.decideFrame_remote (s : State) (f : Fin 4) {F : Furrow} {h : Nat} {c : TwinFrame} (hc : (F.selOf h).far = [c]) :
    s.decideFrame f F h none c.fseq =
      let u := (s.putSel F.id ((F.selOf h).tookRemote c)).count 4 (f.val * 3 + 1) 1
      if (F.selOf h).remote then u else (u.log 3 1 (some f) (F.unitOf h) c.fseq 1).raise 2 f.val := by
  cases hr : (F.selOf h).remote <;> simp [State.decideFrame, Selector.tookRemote, hc, selectorChoice_eq, hr]; rfl

/-- The decision on a frame of which no copy is there: zeros as long as the last frame fed for a drill, nothing for a stream (R86, R325). -/
theorem State.decideFrame_none (s : State) (f : Fin 4) {F : Furrow} {h : Nat} (n : Word) (hc : (F.selOf h).far = []) :
    s.decideFrame f F h none n =
      let u := (s.putSel F.id ((F.selOf h).tookNone h n (s.lastFed f h))).count 4 (f.val * 3 + 2) 1
      if (F.selOf h).noneRun then u else u.log 3 2 (some f) (F.unitOf h) n 0 := by
  cases hr : (F.selOf h).noneRun <;> simp [State.decideFrame, Selector.tookNone, hc, selectorChoice_eq, hr]

/-- Beside the selector only Tally, the Ledger and the events take note of the decision; an unchanged state gives no record. -/
theorem State.decideFrame_remote_leaves {s : State} (f : Fin 4) {F : Furrow} {h : Nat} {c : TwinFrame} (hF : s.furrow? F.id = some F)
    (hc : (F.selOf h).far = [c]) :
    let t := s.decideFrame f F h none c.fseq
    TakesSel s t F.id F ((F.selOf h).tookRemote c) ∧ t.plot = s.plot ∧ t.fields = s.fields ∧
      ((F.selOf h).remote = true → t.ledger = s.ledger) := by
  intro t
  have ht : t = _ := s.decideFrame_remote f hc
  refine ⟨(State.putSel_takes hF _).of_furrows ?_, ?_, ?_, fun hr => ?_⟩ <;> rw [ht]
  · split <;> simp
  · split <;> simp
  · split <;> simp
  · simp [hr]

theorem State.decideFrame_none_leaves {s : State} (f : Fin 4) {F : Furrow} {h : Nat} (n : Word) (hF : s.furrow? F.id = some F)
    (hc : (F.selOf h).far = []) :
    let t := s.decideFrame f F h none n
    TakesSel s t F.id F ((F.selOf h).tookNone h n (s.lastFed f h)) ∧ t.plot = s.plot ∧ t.fields = s.fields := by
  intro t
  have ht : t = _ := s.decideFrame_none f n hc
  refine ⟨(State.putSel_takes hF _).of_furrows ?_, ?_, ?_⟩ <;> rw [ht] <;> dsimp only
  · split <;> simp
  · split <;> simp
  · split <;> simp

/-- A furrow whose ring has no frame to read: the decision falls on the remote copies alone. -/
theorem execTwinSelectorDecision_far {s : State} {f : Fin 4} {h : Fin 41} {fid : Nat} {F : Furrow} {r : Ring} {n : Word}
    (hF : s.furrow? fid = some F) (hh : F.home = some f) (ht : s.twinRing F h = true) (hr : F.ring? h = some r)
    (hk : isEgress h = true ∨ isTx h = true) (hc : s.carries f = true) (hn : s.frameAt F h r.fetched = none)
    (hd : decideSeq (F.selOf h) ((F.selOf h).far.filter fun t => s.decideNow F t.due) = some n) :
    exec (.twinSelectorDecision f h fid) s = .next (s.decideFrame f F h none n) := by
  have skip : s.skipLocal f fid h 1024 = s := by
    simp only [State.skipLocal, hF, hr, hn]
  have head : s.localHead f F h = none := by
    simp only [State.localHead, hr, hn]
  have kind : (isEgress h || isTx h) = true := by simpa using hk
  show execTwinSelectorDecision f h fid s = _
  simp only [execTwinSelectorDecision, hF, hh, ht, hr, hc, kind, skip, Option.getD_some]
  rw [head]
  simp [hd]

/-- A frame not yet decided on, alone among the candidates, is the one to decide on. -/
theorem decideSeq_one {x : Selector} {c : TwinFrame} (h : x.past c.fseq = false) : decideSeq x [c] = some c.fseq := by
  simp [decideSeq, h, bestOf]

theorem decideSeq_none {x : Selector} {n : Word} (h : x.lastSeq = some n) : decideSeq x [] = some (n + 1) := by
  simp [decideSeq, h, bestOf]

/-! A copy that has crossed the bridge (R283) -/

/-- The record of a copy: its descriptor's 32 bytes and its data (R283). -/
def OwnJob.record (o : OwnJob) : List Byte := recordBytes (bytesAt (o.data.take 32) 0 32) (o.data.drop 32)

/-- The remote copy that the selector of header h lists, its record at offset a of the remote area. -/
def OwnJob.remoteFrame (o : OwnJob) (h a : Nat) : TwinFrame :=
  { own := false, fseq := frameSeq h (o.data.take 32), due := frameDue h (o.data.take 32), place := a
    desc := bytesAt (o.data.take 32) 0 32, data := o.data.drop 32, err := none }

/-- A copy with room in the remote area becomes a record there, and the selector lists it. -/
theorem State.storeCopy_placed {s : State} {f : Fin 4} {F : Furrow} {h : Nat} {r : Ring} {o : OwnJob} {a base : Nat}
    (hr : F.ring? h = some r) (hh : F.home = some f) (ht : s.twinRing F h = true) (hs : r.rsize ≠ 0)
    (hp : farPlace (F.selOf h).far (2 ^ r.rsize) o.record.length = some a)
    (hb : F.plotAddr r.rext r.roff = some base) (ho : s.rangeOk F base (2 ^ r.rsize) = true) :
    s.storeCopy f F h (o.data.take 32) (o.data.drop 32) =
      (s.plotWrite f (base + a) o.record).putSel F.id { F.selOf h with far := (F.selOf h).far ++ [o.remoteFrame h a] } := by
  unfold OwnJob.record at hp
  simp [State.storeCopy, OwnJob.record, OwnJob.remoteFrame, hr, hh, ht, hs, hp, hb, ho]

/-- Ports rewritten change no bank and no binding. -/
theorem State.updPorts_rangeOk (s : State) (k : Fin 4) (P : Ports → Ports) (F : Furrow) (a n : Nat) :
    (s.updPorts k P).rangeOk F a n = s.rangeOk F a n := by
  have e : ∀ f b, (s.updPorts k P).bankOpen f b = s.bankOpen f b := by
    intro f b
    unfold State.bankOpen
    rw [State.updPorts, State.updField_fields]
    by_cases e : k = f
    · subst e; rw [vupd_same]
    · rw [vupd_other _ _ _ _ e]
  simp only [State.rangeOk, e]

theorem State.updPorts_twinRing (s : State) (k : Fin 4) (P : Ports → Ports) (F : Furrow) (h : Nat) :
    (s.updPorts k P).twinRing F h = s.twinRing F h := by
  have e : ∀ (f : Fin 4) (q d : Nat), (s.updPorts k P).fields[f].binding q d = s.fields[f].binding q d := by
    intro f q d
    rw [State.updPorts, State.updField_fields]
    by_cases e : k = f
    · subst e; rw [vupd_same]; rfl
    · rw [vupd_other _ _ _ _ e]
  unfold State.twinRing
  cases F.home with
  | none => rfl
  | some f => simp only [e]

/-- A copy that has crossed the bridge whole, in its turn, leaves the mover of its Field. -/
theorem execRemoteTwinCopyArrival_stores {s : State} {f src : Fin 4} {h : Fin 41} {fid ord : Nat} {F : Furrow} {o : OwnJob}
    (hF : s.furrow? fid = some F)
    (hfind : s.fields[src].ports.own.find? (fun p => p.ord == ord && s.fields[src].ports.copyDone f fid h p) = some o) :
    exec (.remoteTwinCopyArrival f fid h src ord) s = .next
      ((s.updPorts src fun P => { P with own := P.own.filter fun p => p.ord != ord }).storeCopy f F h (o.data.take 32) (o.data.drop 32)) := by
  have hord : o.ord = ord := by
    have := List.find?_some hfind
    simp only [Bool.and_eq_true, beq_iff_eq] at this
    exact this.1
  subst hord
  show execRemoteTwinCopyArrival f fid h src o.ord s = _
  simp only [execRemoteTwinCopyArrival, hfind, hF]

/-- Settles O31. The decision without a copy and the selector that turns REMOTE beside a local copy are the model's choice (log 48,
log 68). -/
theorem twinSelection : Obligations.TwinSelection := by
  unfold Obligations.TwinSelection
  intro s f h fid F r hF hh ht hr hk
  have hid := furrow_id hF
  subst hid
  refine ⟨selectorChoice_eq, fun hc hn => ⟨fun c hfar hdue hpast => ?_, fun n hfar hlast => ?_⟩, fun src ord o a base hfind hs hp hb ho => ?_⟩
  · have hd : decideSeq (F.selOf h) ((F.selOf h).far.filter fun t => s.decideNow F t.due) = some c.fseq := by
      rw [hfar, List.filter_cons_of_pos (p := fun t : TwinFrame => s.decideNow F t.due) hdue]
      exact decideSeq_one hpast
    refine ⟨_, execTwinSelectorDecision_far hF hh ht hr hk hc hn hd, ?_⟩
    obtain ⟨hy, hp, hf, hl⟩ := State.decideFrame_remote_leaves f hF hfar
    exact ⟨⟨hy.mine, hy.others⟩, hp, hf, hl⟩
  · have hd : decideSeq (F.selOf h) ((F.selOf h).far.filter fun t => s.decideNow F t.due) = some (n + 1) := by
      rw [hfar]
      exact decideSeq_none hlast
    refine ⟨_, execTwinSelectorDecision_far hF hh ht hr hk hc hn hd, ?_⟩
    obtain ⟨hy, hp, hf⟩ := State.decideFrame_none_leaves f (n + 1) hF hfar
    exact ⟨⟨hy.mine, hy.others⟩, hp, hf⟩
  · have run := execRemoteTwinCopyArrival_stores hF hfind
    rw [State.storeCopy_placed hr hh ((s.updPorts_twinRing src _ F h).trans ht) hs hp hb
      ((s.updPorts_rangeOk src _ F base _).trans ho)] at run
    have hw := (s.updPorts src fun P => { P with own := P.own.filter fun p => p.ord != ord }).plotWrite_work f (base + a) o.record
    have hy := State.putSel_takes (y := { F.selOf h with far := (F.selOf h).far ++ [o.remoteFrame h a] })
      ((hw.furrow F.id).trans hF)
    refine ⟨_, run, ⟨hy.mine, fun id hne => (hy.others id hne).trans ?_⟩, ?_, ?_, hw.engines⟩
    · exact hw.furrow id
    · exact congrArg Ports.own ((hw.ports src).trans (s.updPorts_mine src _))
    · exact ((s.updPorts_samePlot src _).plotWrite f (base + a) _).plot

end Sys2Proof.Machine
end

section
/-! PROOFS. Service commands: power, the Harrow's tests, repair and retirement of a bank (R20, R57, R64, R100, R261-R267, R402, R476). -/

namespace Sys2Proof.Machine

/-! Commands in execution -/

theorem updWhere_eq_map {α : Type} (p : α → Bool) (h : α → α) (l : List α) : updWhere p h l = l.map fun x => if p x then h x else x := rfl

/-- A command that runs stays in execution under a rewriting that keeps its index. -/
theorem Runs.stays_updCmd {s u : State} {mb : Fin 16} {k : BitVec 16} {op : Nat} {c : ActiveCmd} {rest : List ActiveCmd}
    (h : Runs s mb k op c rest) (hu : u.mailboxes = s.mailboxes) (w : ActiveCmd → ActiveCmd) :
    w c ∈ (u.updCmd mb k w).mailboxes[mb].active := by
  obtain ⟨a, b, hl, -, -, hk⟩ := takeFirst_split h.first
  rw [State.updCmd, State.updMailbox_mailboxes, vupd_same, hu]
  show w c ∈ updWhere _ w s.mailboxes[mb].active
  rw [updWhere_eq_map, hl]
  exact List.mem_map.mpr ⟨c, by simp, if_pos hk⟩

/-- A command as its start leaves it. -/
def State.startedCmd (s : State) (c : ActiveCmd) : ActiveCmd :=
  { c with started := true, since := if c.started then c.since else s.now }

theorem State.start_eq (s : State) (mb : Fin 16) (k : BitVec 16) : s.start mb k = s.updCmd mb k s.startedCmd := rfl

/-! FIELD_POWER (R64, R476) -/

/-- The row of an action code takes its Field. -/
theorem State.onPower_runs {s : State} {mb : Fin 16} {k : BitVec 16} {c : ActiveCmd} {rest : List ActiveCmd} {f : Fin 4} {n : Nat}
    (h : Runs s mb k 0x0805 c rest) (hn : n < 3) (ha : c.args[(1 : Fin 10)].toNat = n) (hs : c.started = false)
    (hf : c.args[(0 : Fin 10)].toNat = f.val) (g : Fin 4 → State) : s.onPower mb k n g = g f := by
  have h1 : c.args[1].toNat = n := ha
  have h0 : c.args[0].toNat = f.val := hf
  have hn : ¬ 3 ≤ n := by omega
  simp only [State.onPower, h.cmd, h1, h0, hs, hn, toFin?_val]
  simp

/-! A bank's retirement and its test -/

theorem State.retireBank_work (s : State) (f : Fin 4) (b : Fin 32) : PlotWork s (s.retireBank f b) := by
  unfold State.retireBank
  exact (s.updBank_work f b _).trans (State.updSeed_work ..)

theorem State.zeroBank_work (s : State) (f : Fin 4) (b : Fin 32) : PlotWork s (s.zeroBank f b) :=
  (s.updField_work f (fun F =>
    { F with
      banks := vupd F.banks b fun B => { B with epoch := zeroAfter B.epoch }
      ecc := F.ecc.filter fun c => decide (c.1 / 8192 ≠ b.val)
      known := F.known.filter fun w => decide (w / 8192 ≠ b.val) }) fun _ => rfl).trans (.of_fields rfl)

theorem State.passBank_work (s : State) (f : Fin 4) (b : Fin 32) : PlotWork s (s.passBank f b) := by
  unfold State.passBank
  exact ((s.zeroBank_work f b).trans (State.updBank_work ..)).trans (State.updSeed_work ..)

theorem State.logRows_work (s : State) (f : Fin 4) (b : Fin 32) (l : List Nat) : PlotWork s (s.logRows f b l) :=
  foldl_work _ s fun t _ => t.log_work ..

theorem State.badSpares_work (s : State) (f : Fin 4) (b : Fin 32) (l : List Nat) : PlotWork s (s.badSpares f b l) := by
  unfold State.badSpares
  extract_lets m
  split
  · exact .refl s
  · exact (s.updBank_work ..).trans (State.updSeed_work ..)

theorem State.remapRow_work (s : State) (f : Fin 4) (b : Fin 32) (r : Nat) : PlotWork s (s.remapRow f b r) := by
  unfold State.remapRow
  split
  · exact .refl s
  · exact ((s.updBank_work ..).trans (State.updField_work _ f _ fun _ => rfl)).trans (State.updSeed_work ..)

theorem State.remapRows_work (s : State) (f : Fin 4) (b : Fin 32) (l : List Nat) :
    PlotWork s (l.foldl (fun (s : State) (r : Nat) => s.remapRow f b r) s) :=
  foldl_work _ s fun t r => t.remapRow_work f b r

theorem State.updBank_mine (s : State) (f : Fin 4) (b : Fin 32) (h : Bank → Bank) :
    (s.updBank f b h).fields[f].banks[b] = h s.fields[f].banks[b] := by
  rw [State.updBank, State.updField_fields, vupd_same, vupd_same]

theorem State.zeroBank_mine (s : State) (f : Fin 4) (b : Fin 32) :
    (s.zeroBank f b).fields[f].banks[b] = { s.fields[f].banks[b] with epoch := zeroAfter s.fields[f].banks[b].epoch } := by
  unfold State.zeroBank
  dsimp only
  rw [State.updField_fields, vupd_same, vupd_same]

theorem State.passBank_mine (s : State) (f : Fin 4) (b : Fin 32) :
    (s.passBank f b).fields[f].banks[b] = { s.fields[f].banks[b] with
      st := .free, owner := 0, target := 0, shared := false, lease := false, stripe := 0, gleanQ := []
      epoch := zeroAfter s.fields[f].banks[b].epoch } := by
  rw [State.passBank, State.updSeed_fields, State.updBank_mine, State.zeroBank_mine]

theorem State.passBank_plot (s : State) (f : Fin 4) (b : Fin 32) :
    (s.passBank f b).plot = s.plot.filter fun c => decide (¬ (plotKey f (b.val * 131072) ≤ c.1
      ∧ c.1 < plotKey f (b.val * 131072) + 131072)) := rfl

/-- A retired bank is RETIRED and in the retirement map (R263, R267). -/
theorem State.retireBank_retired (s : State) (f : Fin 4) (b : Fin 32) :
    (s.retireBank f b).fields[f].banks[b].st = .retired ∧ bankKey f b ∈ (s.retireBank f b).seed.retiredBanks := by
  constructor
  · rw [State.retireBank, State.updSeed_fields, State.updBank_mine]
  · rw [State.retireBank, State.updSeed_seed, State.updBank_seed]
    by_cases h : bankKey f b ∈ s.seed.retiredBanks
    · simp only [h, if_true]
    · simp only [h, if_false]
      split
      · rename_i e
        rw [← e]
        simp
      · simp

/-- A bank that has passed is FREE and out of the retirement map (R263, R268). -/
theorem State.passBank_free (s : State) (f : Fin 4) (b : Fin 32) :
    (s.passBank f b).fields[f].banks[b].st = .free ∧ bankKey f b ∉ (s.passBank f b).seed.retiredBanks := by
  constructor
  · rw [State.passBank_mine]
  · rw [State.passBank, State.updSeed_seed, State.updBank_seed]
    split
    · rename_i e
      rw [← e]
      simp
    · simp

/-- No list holds a key that was filtered out. -/
theorem mapFind_filter_none {α : Type} {k : Nat} {p : Nat × α → Bool} (h : ∀ c, c.1 = k → p c = false) (l : List (Nat × α)) :
    mapFind k (l.filter p) = none := by
  induction l with
  | nil => rfl
  | cons c l ih =>
    by_cases hc : p c = true
    · have hk : ¬ k = c.1 := fun e => by rw [h c e.symm] at hc; cases hc
      rw [List.filter_cons_of_pos hc, mapFind, if_neg hk, ih]
    · rw [List.filter_cons_of_neg hc, ih]

/-- A bank that has passed reads as zeros (R261, R263). -/
theorem State.passBank_zero (s : State) (f : Fin 4) (a : Nat) : (s.passBank f (bankOf a)).plotByte f a = 0 := by
  have hb : a / 131072 % 32 = (bankOf a).val := rfl
  have key : plotKey f ((bankOf a).val * 131072) ≤ plotKey f a ∧ plotKey f a < plotKey f ((bankOf a).val * 131072) + 131072 := by
    unfold plotKey
    omega
  have hplot : mapFind (plotKey f a) (s.passBank f (bankOf a)).plot = none := by
    rw [State.passBank_plot]
    exact mapFind_filter_none (fun c hc => by rw [hc]; simp [key]) _
  have hepoch : (s.passBank f (bankOf a)).fields[f].banks[bankOf a].epoch % 2 = 0 := by
    rw [State.passBank_mine]
    show zeroAfter _ % 2 = 0
    unfold zeroAfter
    omega
  unfold State.plotByte mapGet
  rw [hplot, State.plotDefault, if_pos hepoch]
  rfl

/-- A test without a failing row passes its bank. -/
theorem State.destructiveTest_pass (s : State) (f : Fin 4) (b : Fin 32) (again : Bool) :
    s.destructiveTest f b [] again = (s.passBank f b, true) := rfl

/-- A test whose run after the repair fails, too, retires its bank, after what records and remaps the failing rows (R263). -/
theorem State.destructiveTest_fail (s : State) (f : Fin 4) (b : Fin 32) {l : List Nat} (hl : l ≠ []) :
    ∃ u, PlotWork s u ∧ s.destructiveTest f b l true = (u.retireBank f b, false) := by
  have he : l.isEmpty = false := by simpa using hl
  unfold State.destructiveTest
  rw [he]
  extract_lets t B rows u
  have ht : PlotWork s t := (s.logRows_work f b l).trans (State.badSpares_work ..)
  rw [if_neg Bool.false_ne_true]
  split
  · exact ⟨t, ht, rfl⟩
  · exact ⟨u, ht.trans (t.remapRows_work f b rows), rfl⟩

/-- A repair of a bank with spares for its flagged rows, and no failing row after it (R267, R268). -/
theorem State.repairBank_pass (s : State) (f : Fin 4) (b : Fin 32) (again : Bool)
    (h : (s.flaggedRows f b).length ≤ s.fields[f].banks[b].freeSpares.length) :
    ∃ u, PlotWork s u ∧ s.repairBank f b [] again = (u.passBank f b, true) := by
  refine ⟨_, s.remapRows_work f b (s.flaggedRows f b), ?_⟩
  rw [State.repairBank, State.remapFlagged, if_neg (Nat.not_lt.mpr h)]
  rfl

/-- A command that starts on a bank that no other holds, in a Field that is there, does its work on it. -/
theorem State.onBank_runs {s : State} {mb : Fin 16} {k : BitVec 16} {c : ActiveCmd} {f : Fin 4} {b : Fin 32} (h0 : c.args[(0 : Fin 10)].toNat = f.val)
    (h1 : c.args[(1 : Fin 10)].toNat = b.val) (hs : c.started = false) (hb : s.bankHeld (some (mb, k)) f.val b.val = false)
    (hf : s.fieldHeld (some (mb, k)) f.val = false) (hg : ¬ (s.fields[f].st = .off ∨ s.fields[f].st = .resetting))
    (w : Fin 4 → Fin 32 → State) : s.onBank mb k c w = w f b := by
  have h0 : c.args[0].toNat = f.val := h0
  have h1 : c.args[1].toNat = b.val := h1
  have hg' : s.fieldGone f = false := by simpa [State.fieldGone] using hg
  simp only [State.onBank, h0, h1, toFin?_val, hs, hb, hf, hg']
  simp

theorem State.vacated_free {s : State} {f : Fin 4} {b : Fin 32} (h : s.fields[f].banks[b].st = .free) (mb : Fin 16) (k : BitVec 16)
    (w : State) : s.vacated mb k f b w = w := by
  rw [State.vacated, h]

end Sys2Proof.Machine
end

section
/-! PROOFS. Service commands: the drain of a Field, the test and the retirement of an engine (R14, R20, R57, R64, R98, R100, R402). -/

namespace Sys2Proof.Machine

/-! Objects held (R71) -/

/-- Where no other command holds an object, a started long command that would is the one that asks. -/
theorem State.holdsObject_started {s : State} {me : Asker} {p : Fin 16 → ActiveCmd → Bool} (h : s.holdsObject me p = false) {m : Fin 16}
    {d : ActiveCmd} (hd : d ∈ s.mailboxes[m].active) (hs : d.started = true) (hl : isLong d.opcode = true) (hp : p m d = true) :
    me = some (m, d.k) := by
  by_contra hne
  have hm := List.any_eq_false.mp h m (mem_allFin m)
  have hd' := List.any_eq_false.mp (Bool.eq_false_iff.mpr hm) d hd
  have hne' : (me != some (m, d.k)) = true := by simpa using hne
  simp only [ActiveCmd.going, hs, hl, hne', hp, Bool.or_true, Bool.true_or, Bool.and_self, Bool.true_and] at hd'
  apply hd'
  split <;> rfl

/-- The FIELD_DRAINs of a Field, and the ENGINE_RETIREs of an engine. -/
def ActiveCmd.drains (f : Fin 4) (d : ActiveCmd) : Bool := d.opcode == 0x0804 && d.args[0].toNat == f.val
def ActiveCmd.retires (g : Fin 96) (d : ActiveCmd) : Bool := d.opcode == 0x0806 && d.args[0].toNat == g.val

theorem Runs.drains {s : State} {mb : Fin 16} {k : BitVec 16} {c : ActiveCmd} {rest : List ActiveCmd} {f : Fin 4}
    (h : Runs s mb k 0x0804 c rest) (ha : c.args[(0 : Fin 10)].toNat = f.val) : c.drains f = true := by
  have ha : c.args[0].toNat = f.val := ha
  simp [ActiveCmd.drains, h.opcode, ha]

theorem Runs.retires {s : State} {mb : Fin 16} {k : BitVec 16} {c : ActiveCmd} {rest : List ActiveCmd} {g : Fin 96}
    (h : Runs s mb k 0x0806 c rest) (ha : c.args[(0 : Fin 10)].toNat = g.val) : c.retires g = true := by
  have ha : c.args[0].toNat = g.val := ha
  simp [ActiveCmd.retires, h.opcode, ha]

theorem State.fieldHeld_drains {s : State} {me : Asker} {f : Fin 4} (h : s.fieldHeld me f.val = false) {m : Fin 16} {d : ActiveCmd}
    (hd : d ∈ s.mailboxes[m].active) (hs : d.started = true) (hp : d.drains f = true) : me = some (m, d.k) := by
  obtain ⟨ho, ha⟩ : d.opcode = 0x0804 ∧ d.args[0].toNat = f.val := by simpa [ActiveCmd.drains] using hp
  exact State.holdsObject_started h hd hs (by rw [ho]; decide) (by simp [ho, ha])

theorem State.engineHeld_retires {s : State} {me : Asker} {g : Fin 96} (h : s.engineHeld me g.val = false) {m : Fin 16} {d : ActiveCmd}
    (hd : d ∈ s.mailboxes[m].active) (hs : d.started = true) (hp : d.retires g = true) : me = some (m, d.k) := by
  obtain ⟨ho, ha⟩ : d.opcode = 0x0806 ∧ d.args[0].toNat = g.val := by simpa [ActiveCmd.retires] using hp
  exact State.holdsObject_started h hd hs (by rw [ho]; decide) (by simp [ho, ha])

/-! The start of a command, and what follows it -/

/-- A command that keeps all that its end depends on. -/
structure SameCmd (c d : ActiveCmd) : Prop where
  k : d.k = c.k
  opcode : d.opcode = c.opcode
  args : d.args = c.args
  tag : d.tag = c.tag
  num : d.num = c.num

/-- From s to t the command k of a mailbox starts; every other one is as started as it was, and no record is added. -/
structure Starts (s t : State) (mb : Fin 16) (k : BitVec 16) : Prop where
  active : ∀ m : Fin 16, ∃ w : ActiveCmd → ActiveCmd, t.mailboxes[m].active = s.mailboxes[m].active.map w ∧
    ∀ d, SameCmd d (w d) ∧ ((w d).started = true ↔ d.started = true ∨ (m, d.k) = (mb, k))
  records : ∀ m : Fin 16, t.mailboxes[m].records = s.mailboxes[m].records

theorem SameCmd.drains {c d : ActiveCmd} (h : SameCmd c d) (f : Fin 4) : d.drains f = c.drains f := by
  rw [ActiveCmd.drains, ActiveCmd.drains, h.opcode, h.args]

theorem SameCmd.retires {c d : ActiveCmd} (h : SameCmd c d) (g : Fin 96) : d.retires g = c.retires g := by
  rw [ActiveCmd.retires, ActiveCmd.retires, h.opcode, h.args]

theorem State.start_starts (s : State) (mb : Fin 16) (k : BitVec 16) : Starts s (s.start mb k) mb k := by
  constructor <;> intro m <;> rw [State.start, State.updCmd, State.updMailbox_mailboxes] <;> by_cases e : mb = m
  · subst e
    rw [vupd_same]
    refine ⟨_, updWhere_eq_map _ _ _, fun d => ?_⟩
    by_cases hk : d.k = k
    · rw [if_pos (by simpa using hk)]
      exact ⟨⟨rfl, rfl, rfl, rfl, rfl⟩, by simp [hk]⟩
    · rw [if_neg (by simpa using hk)]
      exact ⟨⟨rfl, rfl, rfl, rfl, rfl⟩, by simp [hk]⟩
  · rw [vupd_other _ _ _ _ e]
    refine ⟨id, (List.map_id _).symm, fun d => ⟨⟨rfl, rfl, rfl, rfl, rfl⟩, ?_⟩⟩
    have e' : ¬ m = mb := fun x => e x.symm
    simp [e']
  · subst e; rw [vupd_same]
  · rw [vupd_other _ _ _ _ e]

namespace Starts

variable {s t u : State} {mb : Fin 16} {k : BitVec 16}

theorem of_mailboxes (h : Starts s t mb k) (hu : u.mailboxes = t.mailboxes) : Starts s u mb k := by
  constructor
  · rw [hu]; exact h.active
  · rw [hu]; exact h.records

theorem raise (h : Starts s t mb k) (ev field : Nat) : Starts s (t.raise ev field) mb k := by
  constructor
  · intro m
    obtain ⟨w, hw, hd⟩ := h.active m
    refine ⟨fun c => if (w c).opcode = opEventWait ∧ (w c).started ∧ (w c).hit = none ∧ (w c).args[0].getLsbD ev then
      { w c with hit := some (ev, field, t.ledger.seqReg) } else w c, ?_, fun d => ?_⟩
    · unfold State.raise
      dsimp only
      rw [vmap_at, hw, List.map_map]
      rfl
    · obtain ⟨⟨h1, h2, h3, h4, h5⟩, h6⟩ := hd d
      dsimp only
      split
      · exact ⟨⟨h1, h2, h3, h4, h5⟩, h6⟩
      · exact ⟨⟨h1, h2, h3, h4, h5⟩, h6⟩
  · intro m
    unfold State.raise
    dsimp only
    rw [vmap_at]
    exact h.records m

theorem setFieldSt (h : Starts s t mb k) (f : Fin 4) (st : FieldSt) : Starts s (t.setFieldSt f st) mb k := by
  unfold State.setFieldSt
  split
  · exact h
  · extract_lets u v
    exact (h.of_mailboxes (u := v) rfl).raise 1 f.val

/-- The command that has started, alone among those that satisfy p, completes with OK. -/
theorem finishOk {op : Nat} {c : ActiveCmd} {rest : List ActiveCmd} {p : ActiveCmd → Bool} (h : Starts s t mb k)
    (hr : Runs s mb k op c rest) (hp : ∀ c d, SameCmd c d → p d = p c) (hc : p c = true)
    (alone : ∀ (m : Fin 16), ∀ d ∈ s.mailboxes[m].active, d.started = true → p d = true → some (mb, k) = some (m, d.k)) :
    (t.finishOk p fun c => [nw c.num]).mailboxes[mb].records =
      s.mailboxes[mb].records ++ [cplOf c.tag 0 k c.opcode [nw c.num] none] := by
  -- A command of t that has started and satisfies p is the one that runs.
  have only (m : Fin 16) (w : ActiveCmd → ActiveCmd)
      (hd : ∀ d, SameCmd d (w d) ∧ ((w d).started = true ↔ d.started = true ∨ (m, d.k) = (mb, k)))
      (d : ActiveCmd) (hm : d ∈ s.mailboxes[m].active) (hne : (m, d.k) ≠ (mb, k)) : ((w d).started && p (w d)) = false := by
    obtain ⟨hsame, hst⟩ := hd d
    by_contra hx
    obtain ⟨h1, h2⟩ := Bool.and_eq_true_iff.mp (Bool.eq_true_of_not_eq_false hx)
    rw [hp d (w d) hsame] at h2
    exact hne (Option.some.inj (alone m d hm ((hst.mp h1).resolve_right hne) h2)).symm
  obtain ⟨w, hw, hd⟩ := h.active mb
  have first : takeFirst (fun d => d.k == k) t.mailboxes[mb].active = some (w c, rest.map w) := by
    rw [hw, takeFirst_map w (fun x => by rw [(hd x).1.k]), hr.first]
    rfl
  have hcs : ((w c).started && p (w c)) = true := by
    rw [hp c (w c) (hd c).1, hc, (hd c).2.mpr (Or.inr (by rw [hr.index]))]
    rfl
  have hrest : ∀ d ∈ rest.map w, (d.started && p d) = false := by
    intro d' hd'
    obtain ⟨d, hm, rfl⟩ := List.mem_map.mp hd'
    refine only mb w hd d ?_ fun e => hr.only d hm (Prod.mk.inj e).2
    obtain ⟨a, b, hl, hab, -, -⟩ := takeFirst_split hr.first
    rw [hl]
    rw [hab] at hm
    simp only [List.mem_append, List.mem_cons] at hm ⊢
    tauto
  have hothers : ∀ m : Fin 16, m ≠ mb → ∀ d ∈ t.mailboxes[m].active, (d.started && p d) = false := by
    intro m hne d' hd'
    obtain ⟨w', hw', hd''⟩ := h.active m
    rw [hw'] at hd'
    obtain ⟨d, hm, rfl⟩ := List.mem_map.mp hd'
    exact only m w' hd'' d hm fun e => hne (Prod.mk.inj e).1
  obtain ⟨⟨e1, e2, -, e4, e5⟩, -⟩ := hd c
  rw [State.finishOk_only _ first hcs hrest hothers, t.finish_mine first]
  show t.mailboxes[mb].records ++ [cplOf (w c).tag eOk (w c).k (w c).opcode [nw (w c).num] none] = _
  rw [h.records, e1, e2, e4, e5, hr.index]
  rfl

end Starts

end Sys2Proof.Machine
end

section
/-! PROOFS. The drain of a Field (R14, R20, R57, R64). -/

namespace Sys2Proof.Machine

@[simp] theorem State.finishOk_fields (s : State) (p : ActiveCmd → Bool) (r : ActiveCmd → List Word) :
    (s.finishOk p r).fields = s.fields := by rw [s.finishOk_rest]
@[simp] theorem State.finishOk_engines (s : State) (p : ActiveCmd → Bool) (r : ActiveCmd → List Word) :
    (s.finishOk p r).engines = s.engines := by rw [s.finishOk_rest]
@[simp] theorem State.finishOk_furrows (s : State) (p : ActiveCmd → Bool) (r : ActiveCmd → List Word) :
    (s.finishOk p r).furrows = s.furrows := by rw [s.finishOk_rest]
@[simp] theorem State.finishOk_plot (s : State) (p : ActiveCmd → Bool) (r : ActiveCmd → List Word) :
    (s.finishOk p r).plot = s.plot := by rw [s.finishOk_rest]
@[simp] theorem State.finishOk_seed (s : State) (p : ActiveCmd → Bool) (r : ActiveCmd → List Word) :
    (s.finishOk p r).seed = s.seed := by rw [s.finishOk_rest]

/-! Bridge transfers that end (R14) -/

theorem State.landUnits_work (s : State) (t : Fin 4) (j : Job) : PlotWork s (s.landUnits t j) := by
  unfold State.landUnits
  split
  · exact .refl s
  · split
    · exact .refl s
    · extract_lets size need pos pos' free
      split
      · exact .refl s
      · split
        · exact .refl s
        · exact s.plotWrite_work ..

/-- What the end of a Field's bridge transfers has landed in rings. -/
def State.abortLands (s : State) (f : Fin 4) : State :=
  (allFin 4).foldl (fun (s : State) (k : Fin 4) =>
    (s.fields[k].ports.jobs.filter fun j => j.cutBy k f).foldl (fun (s : State) (j : Job) =>
      match j.bridge with
      | some t => s.landUnits t j
      | none => s) s) s

theorem State.abortLands_work (s : State) (f : Fin 4) : PlotWork s (s.abortLands f) :=
  foldl_work _ s fun t k => foldl_work _ t fun u j => by
    split
    · exact u.landUnits_work ..
    · exact .refl u

/-- Without a job that crosses the bridge nothing lands. -/
theorem State.abortLands_idle {s : State} (h : ∀ k : Fin 4, ∀ j ∈ s.fields[k].ports.jobs, j.bridge = none) (f : Fin 4) :
    s.abortLands f = s :=
  foldl_idle _ s fun k _ => foldl_idle _ s fun j hj => by rw [h k j (List.mem_of_mem_filter hj)]

/-- The end of bridge transfers changes the ports of Fields beside what has landed. -/
theorem State.bridgeAbort_eq (s : State) (f : Fin 4) : ∃ (u : State) (P : Fin 4 → Field → Ports), PlotWork s u ∧
    ((∀ k : Fin 4, ∀ j ∈ s.fields[k].ports.jobs, j.bridge = none) → u = s) ∧
    s.bridgeAbort f = { u with fields := vmap (fun k F => { F with ports := P k F }) u.fields } :=
  ⟨s.abortLands f, _, s.abortLands_work f, fun h => State.abortLands_idle h f, rfl⟩

theorem State.bridgeAbort_st (s : State) (f k : Fin 4) : (s.bridgeAbort f).fields[k].st = s.fields[k].st := by
  obtain ⟨u, P, hw, -, hu⟩ := s.bridgeAbort_eq f
  rw [hu, vmap_at, hw.field]

theorem State.bridgeAbort_mailboxes (s : State) (f : Fin 4) : (s.bridgeAbort f).mailboxes = s.mailboxes := by
  obtain ⟨u, P, hw, -, hu⟩ := s.bridgeAbort_eq f
  rw [hu]
  exact hw.mailboxes

theorem State.bridgeAbort_furrows (s : State) (f : Fin 4) : (s.bridgeAbort f).furrows = s.furrows := by
  obtain ⟨u, P, hw, -, hu⟩ := s.bridgeAbort_eq f
  rw [hu]
  exact hw.furrows

theorem State.bridgeAbort_plot {s : State} (h : ∀ k : Fin 4, ∀ j ∈ s.fields[k].ports.jobs, j.bridge = none) (f : Fin 4) :
    (s.bridgeAbort f).plot = s.plot := by
  obtain ⟨u, P, -, he, hu⟩ := s.bridgeAbort_eq f
  rw [hu, he h]

/-! FIELD_DRAIN (R20, R57, R64) -/

/-- Whether a furrow is on an engine of a Field. -/
def Furrow.on (F : Furrow) (f : Fin 4) : Prop := F.engine.map fieldOf = some f

theorem Furrow.none_on {l : List Furrow} {f : Fin 4} :
    (l.any fun F => F.engine.map fieldOf == some f) = false ↔ ∀ F ∈ l, ¬ F.on f := by
  simp [Furrow.on]

/-- A drained Field: Out, its bridge transfers ended, its queues unbound. -/
def State.drained (s : State) (f : Fin 4) : State := ((s.setFieldSt f .out).bridgeAbort f).updField f fun F => { F with queueTab := [] }

theorem State.setFieldSt_st (s : State) (f : Fin 4) (st : FieldSt) : (s.setFieldSt f st).fields[f].st = st := by
  by_cases h : s.fields[f].st = st
  · rw [State.setFieldSt, if_pos h]; exact h
  · rw [State.setFieldSt_fields _ _ _ h, vupd_same]

theorem State.setFieldSt_ports (s : State) (f k : Fin 4) (st : FieldSt) :
    (s.setFieldSt f st).fields[k].ports = s.fields[k].ports := by
  by_cases h : s.fields[f].st = st
  · rw [State.setFieldSt, if_pos h]
  · rw [State.setFieldSt_fields _ _ _ h]
    by_cases e : f = k
    · subst e; rw [vupd_same]
    · rw [vupd_other _ _ _ _ e]

theorem State.drained_st (s : State) (f : Fin 4) : (s.drained f).fields[f].st = .out ∧ (s.drained f).fields[f].queueTab = [] := by
  rw [State.drained, State.updField_fields, vupd_same]
  dsimp only
  rw [State.bridgeAbort_st, State.setFieldSt_st]
  exact ⟨rfl, rfl⟩

theorem State.drained_furrows (s : State) (f : Fin 4) : (s.drained f).furrows = s.furrows := by
  rw [State.drained, State.updField_furrows, State.bridgeAbort_furrows, State.setFieldSt_furrows]

theorem State.drained_plot {s : State} (h : ∀ k : Fin 4, ∀ j ∈ s.fields[k].ports.jobs, j.bridge = none) (f : Fin 4) :
    (s.drained f).plot = s.plot := by
  rw [State.drained, State.updField_plot, State.bridgeAbort_plot, State.setFieldSt_plot]
  intro k j hj
  rw [State.setFieldSt_ports] at hj
  exact h k j hj

theorem Starts.drained {s t : State} {mb : Fin 16} {k : BitVec 16} (h : Starts s t mb k) (f : Fin 4) : Starts s (t.drained f) mb k :=
  (h.setFieldSt f .out).of_mailboxes (by rw [State.drained, State.updField_mailboxes, State.bridgeAbort_mailboxes])

/-- A Draining Field that no furrow is left in is drained, and its FIELD_DRAIN completes. -/
theorem State.drainDone_empty {s : State} {f : Fin 4} (hst : s.fields[f].st = .draining) (hn : ∀ F ∈ s.furrows, ¬ F.on f) :
    s.drainDone f = (s.drained f).finishOk (fun c => c.drains f) fun c => [nw c.num] := by
  rw [State.drainDone, if_pos ⟨hst, by rw [Furrow.none_on.mpr hn]; rfl⟩]
  rfl

theorem State.drainDone_busy {s : State} {f : Fin 4} (h : s.fields[f].st ≠ .draining ∨ ∃ F ∈ s.furrows, F.on f) :
    s.drainDone f = s := by
  refine if_neg fun ⟨hst, hn⟩ => h.elim (fun h => h hst) fun ⟨F, hF, hon⟩ => ?_
  exact Furrow.none_on.mp (by simpa using hn) F hF hon

/-- Moves of furrows put migrations into the sequencer and change nothing else. -/
theorem State.drainMoves_rest {s u : State} {f : Fin 4} (h : s.drainMoves f = some u) : u = { s with sower := u.sower } := by
  have all (l : List Furrow) : ∀ r : Option State, (∀ t, r = some t → t = { s with sower := t.sower }) → ∀ u,
      l.foldl (fun (r : Option State) (F : Furrow) =>
        r.bind fun t =>
          match t.choose F fun g => fieldOf g != f with
          | some (g, false) => some (t.beginMove F g forDrain none)
          | _ => none) r = some u → u = { s with sower := u.sower } := by
    induction l with
    | nil => exact fun r hr u hu => hr u hu
    | cons F l ih =>
      refine fun r hr => ih _ fun t ht => ?_
      obtain ⟨v, hv, hm⟩ := Option.bind_eq_some_iff.mp ht
      split at hm
      · rw [← Option.some.inj hm]
        unfold State.beginMove
        split
        · exact hr v hv
        · rw [hr v hv]; rfl
      · cases hm
  exact all _ _ (fun t ht => by rw [← Option.some.inj ht]) u h

/-- A Field without a furrow has none to move. -/
theorem State.drainMoves_empty {s : State} {f : Fin 4} (h : ∀ F ∈ s.furrows, ¬ F.on f) : s.drainMoves f = some s := by
  have e : (s.furrows.filter fun F => F.engine.map fieldOf == some f && (s.mig? F.id).isNone) = [] :=
    List.filter_eq_nil_iff.mpr fun F hF => by
      have := h F hF
      unfold Furrow.on at this
      simp [this]
  rw [State.drainMoves, State.toDrain, e]
  rfl

/-- A drain that starts: its moves enter the sequencer, and the Field is Draining until the last furrow has left. -/
theorem execFieldDrain_starts {s u : State} {mb : Fin 16} {k : BitVec 16} {c : ActiveCmd} {rest : List ActiveCmd} {f : Fin 4}
    (h : Runs s mb k 0x0804 c rest) (hs : c.started = false) (ha : c.args[(0 : Fin 10)].toNat = f.val)
    (hb : s.fieldHeld (some (mb, k)) f.val = false) (hst : ∀ h : Fin 4, s.fields[h].st = .inService)
    (hr : ∀ F ∈ s.furrows, F.on f → s.hasRefuge F f = true) (hu : s.drainMoves f = some u) :
    exec (.fieldDrain mb k) s = .next (((u.start mb k).setFieldSt f .draining).drainDone f) := by
  have ha : c.args[0].toNat = f.val := ha
  have hst' : ((allFin 4).any fun h => s.fields[h].st != .inService) = false :=
    List.any_eq_false.mpr fun h _ => by rw [hst h]; decide
  have hr' : (s.furrows.any fun F => F.engine.map fieldOf == some f && !s.hasRefuge F f) = false :=
    List.any_eq_false.mpr fun F hF => by
      by_cases hon : F.on f
      · simp [hr F hF hon]
      · unfold Furrow.on at hon
        simp [hon]
  show execFieldDrain mb k s = _
  simp only [execFieldDrain, h.cmd, ha, toFin?_val, hs, hst', hb, hr', hu]
  rfl

/-- A drain of a Field without furrows takes it out of service at once. -/
theorem drains_empty {s : State} {mb : Fin 16} {k : BitVec 16} {c : ActiveCmd} {rest : List ActiveCmd} {f : Fin 4}
    (h : Runs s mb k 0x0804 c rest) (hs : c.started = false) (ha : c.args[(0 : Fin 10)].toNat = f.val)
    (hb : s.fieldHeld (some (mb, k)) f.val = false) (hst : ∀ h : Fin 4, s.fields[h].st = .inService)
    (hn : ∀ F ∈ s.furrows, ¬ F.on f) : ∃ t, exec (.fieldDrain mb k) s = .next t ∧ t.fields[f].st = .out ∧ t.fields[f].queueTab = [] ∧
      t.mailboxes[mb].records = s.mailboxes[mb].records ++ [cplOf c.tag 0 k c.opcode [nw c.num] none] ∧ t.furrows = s.furrows ∧
      ((∀ h : Fin 4, ∀ j ∈ s.fields[h].ports.jobs, j.bridge = none) → t.plot = s.plot) := by
  have hu : ∀ F ∈ ((s.start mb k).setFieldSt f .draining).furrows, ¬ F.on f := by rw [State.setFieldSt_furrows]; exact hn
  have starts := ((s.start_starts mb k).setFieldSt f .draining).drained f
  have hp : (((s.start mb k).setFieldSt f .draining).drained f).furrows = s.furrows := by
    rw [State.drained_furrows, State.setFieldSt_furrows]
    rfl
  refine ⟨_, (execFieldDrain_starts h hs ha hb hst (fun F hF hon => (hn F hF hon).elim) (State.drainMoves_empty hn)).trans
    (congrArg Host.Outcome.next (State.drainDone_empty (State.setFieldSt_st ..) hu)), ?_⟩
  obtain ⟨h1, h2⟩ := ((s.start mb k).setFieldSt f .draining).drained_st f
  have h3 := starts.finishOk h (p := fun c => c.drains f) (fun _ _ e => e.drains f) (h.drains ha)
    fun _ _ hd hds hp => State.fieldHeld_drains hb hd hds hp
  rw [State.finishOk_fields, State.finishOk_furrows, State.finishOk_plot]
  refine ⟨h1, h2, h3, hp, fun hj => ?_⟩
  rw [State.drained_plot, State.setFieldSt_plot]
  · rfl
  · intro g j hj'
    rw [State.setFieldSt_ports] at hj'
    exact hj g j hj'

/-- A command that has started stays in execution. -/
theorem Starts.stays {s t : State} {mb : Fin 16} {k : BitVec 16} {op : Nat} {c : ActiveCmd} {rest : List ActiveCmd}
    (h : Starts s t mb k) (hr : Runs s mb k op c rest) : ∃ d ∈ t.mailboxes[mb].active, d.k = k ∧ d.started = true := by
  obtain ⟨a, b, hl, -, -, -⟩ := takeFirst_split hr.first
  obtain ⟨w, hw, hd⟩ := h.active mb
  refine ⟨w c, ?_, (hd c).1.k.trans hr.index, (hd c).2.mpr (Or.inr (by rw [hr.index]))⟩
  rw [hw, hl]
  exact List.mem_map.mpr ⟨c, by simp, rfl⟩

/-- A drain of a Field with furrows begins their moves and stays in execution. -/
theorem drains_occupied {s u : State} {mb : Fin 16} {k : BitVec 16} {c : ActiveCmd} {rest : List ActiveCmd} {f : Fin 4}
    (h : Runs s mb k 0x0804 c rest) (hs : c.started = false) (ha : c.args[(0 : Fin 10)].toNat = f.val)
    (hb : s.fieldHeld (some (mb, k)) f.val = false) (hst : ∀ h : Fin 4, s.fields[h].st = .inService)
    (hu : s.drainMoves f = some u) (ho : ∃ F ∈ s.furrows, F.on f) (hr : ∀ F ∈ s.furrows, F.on f → s.hasRefuge F f = true) :
    ∃ t, exec (.fieldDrain mb k) s = .next t ∧ t.fields[f].st = .draining ∧ t.sower.migs = u.sower.migs ∧
      (∃ d ∈ t.mailboxes[mb].active, d.k = k ∧ d.started = true) ∧ t.furrows = s.furrows ∧ t.plot = s.plot := by
  have hrest := State.drainMoves_rest hu
  have hf : ((u.start mb k).setFieldSt f .draining).furrows = s.furrows := by
    rw [State.setFieldSt_furrows, hrest]
    rfl
  have starts : Starts s (u.start mb k) mb k := by rw [hrest]; exact (s.start_starts mb k).of_mailboxes rfl
  refine ⟨_, (execFieldDrain_starts h hs ha hb hst hr hu).trans
    (congrArg Host.Outcome.next (State.drainDone_busy (Or.inr (by rw [hf]; exact ho)))), State.setFieldSt_st .., ?_,
    (starts.setFieldSt f .draining).stays h, hf, ?_⟩
  · rw [State.setFieldSt_sower]
    rfl
  · rw [State.setFieldSt_plot, hrest]
    rfl

end Sys2Proof.Machine
end

section
/-! PROOFS. FIELD_POWER (R64, R476). -/

namespace Sys2Proof.Machine

/-- Two rewritings of a command that keep its index are one. -/
theorem State.updCmd_updCmd (s : State) (mb : Fin 16) (k : BitVec 16) {w : ActiveCmd → ActiveCmd} (hw : ∀ c, (w c).k = c.k)
    (w' : ActiveCmd → ActiveCmd) : (s.updCmd mb k w).updCmd mb k w' = s.updCmd mb k fun c => w' (w c) := by
  have e (l : List ActiveCmd) : updWhere (fun c => c.k == k) w' (updWhere (fun c => c.k == k) w l) =
      updWhere (fun c => c.k == k) (fun c => w' (w c)) l := by
    rw [updWhere_eq_map, updWhere_eq_map, updWhere_eq_map, List.map_map]
    refine List.map_congr_left fun c _ => ?_
    by_cases hc : c.k = k
    · simp [hc, hw]
    · simp [hc]
  simp only [State.updCmd, State.updMailbox, vupd_vupd, e]

/-- A FIELD_POWER off as it starts, with the pads' former state kept for a timeout. -/
def State.poweringOff (s : State) (mb : Fin 16) (k : BitVec 16) (f : Fin 4) (keep : Bool) : State :=
  (s.updCmd mb k fun c => { s.startedCmd c with num := if s.fields[f].padHold then 1 else 0 }).updField f fun F =>
    { F with padHold := true, retain := keep, pwrReq := false }

theorem State.powerOff_out {s : State} {mb : Fin 16} {k : BitVec 16} {f : Fin 4} (hb : s.fieldHeld (some (mb, k)) f.val = false)
    (hf : f ≠ 0) (hst : s.fields[f].st = .out) (keep : Bool) :
    s.powerOff mb k f keep = if keep then s.poweringOff mb k f keep else (s.poweringOff mb k f keep).losePlot f := by
  have e : ¬ (s.fields[f].st ≠ .out ∨ f = 0) := fun h => h.elim (fun h => h hst) hf
  rw [State.powerOff, hb, if_neg Bool.false_ne_true, if_neg e]
  dsimp only
  rw [State.start_eq, State.updCmd_updCmd s mb k (w := s.startedCmd) fun _ => rfl]
  rfl

theorem State.powerOn_off {s : State} {mb : Fin 16} {k : BitVec 16} {f : Fin 4} (hb : s.fieldHeld (some (mb, k)) f.val = false)
    (hst : s.fields[f].st = .off) : s.powerOn mb k f = (s.start mb k).updField f fun F => { F with pwrReq := true } := by
  rw [State.powerOn, hb, if_neg Bool.false_ne_true, if_neg fun h => h hst]

/-- The Field of a FIELD_POWER whose supply has not answered in time is asked for as before (R476). -/
def Field.powerBack (c : ActiveCmd) (F : Field) : Field :=
  if F.st = .off then { F with pwrReq := false } else { F with pwrReq := true, padHold := decide (c.num = 1) }

theorem Field.powerBack_st (c : ActiveCmd) (F : Field) :
    (F.powerBack c).st = F.st ∧ (F.powerBack c).pwrReq = decide (F.st ≠ .off) := by
  unfold Field.powerBack
  split <;> rename_i h <;> simp [h]

section

variable {s : State} {mb : Fin 16} {k : BitVec 16} {c : ActiveCmd} {rest : List ActiveCmd} {f : Fin 4}

theorem execFieldPowerTimeout_runs (h : Runs s mb k 0x0805 c rest) (hf : c.args[(0 : Fin 10)].toNat = f.val) (hs : c.started = true)
    (ht : 10000000 ≤ s.since c.since) :
    exec (.fieldPowerTimeout mb k) s = .next ((s.updField f (Field.powerBack c)).finish mb k eHw []) := by
  have h0 : c.args[0].toNat = f.val := hf
  have hn : ¬ s.since c.since < powerNs := Nat.not_lt.mpr ht
  show execFieldPowerTimeout mb k s = _
  simp only [execFieldPowerTimeout, h.cmd, h0, toFin?_val, hs, hn]
  rfl

/-- Off without retention: the contents of Plot are lost (R23, R476). -/
theorem powers_off (h : Runs s mb k 0x0805 c rest) (hf : c.args[(0 : Fin 10)].toNat = f.val) (hs : c.started = false)
    (hb : s.fieldHeld (some (mb, k)) f.val = false) (ha : c.args[(1 : Fin 10)].toNat = 0) (h0 : f ≠ 0) (hst : s.fields[f].st = .out) :
    ∃ t, exec (.fieldPowerOff mb k) s = .next t ∧ (∃ d ∈ t.mailboxes[mb].active, d.k = k ∧ d.started = true) ∧
      (t.engines = s.engines ∧ ∀ h : Fin 4, h ≠ f → t.fields[h] = s.fields[h]) ∧
      t.fields[f].st = .out ∧ t.fields[f].padHold = true ∧ t.fields[f].retain = false ∧ t.fields[f].pwrReq = false := by
  obtain ⟨p, hp⟩ := (s.poweringOff mb k f false).losePlot_eq f
  have e : s.powerOff mb k f false = _ := (State.powerOff_out hb h0 hst false).trans hp
  refine ⟨_, congrArg Host.Outcome.next ((State.onPower_runs h (by decide) ha hs hf _).trans e),
    ⟨_, h.stays_updCmd rfl _, h.index, rfl⟩, ⟨rfl, ?_⟩, ?_⟩
  · intro g hg
    have hg' : f ≠ g := fun e => hg e.symm
    rw [vupd_other _ _ _ _ hg', State.poweringOff, State.updField_fields, vupd_other _ _ _ _ hg']
    rfl
  · rw [vupd_same, State.poweringOff, State.updField_fields, vupd_same]
    exact ⟨hst, rfl, rfl, rfl⟩

theorem powers_off_retained (h : Runs s mb k 0x0805 c rest) (hf : c.args[(0 : Fin 10)].toNat = f.val) (hs : c.started = false)
    (hb : s.fieldHeld (some (mb, k)) f.val = false) (ha : c.args[(1 : Fin 10)].toNat = 1) (h0 : f ≠ 0) (hst : s.fields[f].st = .out) :
    ∃ t, exec (.fieldPowerOffRetained mb k) s = .next t ∧ (∃ d ∈ t.mailboxes[mb].active, d.k = k ∧ d.started = true) ∧
      (t.engines = s.engines ∧ ∀ h : Fin 4, h ≠ f → t.fields[h] = s.fields[h]) ∧
      t.fields[f] = { s.fields[f] with padHold := true, retain := true, pwrReq := false } ∧ t.plot = s.plot :=
  ⟨_, congrArg Host.Outcome.next ((State.onPower_runs h (by decide) ha hs hf _).trans (State.powerOff_out hb h0 hst true)),
    ⟨_, h.stays_updCmd rfl _, h.index, rfl⟩, ⟨rfl, fun g hg => vupd_other _ _ _ _ fun e => hg e.symm⟩, vupd_same _ _ _, rfl⟩

theorem powers_on (h : Runs s mb k 0x0805 c rest) (hf : c.args[(0 : Fin 10)].toNat = f.val) (hs : c.started = false)
    (hb : s.fieldHeld (some (mb, k)) f.val = false) (ha : c.args[(1 : Fin 10)].toNat = 2) (hst : s.fields[f].st = .off) :
    ∃ t, exec (.fieldPowerOn mb k) s = .next t ∧ (∃ d ∈ t.mailboxes[mb].active, d.k = k ∧ d.started = true) ∧
      (t.engines = s.engines ∧ ∀ h : Fin 4, h ≠ f → t.fields[h] = s.fields[h]) ∧
      t.fields[f] = { s.fields[f] with pwrReq := true } ∧ t.plot = s.plot :=
  ⟨_, congrArg Host.Outcome.next ((State.onPower_runs h (by decide) ha hs hf _).trans (State.powerOn_off hb hst)),
    ⟨_, h.stays_updCmd rfl _, h.index, rfl⟩, ⟨rfl, fun g hg => vupd_other _ _ _ _ fun e => hg e.symm⟩, vupd_same _ _ _, rfl⟩

/-- A supply that does not answer for 10 ms: E_HW, and the request as the Field's state has it. -/
theorem powers_timeout (h : Runs s mb k 0x0805 c rest) (hf : c.args[(0 : Fin 10)].toNat = f.val) (hs : c.started = true)
    (ht : 10000000 ≤ s.since c.since) :
    ∃ t, exec (.fieldPowerTimeout mb k) s = .next t ∧ (t.engines = s.engines ∧ ∀ h : Fin 4, h ≠ f → t.fields[h] = s.fields[h]) ∧
      Ends s t mb c rest 0x17 [] none ∧ t.fields[f].st = s.fields[f].st ∧
      t.fields[f].pwrReq = decide (s.fields[f].st ≠ .off) ∧ t.plot = s.plot := by
  refine ⟨_, execFieldPowerTimeout_runs h hf hs ht, ⟨rfl, fun g hg => vupd_other _ _ _ _ fun e => hg e.symm⟩,
    h.ends (u := s.updField f _) rfl eHw [], ?_⟩
  obtain ⟨h1, h2⟩ := s.fields[f].powerBack_st c
  refine ⟨?_, ?_, rfl⟩
  · rw [State.finish_rest, State.updField_fields, vupd_same]; exact h1
  · rw [State.finish_rest, State.updField_fields, vupd_same]; exact h2

end

end Sys2Proof.Machine
end

section
/-! PROOFS. HARROW_RUN and BANK_REPAIR on a FREE bank (R261-R263, R267, R268). -/

namespace Sys2Proof.Machine

/-- The end of a command leaves what a read of Plot gives. -/
theorem State.finish_plotByte (s : State) (mb : Fin 16) (k : BitVec 16) (st : Nat) (r : List Word) (f : Fin 4) (a : Nat) :
    (s.finish mb k st r).plotByte f a = s.plotByte f a := rfl

section

variable {s : State} {mb : Fin 16} {k : BitVec 16} {op : Nat} {c : ActiveCmd} {rest : List ActiveCmd} {f : Fin 4} {b : Fin 32}

/-- A command on a bank that starts: the Field and the bank are those it names, and no other command holds them. -/
structure BankCmd (s : State) (mb : Fin 16) (k : BitVec 16) (op : Nat) (c : ActiveCmd) (rest : List ActiveCmd) (f : Fin 4)
    (b : Fin 32) : Prop where
  runs : Runs s mb k op c rest
  fresh : c.started = false
  field : c.args[(0 : Fin 10)].toNat = f.val
  bank : c.args[(1 : Fin 10)].toNat = b.val
  bankFree : s.bankHeld (some (mb, k)) f.val b.val = false
  fieldFree : s.fieldHeld (some (mb, k)) f.val = false
  here : ¬ (s.fields[f].st = .off ∨ s.fields[f].st = .resetting)

theorem BankCmd.onBank (h : BankCmd s mb k op c rest f b) (w : Fin 4 → Fin 32 → State) : s.onBank mb k c w = w f b :=
  State.onBank_runs h.field h.bank h.fresh h.bankFree h.fieldFree h.here w

theorem BankCmd.runs_preserving (h : BankCmd s mb k 0x0602 c rest f b) (ha : c.args[(2 : Fin 10)].toNat = 1 ∨ c.args[(2 : Fin 10)].toNat = 2)
    (h1 : s.fields[f].banks[b].st ≠ .harrow) (h2 : s.fields[f].banks[b].st ≠ .retired) :
    exec (.harrowRunPreserving mb k) s = .next (s.start mb k) := by
  have hp : preserving c.args[2].toNat = true ∧ destructive c.args[2].toNat = false := by
    rcases ha with (ha : c.args[2].toNat = _) | (ha : c.args[2].toNat = _) <;> rw [ha] <;> decide
  show execHarrowRunPreserving mb k s = _
  have hb : ¬ (s.fields[f].banks[b].st = .harrow ∨ s.fields[f].banks[b].st = .retired) := fun e => e.elim h1 h2
  simp only [execHarrowRunPreserving, h.runs.cmd, hp, h.fresh, h.onBank, if_neg hb]
  rfl

theorem BankCmd.runs_destructive (h : BankCmd s mb k 0x0602 c rest f b)
    (ha : c.args[(2 : Fin 10)].toNat = 0x10 ∨ c.args[(2 : Fin 10)].toNat = 0x11) (hst : s.fields[f].banks[b].st = .free)
    (hc : s.sup.firstCommit = true) (l : List Nat) (again : Bool) :
    exec (.harrowRunDestructive mb k l again) s =
      .next ((s.destructiveTest f b l again).1.finish mb k eOk [if l.isEmpty then 0 else 1, firstFailing l]) := by
  have hp : preserving c.args[2].toNat = false ∧ destructive c.args[2].toNat = true := by
    rcases ha with (ha : c.args[2].toNat = _) | (ha : c.args[2].toNat = _) <;> rw [ha] <;> decide
  show execHarrowRunDestructive mb k l again s = _
  simp only [execHarrowRunDestructive, h.runs.cmd, hp, hc, h.onBank, State.vacated_free hst]
  simp

/-- A test without a failing row: the bank is FREE and reads as zeros. -/
theorem BankCmd.passes (h : BankCmd s mb k 0x0602 c rest f b)
    (ha : c.args[(2 : Fin 10)].toNat = 0x10 ∨ c.args[(2 : Fin 10)].toNat = 0x11) (hst : s.fields[f].banks[b].st = .free)
    (hc : s.sup.firstCommit = true) (again : Bool) :
    ∃ t, exec (.harrowRunDestructive mb k [] again) s = .next t ∧ Ends s t mb c rest 0 [0, 0xFFFFFFFF] none ∧
      t.fields[f].banks[b].st = .free ∧ ∀ a, bankOf a = b → t.plotByte f a = 0 := by
  refine ⟨_, (h.runs_destructive ha hst hc [] again).trans (by rw [State.destructiveTest_pass]; rfl),
    h.runs.ends (s.passBank_work f b).mailboxes eOk _, (s.passBank_free f b).1, fun a hab => ?_⟩
  subst hab
  rw [State.finish_plotByte, State.passBank_zero]

/-- A test that fails after the repair, too: the bank is retired. -/
theorem BankCmd.fails (h : BankCmd s mb k 0x0602 c rest f b)
    (ha : c.args[(2 : Fin 10)].toNat = 0x10 ∨ c.args[(2 : Fin 10)].toNat = 0x11) (hst : s.fields[f].banks[b].st = .free)
    (hc : s.sup.firstCommit = true) {l : List Nat} (hl : l ≠ []) :
    ∃ t, exec (.harrowRunDestructive mb k l true) s = .next t ∧ Ends s t mb c rest 0 [1, firstFailing l] none ∧
      t.fields[f].banks[b].st = .retired ∧ bankKey f b ∈ t.seed.retiredBanks := by
  obtain ⟨u, hu, e⟩ := s.destructiveTest_fail f b hl
  have he : l.isEmpty = false := by simpa using hl
  refine ⟨_, (h.runs_destructive ha hst hc l true).trans (by rw [e, he]; rfl),
    h.runs.ends (hu.trans (u.retireBank_work f b)).mailboxes eOk _, u.retireBank_retired f b⟩

theorem BankCmd.retires (h : BankCmd s mb k 0x0807 c rest f b) (ha : c.args[(2 : Fin 10)].toNat = 0)
    (hst : s.fields[f].banks[b].st = .free) :
    ∃ t, exec (.bankRepairRetire mb k) s = .next t ∧ Ends s t mb c rest 0 [] none ∧ t.fields[f].banks[b].st = .retired ∧
      bankKey f b ∈ t.seed.retiredBanks ∧ t.plot = s.plot ∧ t.engines = s.engines := by
  have e : exec (.bankRepairRetire mb k) s = .next ((s.retireBank f b).finish mb k eOk []) := by
    have ha : c.args[2].toNat = 0 := ha
    show execBankRepairRetire mb k s = _
    simp only [execBankRepairRetire, h.runs.cmd, ha, h.onBank, State.vacated_free hst]
    rfl
  obtain ⟨h1, h2⟩ := s.retireBank_retired f b
  exact ⟨_, e, h.runs.ends (s.retireBank_work f b).mailboxes eOk [], h1, h2, rfl, rfl⟩

theorem BankCmd.repairs (h : BankCmd s mb k 0x0807 c rest f b) (ha : c.args[(2 : Fin 10)].toNat = 1)
    (hst : s.fields[f].banks[b].st = .free) (hc : s.sup.firstCommit = true)
    (hn : (s.flaggedRows f b).length ≤ s.fields[f].banks[b].freeSpares.length) (again : Bool) :
    ∃ t, exec (.bankRepairRemap mb k [] again) s = .next t ∧ Ends s t mb c rest 0 [] none ∧ t.fields[f].banks[b].st = .free ∧
      bankKey f b ∉ t.seed.retiredBanks ∧ t.engines = s.engines := by
  obtain ⟨u, hu, e⟩ := s.repairBank_pass f b again hn
  have hx : exec (.bankRepairRemap mb k [] again) s = .next ((u.passBank f b).finish mb k eOk []) := by
    have ha : c.args[2].toNat = 1 := ha
    show execBankRepairRemap mb k [] again s = _
    simp only [execBankRepairRemap, h.runs.cmd, ha, h.onBank, State.vacated_free hst, hst, hc, e]
    rfl
  have hw := hu.trans (u.passBank_work f b)
  obtain ⟨h1, h2⟩ := u.passBank_free f b
  exact ⟨_, hx, h.runs.ends hw.mailboxes eOk [], h1, h2, hw.engines⟩

end

end Sys2Proof.Machine
end

section
/-! PROOFS. ENGINE_TEST and ENGINE_RETIRE of an engine without furrows; the service commands together (R92, R100, R253, R402). -/

namespace Sys2Proof.Machine

theorem State.updEngine_mine (s : State) (g : Fin 96) (h : Engine → Engine) : (s.updEngine g h).engines[g] = h s.engines[g] :=
  vupd_same _ _ _

theorem State.updEngine_other (s : State) {g x : Fin 96} (h : Engine → Engine) (hx : x ≠ g) : (s.updEngine g h).engines[x] = s.engines[x] :=
  vupd_other _ _ _ _ fun e => hx e.symm

theorem State.updSeed_retiredEngines (s : State) (h : Seed → Seed) : (s.updSeed h).seed.retiredEngines = (h s.seed).retiredEngines := by
  rw [State.updSeed_seed]
  split
  · rename_i e
    rw [e]
  · rfl

/-! ENGINE_TEST (R100, R402) -/

/-- The reset of an engine without furrows, in a Field in service, touches the engine and the records alone. -/
theorem State.engineReset_empty {s : State} {g : Fin 96} (hr : s.residents g = []) (hst : s.fields[fieldOf g].st = .inService)
    (cause : BitVec 4) : ∃ h : Engine → Engine, (s.reset? = none → h = Engine.restart) ∧
      s.engineReset g cause = (s.log 0 4 (some (fieldOf g)) g.val (cause.setWidth 32) 0).updEngine g h := by
  let u := s.log 0 4 (some (fieldOf g)) g.val (cause.setWidth 32) 0
  have hu : u.residents g = [] := by rw [State.residents, State.log_furrows]; exact hr
  have hf : u.fields[fieldOf g].st = .inService := by rw [State.log_fields]; exact hst
  have ht : u.reset? = s.reset? := State.log_reset ..
  rcases hq : s.reset? with _ | r
  case some =>
    have e : u.reset?.isSome ∨ u.fields[fieldOf g].st = .resetting ∨ u.fields[fieldOf g].st = .off := Or.inl (by rw [ht, hq]; rfl)
    refine ⟨fun E => E, nofun, (if_pos e).trans ?_⟩
    show u = { u with engines := vupd u.engines g fun E => E }
    rw [vupd_id]
  case none =>
    have e : ¬ (u.reset?.isSome ∨ u.fields[fieldOf g].st = .resetting ∨ u.fields[fieldOf g].st = .off) := by
      rw [ht, hq, hf]
      simp
    refine ⟨Engine.restart, fun _ => rfl, (if_neg e).trans ?_⟩
    show (u.loseAll g 1).updEngine g Engine.restart = _
    rw [State.loseAll, hu]
    rfl

/-- A test that passes takes its engine out of the retirement map. -/
def State.tested (s : State) (g : Fin 96) (pass : Bool) : State :=
  if pass then s.updSeed fun d => { d with retiredEngines := d.retiredEngines.filter (· ≠ g) } else s

theorem State.tested_rest (s : State) (g : Fin 96) (pass : Bool) : s.tested g pass = { s with seed := (s.tested g pass).seed } := by
  unfold State.tested
  split <;> rfl

theorem State.tested_pass (s : State) (g : Fin 96) : g ∉ (s.tested g true).seed.retiredEngines := by
  rw [State.tested, if_pos rfl, State.updSeed_retiredEngines]
  simp

theorem State.tested_fail (s : State) (g : Fin 96) : s.tested g false = s := rfl

section

variable {s : State} {mb : Fin 16} {k : BitVec 16} {op : Nat} {c : ActiveCmd} {rest : List ActiveCmd} {g : Fin 96}

/-- A command on an engine that starts: the engine is the one it names, without furrows, in a Field in service, and no other command
holds it. -/
structure EngineCmd (s : State) (mb : Fin 16) (k : BitVec 16) (op : Nat) (c : ActiveCmd) (rest : List ActiveCmd) (g : Fin 96) : Prop where
  runs : Runs s mb k op c rest
  engine : c.args[(0 : Fin 10)].toNat = g.val
  engineFree : s.engineHeld (some (mb, k)) g.val = false
  fieldFree : s.fieldHeld (some (mb, k)) (fieldOf g).val = false
  here : s.fields[fieldOf g].st = .inService
  empty : s.residents g = []

theorem execEngineTest_runs (h : EngineCmd s mb k 0x0603 c rest g) (ht : s.isTarget g = false) (w : Word) (pass : Bool) :
    exec (.engineTest mb k w pass) s = .next
      ((((s.engineReset g 0xE).tested g pass).updEngine g fun E =>
        { E with st := if g ∈ ((s.engineReset g 0xE).tested g pass).seed.retiredEngines then .retired else E.st }).finish mb k eOk [w]) := by
  have h0 : c.args[0].toNat = g.val := h.engine
  have h1 : ¬ (s.engineHeld (some (mb, k)) g.val = true ∨ s.fieldHeld (some (mb, k)) (fieldOf g).val = true) := by
    rw [h.engineFree, h.fieldFree]
    simp
  have h2 : ¬ ((!(s.residents g).isEmpty) = true ∨ s.isTarget g = true ∨ s.fields[fieldOf g].st = .off ∨
      s.fields[fieldOf g].st = .resetting) := by
    rw [h.empty, ht, h.here]
    simp
  show execEngineTest mb k w pass s = _
  simp only [execEngineTest, h.runs.cmd, h0, toFin?_val, if_neg h1, if_neg h2]
  rfl

theorem EngineCmd.tests (h : EngineCmd s mb k 0x0603 c rest g) (ht : s.isTarget g = false) (w : Word) (pass : Bool) :
    ∃ t, exec (.engineTest mb k w pass) s = .next t ∧ Ends s t mb c rest 0 [w] none ∧ t.plot = s.plot ∧
      (∀ h : Fin 96, h ≠ g → t.engines[h] = s.engines[h]) ∧
      (pass = true → g ∉ t.seed.retiredEngines ∧ (s.reset? = none → t.engines[g].st = .doze)) ∧
      (pass = false → t.seed.retiredEngines = s.seed.retiredEngines) := by
  obtain ⟨r, hr, e⟩ := State.engineReset_empty h.empty h.here 0xE
  have hu := (s.engineReset g 0xE).tested_rest g pass
  generalize hv : (s.engineReset g 0xE).tested g pass = v at hu
  refine ⟨_, execEngineTest_runs h ht w pass, ?_⟩
  rw [hv]
  have hm : v.mailboxes = s.mailboxes := by rw [hu, e, State.updEngine_mailboxes, State.log_mailboxes]
  have he : v.engines = vupd s.engines g r := by rw [hu, e, ← State.log_engines s 0 4 (some (fieldOf g)) g.val _ 0]; rfl
  refine ⟨h.runs.ends (u := v.updEngine g _) hm eOk [w], ?_, fun x hx => ?_, fun hp => ?_, fun hp => ?_⟩
  · show v.plot = s.plot
    rw [hu, e, State.updEngine_plot, State.log_plot]
  · show (v.updEngine g _).engines[x] = _
    rw [State.updEngine_other _ _ hx, he, vupd_other _ _ _ _ fun e => hx e.symm]
  · subst hp
    have hg : g ∉ v.seed.retiredEngines := by rw [← hv]; exact State.tested_pass _ g
    refine ⟨hg, fun hn => ?_⟩
    show (v.updEngine g _).engines[g].st = _
    rw [State.updEngine_mine, if_neg hg, he, vupd_same, hr hn]
    rfl
  · subst hp
    show v.seed.retiredEngines = _
    rw [← hv, State.tested_fail, e, State.updEngine_seed, State.log_seed]

end

/-! A spare in place of an engine (R92) -/

/-- t differs from s by a spare that has taken an engine's place: engines wake and write trace packets, the Sower takes note. -/
structure Spared (s t : State) : Prop where
  rest : t = { s with engines := t.engines, sower := t.sower, dbg := t.dbg }
  due : ∀ g : Fin 96, t.engines[g].retireDue = s.engines[g].retireDue
  st : ∀ g : Fin 96, t.engines[g].st = .retired → s.engines[g].st = .retired

namespace Spared

variable {s t u : State}

theorem refl (s : State) : Spared s s := ⟨rfl, fun _ => rfl, fun _ h => h⟩

theorem trans (h : Spared s t) (h' : Spared t u) : Spared s u :=
  ⟨by rw [h'.rest, h.rest], fun g => (h'.due g).trans (h.due g), fun g e => h.st g (h'.st g e)⟩

theorem updSower (h : Spared s t) (w : Sower → Sower) : Spared s (t.updSower w) :=
  h.trans ⟨rfl, fun _ => rfl, fun _ e => e⟩

theorem updEngine (h : Spared s t) (g : Fin 96) (w : Engine → Engine) (hd : ∀ E, (w E).retireDue = E.retireDue)
    (hs : ∀ E, (w E).st = .retired → E.st = .retired) : Spared s (t.updEngine g w) := by
  refine h.trans ⟨rfl, fun x => ?_, fun x e => ?_⟩ <;> by_cases ex : x = g
  · subst ex; rw [State.updEngine_mine, hd]
  · rw [State.updEngine_other _ _ ex]
  · subst ex; rw [State.updEngine_mine] at e; exact hs _ e
  · rw [State.updEngine_other _ _ ex] at e; exact e

theorem of_trace {g : Fin 96} (h : TraceOnly s t g) : Spared s t := by
  refine ⟨by rw [h.rest], fun x => ?_, fun x e => ?_⟩ <;> by_cases ex : x = g
  · subst ex; rw [h.engine]
  · rw [h.engines x ex]
  · subst ex; rw [h.engine] at e; exact e
  · rw [h.engines x ex] at e; exact e

end Spared

theorem State.wake_spared (s : State) (g : Fin 96) : Spared s (s.wake g) := by
  unfold State.wake
  split
  · have h := (Spared.refl s).updEngine g (fun E => { E with st := .awake, lastLoaded := none }) (fun _ => rfl) fun _ e => nomatch e
    unfold State.emitEngine
    dsimp only
    split
    · exact h.trans (.of_trace (emit_traceOnly ..))
    · exact h
  · exact .refl s

theorem State.substitute_spared (s : State) (g : Fin 96) : Spared s (s.substitute g) := by
  unfold State.substitute
  split
  · exact (s.wake_spared _).updSower _
  · exact (Spared.refl s).updSower _

/-- An engine without furrows has none to move: at most a spare takes its place. -/
theorem State.vacateEngine_empty {s : State} {g : Fin 96} (hr : s.residents g = []) : Spared s (s.vacateEngine g) := by
  unfold State.vacateEngine
  extract_lets first u v l
  have hu : Spared s u := (Spared.refl s).updEngine g _ (fun _ => rfl) fun _ e => e
  have hv : Spared s v := by
    unfold v
    split
    · exact hu.trans (u.substitute_spared g)
    · exact hu
  have hl : l = [] := by
    unfold l
    rw [State.residents, hv.rest]
    exact congrArg (sortBy placeLe) hr
  rw [hl]
  exact hv

/-! Banks that become FREE (R253) -/

/-- t differs from s by banks that have become FREE and headland stacks that have been given up. -/
structure Released (s t : State) : Prop where
  rest : t = { s with engines := t.engines, fields := t.fields }
  engine : ∀ g : Fin 96, t.engines[g] = { s.engines[g] with hdlSp := t.engines[g].hdlSp }
  field : ∀ f : Fin 4, t.fields[f] = { s.fields[f] with banks := t.fields[f].banks }

namespace Released

variable {s t u : State}

theorem refl (s : State) : Released s s := ⟨rfl, fun _ => rfl, fun _ => rfl⟩

theorem trans (h : Released s t) (h' : Released t u) : Released s u :=
  ⟨by rw [h'.rest, h.rest], fun g => by rw [h'.engine, h.engine], fun f => by rw [h'.field, h.field]⟩

end Released

theorem State.freeBank_released (s : State) (f : Fin 4) (b : Fin 32) : Released s (s.freeBank f b) := by
  refine ⟨rfl, fun _ => rfl, fun k => ?_⟩
  rw [State.freeBank, State.updBank, State.updField_fields]
  by_cases e : f = k
  · subst e; rw [vupd_same]
  · rw [vupd_other _ _ _ _ e]

theorem State.dropHeadlands_released (s : State) (f : Fin 4) : Released s (s.dropHeadlands f) :=
  foldl_rel .refl .trans _ s fun t g => by
    dsimp only
    split
    · exact .refl t
    · refine ⟨rfl, fun x => ?_, fun _ => rfl⟩
      by_cases e : x = g
      · subst e; rw [State.updEngine_mine]
      · rw [State.updEngine_other _ _ e]

theorem State.releaseEmpty_released (s : State) (f : Fin 4) : Released s (s.releaseEmpty f) :=
  (s.dropHeadlands_released f).trans (foldl_rel .refl .trans _ _ fun t b => by
    split
    · exact t.freeBank_released f b
    · exact .refl t)

/-! ENGINE_RETIRE (R99, R100) -/

/-- An engine with its clock off, in the retirement map. -/
def State.retireMarked (s : State) (g : Fin 96) : State :=
  (s.updEngine g fun E => { E with st := .retired, retireDue := none, retiring := false, cur := none, order := [] }).updSeed fun d =>
    if g ∈ d.retiredEngines then d else { d with retiredEngines := d.retiredEngines ++ [g] }

/-- A retired engine: its empty banks are FREE, and the record is written. -/
def State.retired (s : State) (g : Fin 96) (code : Fin 8) : State :=
  ((s.retireMarked g).releaseEmpty (fieldOf g)).log 2 3 (some (fieldOf g)) g.val (nw code.val) 0

theorem State.retireDone_empty {s : State} {g : Fin 96} {code : Fin 8} (hd : s.engines[g].retireDue = some code)
    (hr : s.residents g = []) (hst : s.engines[g].st ≠ .retired) :
    s.retireDone g = ((s.retired g code).raise 3 (fieldOf g).val).finishOk (fun c => c.retires g) fun c => [nw c.num] := by
  have e : (s.residents g).isEmpty = true ∧ s.engines[g].st ≠ .retired := ⟨by rw [hr]; rfl, hst⟩
  rw [State.retireDone, hd]
  exact if_pos e

theorem State.retired_keeps (s : State) (g : Fin 96) (code : Fin 8) : (s.retired g code).mailboxes = s.mailboxes ∧
    (s.retired g code).plot = s.plot ∧ (s.retired g code).furrows = s.furrows ∧
    ∀ f : Fin 4, (s.retired g code).fields[f].st = s.fields[f].st := by
  have hu := (s.retireMarked g).releaseEmpty_released (fieldOf g)
  rw [State.retired, State.log_mailboxes, State.log_plot, State.log_furrows, State.log_fields]
  refine ⟨by rw [hu.rest]; rfl, by rw [hu.rest]; rfl, by rw [hu.rest]; rfl, fun f => by rw [hu.field]; rfl⟩

theorem State.retired_marks (s : State) (g : Fin 96) (code : Fin 8) :
    (s.retired g code).engines[g].st = .retired ∧ g ∈ (s.retired g code).seed.retiredEngines := by
  have hu := (s.retireMarked g).releaseEmpty_released (fieldOf g)
  rw [State.retired, State.log_engines, State.log_seed]
  constructor
  · rw [hu.engine, State.retireMarked, State.updSeed_engines, State.updEngine_mine]
  · rw [hu.rest]
    dsimp only
    rw [State.retireMarked, State.updSeed_retiredEngines, State.updEngine_seed]
    split
    · assumption
    · simp

section

variable {s : State} {mb : Fin 16} {k : BitVec 16} {op : Nat} {c : ActiveCmd} {rest : List ActiveCmd} {g : Fin 96}

/-- An ENGINE_RETIRE that has started, with what makes the engine retire. -/
def State.retiring (s : State) (mb : Fin 16) (k : BitVec 16) (g : Fin 96) : State :=
  (s.start mb k).updEngine g fun E => { E with retireDue := if E.retireDue.isSome then E.retireDue else some 7 }

theorem execEngineRetire_runs (h : EngineCmd s mb k 0x0806 c rest g) (hs : c.started = false) (hst : s.engines[g].st ≠ .retired) :
    exec (.engineRetire mb k) s = .next ((((s.retiring mb k g).vacateEngine g).retireDone g).drainDone (fieldOf g)) := by
  have h0 : c.args[0].toNat = g.val := h.engine
  have h1 : ¬ (s.engineHeld (some (mb, k)) g.val = true ∨ s.fieldHeld (some (mb, k)) (fieldOf g).val = true) := by
    rw [h.engineFree, h.fieldFree]
    simp
  have h2 : ¬ (s.engines[g].st = .retired ∨ s.fields[fieldOf g].st = .off ∨ s.fields[fieldOf g].st = .resetting) := by
    rw [h.here]
    exact fun e => e.elim hst fun e => e.elim nofun nofun
  show execEngineRetire mb k s = _
  simp only [execEngineRetire, h.runs.cmd, h0, toFin?_val, hs, if_neg h1, if_neg h2]
  rfl

theorem State.retiring_due (s : State) (mb : Fin 16) (k : BitVec 16) (g : Fin 96) :
    ∃ code, (s.retiring mb k g).engines[g].retireDue = some code ∧ (s.retiring mb k g).engines[g].st = s.engines[g].st := by
  rw [State.retiring, State.updEngine_mine]
  show ∃ code, (if s.engines[g].retireDue.isSome then s.engines[g].retireDue else some 7) = some code ∧ _
  cases s.engines[g].retireDue with
  | none => exact ⟨7, rfl, rfl⟩
  | some code => exact ⟨code, rfl, rfl⟩

/-- An engine without furrows is retired at once. -/
theorem EngineCmd.retires (h : EngineCmd s mb k 0x0806 c rest g) (hs : c.started = false) (hst : s.engines[g].st ≠ .retired) :
    ∃ t, exec (.engineRetire mb k) s = .next t ∧
      t.mailboxes[mb].records = s.mailboxes[mb].records ++ [cplOf c.tag 0 k c.opcode [nw c.num] none] ∧ t.engines[g].st = .retired ∧
      g ∈ t.seed.retiredEngines ∧ t.plot = s.plot ∧ t.furrows = s.furrows := by
  have hv := State.vacateEngine_empty (s := s.retiring mb k g) (g := g) h.empty
  generalize hu : (s.retiring mb k g).vacateEngine g = u at hv
  obtain ⟨code, hd, he⟩ := s.retiring_due mb k g
  have hrest : u.mailboxes = (s.start mb k).mailboxes ∧ u.plot = s.plot ∧ u.furrows = s.furrows ∧ u.fields = s.fields := by
    rw [hv.rest]
    exact ⟨rfl, rfl, rfl, rfl⟩
  obtain ⟨hm, hp, hf, hfs⟩ := hrest
  have hr : u.residents g = [] := by rw [State.residents, hf]; exact h.empty
  have done := State.retireDone_empty ((hv.due g).trans hd) hr fun e => hst (he ▸ hv.st g e)
  obtain ⟨k1, k2, k3, k4⟩ := u.retired_keeps g code
  obtain ⟨m1, m2⟩ := u.retired_marks g code
  have starts : Starts s ((u.retired g code).raise 3 (fieldOf g).val) mb k :=
    ((s.start_starts mb k).of_mailboxes (u := u.retired g code) (k1.trans hm)).raise 3 (fieldOf g).val
  have idle : (u.retireDone g).drainDone (fieldOf g) = u.retireDone g := by
    refine State.drainDone_busy (Or.inl ?_)
    rw [done, State.finishOk_fields]
    rw [State.raise_fields, k4, hfs, h.here]
    decide
  refine ⟨_, (execEngineRetire_runs h hs hst).trans (by rw [hu, idle, done]), ?_, ?_, ?_, ?_, ?_⟩
  · exact starts.finishOk h.runs (fun _ _ e => e.retires g) (h.runs.retires h.engine)
      fun _ _ hd hds hp => State.engineHeld_retires h.engineFree hd hds hp
  · rw [State.finishOk_engines, State.raise_engines, m1]
  · rw [State.finishOk_seed, State.raise_seed]; exact m2
  · rw [State.finishOk_plot, State.raise_plot, k2, hp]
  · rw [State.finishOk_furrows, State.raise_furrows, k3, hf]

end

/-- Settles O41: the command that completes with a drain or a retirement is the one that holds the Field or engine (R71). The operands of an engine
test and the stripes of a preserving test are the model's choice (log 22, log 57). -/
theorem serviceCommands : Obligations.ServiceCommands := by
  unfold Obligations.ServiceCommands
  intro s mb k op c rest f b g l again pass w hr
  refine ⟨fun ho hs ha hb hst => ?_, fun ho ha => ⟨fun hs hb => ⟨?_, ?_, ?_⟩, ?_⟩,
    fun hs h0 h1 hb hf hg => ⟨?_, ?_, ?_⟩, fun h0 he hf hst hn => ⟨?_, ?_⟩⟩
  · subst ho
    exact ⟨drains_empty hr hs ha hb hst, fun u hu => drains_occupied hr hs ha hb hst hu⟩
  · subst ho
    exact powers_off hr ha hs hb
  · subst ho
    exact powers_off_retained hr ha hs hb
  · subst ho
    exact powers_on hr ha hs hb
  · subst ho
    exact powers_timeout hr ha
  · intro ho
    subst ho
    exact BankCmd.runs_preserving ⟨hr, hs, h0, h1, hb, hf, hg⟩
  · intro ho ha hfree hc
    subst ho
    have h : BankCmd s mb k 0x0602 c rest f b := ⟨hr, hs, h0, h1, hb, hf, hg⟩
    exact ⟨h.passes ha hfree hc again, h.fails ha hfree hc⟩
  · intro ho hfree
    subst ho
    have h : BankCmd s mb k 0x0807 c rest f b := ⟨hr, hs, h0, h1, hb, hf, hg⟩
    exact ⟨fun ha => h.retires ha hfree, fun ha hc hl => h.repairs ha hfree hc hl again⟩
  · intro ho ht
    subst ho
    exact EngineCmd.tests ⟨hr, h0, he, hf, hst, hn⟩ ht w pass
  · intro ho hs hst'
    subst ho
    exact EngineCmd.retires ⟨hr, h0, he, hf, hst, hn⟩ hs hst'

end Sys2Proof.Machine
end

section
/-! PROOFS. Tally dumps, bandwidth windows, samples, aging and the trace port (R99, R464, R469-R473, R488). -/

namespace Sys2Proof.Machine

/-! Dumps (R471, R472) -/

/-- The snapshots of some groups join the dump, SEQ counting on. -/
theorem foldl_snapshots (l : List Nat) (s : State) :
    l.foldl (fun (s : State) (k : Nat) =>
      (s.dump (s.snapshot k s.dbg.tallySeq)).updDbg fun d => { d with tallySeq := d.tallySeq + 1 }) s =
      s.updDbg fun d => { d with
        dumpOut := d.dumpOut ++ (l.mapIdx fun j k => s.snapshot k (d.tallySeq + nw j)).flatten
        tallySeq := d.tallySeq + nw l.length } := by
  induction l generalizing s with
  | nil => simp [State.updDbg, nw]
  | cons a l ih =>
    have seq (n : Nat) : s.dbg.tallySeq + 1 + nw n = s.dbg.tallySeq + nw (n + 1) := by
      rw [BitVec.add_assoc, nw, nw, BitVec.add_comm 1, BitVec.ofNat_add]
      rfl
    rw [List.foldl_cons, ih]
    simp only [State.dump, State.updDbg, List.mapIdx_cons, List.flatten_cons, List.length_cons, seq, List.append_assoc]
    congr 3
    · simp [nw]
      rfl

theorem foldl_dump (l : List (List Byte)) (s : State) :
    l.foldl (fun (s : State) (x : List Byte) => s.dump x) s = s.dump l.flatten := by
  induction l generalizing s with
  | nil => simp [State.dump, State.updDbg]
  | cons a l ih =>
    rw [List.foldl_cons, ih]
    simp [State.dump, State.updDbg]

/-- A transaction that is issued changes its port alone. -/
theorem State.issueTxn_ports {s t : State} {f : Fin 4} {ids : List Nat} {write : Bool} {addr : DWord} {len : Nat} {l : List Byte}
    {owner : TxnOwner} {i : BitVec 10} (h : s.issueTxn f ids write addr len l owner = some (i, t)) : ∃ P, t = s.updPorts f P := by
  unfold State.issueTxn at h
  extract_lets P at h
  split at h
  · cases h
  · split at h
    · cases h
    · exact ⟨_, (Prod.mk.inj (Option.some.inj h)).2.symm⟩

/-- What leaves for the dump ring changes ports, the bytes that wait and the place in the ring. -/
theorem State.pumpDump_rest (s : State) (n : Nat) : s.pumpDump n =
    { s with
      fields := (s.pumpDump n).fields
      dbg := { s.dbg with tallyPos := (s.pumpDump n).dbg.tallyPos, dumpOut := (s.pumpDump n).dbg.dumpOut } } := by
  induction n generalizing s with
  | zero => rfl
  | succ n ih =>
    unfold State.pumpDump
    extract_lets l len addr k
    split
    · rfl
    · split
      · rfl
      · rename_i t ht
        obtain ⟨P, rfl⟩ := State.issueTxn_ports ht
        rw [ih]
        rfl

/-- Without the fabric's clock nothing leaves for the dump ring. -/
theorem State.pumpDump_stopped {s : State} (h : s.fabRuns = false) (n : Nat) : s.pumpDump n = s := by
  have hs : s.supServes = false := by simp [State.supServes, h]
  cases n with
  | zero => rfl
  | succ n =>
    unfold State.pumpDump
    rw [if_pos (by simp [hs])]

/-- What a dump takes before it leaves: the snapshots, where there is a PERIOD, and the samples. -/
def State.dumpTaken (s : State) : State :=
  let gs := tallyGroups s.dbg.tallyCfg
  s.updDbg fun d => { d with
    samples := []
    tallySeq := if tallyPeriod s.dbg.tallyCfg = 0 then d.tallySeq else d.tallySeq + nw gs.length
    dumpOut := (if tallyPeriod s.dbg.tallyCfg = 0 then d.dumpOut
      else d.dumpOut ++ (gs.mapIdx fun j k => s.snapshot k (d.tallySeq + nw j)).flatten) ++ d.samples.flatten }

theorem execTallyDump_eq {s : State} (h : s.dbg.tallyCfg ≠ []) : exec .tallyDump s = .next (s.dumpTaken.pumpDump 16) := by
  have hc : s.dbg.tallyCfg.isEmpty = false := by simpa using h
  show execTallyDump s = _
  unfold execTallyDump
  rw [if_neg (by simp [hc])]
  dsimp only
  rw [foldl_dump, foldl_snapshots]
  by_cases hp : tallyPeriod s.dbg.tallyCfg = 0 <;> simp only [hp, if_true, if_false, State.dumpTaken] <;> rfl

/-! Windows and samples (R472, R473) -/

theorem execBandwidthWindow_over {s : State} {f : Fin 4} {p : Fin 6} (hf : s.fields[f].freezeWin = false)
    (hw : s.windowOver f p = true) : exec (.bandwidthWindow f p) s = .next (s.updPorts f fun P => { P with
      lastWindow := P.lastWindow.set p ((s.portTotals f)[p] - P.winBase[p]).toNat
      peakWindow := P.peakWindow.set p (max P.peakWindow[p] ((s.portTotals f)[p] - P.winBase[p]).toNat)
      winBase := P.winBase.set p (s.portTotals f)[p], winAt := P.winAt.set p s.now }) := by
  show execBandwidthWindow f p s = _
  unfold execBandwidthWindow
  rw [if_neg (by rw [hf, hw]; simp)]

theorem execBandwidthWindow_standing {s : State} {f : Fin 4} {p : Fin 6} (hw : s.windowOver f p = false) :
    exec (.bandwidthWindow f p) s = .next s := by
  show execBandwidthWindow f p s = _
  unfold execBandwidthWindow
  rw [if_pos (by simp [hw])]

/-- A counter of the block counts, frozen by no Field (R463). -/
theorem State.tallyGet_count {s : State} {group : Nat} (hg : tallyPerField group = 0) (hs : mapSorted s.tally) (i n : Nat) :
    (s.count group i n).tallyGet group i = s.tallyGet group i + BitVec.ofNat 48 n := by
  have hfz : s.tallyFrozen group i = false := by
    unfold State.tallyFrozen
    split
    · simp [hg]
    · rfl
  unfold State.count
  rw [hfz, if_neg Bool.false_ne_true]
  show mapGet 0 _ (mapSet 0 _ _ s.tally) = _
  unfold mapGet mapSet
  rw [mapFind_put_same _ _ _ hs]
  split
  · rename_i h; rw [h]; rfl
  · rfl

theorem execTallySample_kept {s : State} {g : Fin 96} {pc : Word} {n : Nat} (hc : s.dbg.tallyCfg ≠ [])
    (he : tallyEvent s.dbg.tallyCfg ≠ 0) (hf : (tallyFields s.dbg.tallyCfg).getLsbD (fieldOf g).val = true)
    (hl : s.dbg.samples.length < 64) : ∃ u, TraceOnly s u g ∧ exec (.tallySample g pc n) s =
      .next ((u.updDbg fun d => { d with
        samples := d.samples ++ [sampleRecord g (tallyEvent s.dbg.tallyCfg) (s.onEngine g) n pc u.now] }).count 7 2 1) := by
  have hc' : s.dbg.tallyCfg.isEmpty = false := by simpa using hc
  show ∃ u, _ ∧ execTallySample g pc n s = _
  unfold execTallySample
  extract_lets b ev fid c w u
  have hu : TraceOnly s u g := emitFurrow_traceOnly ..
  have hs : u.dbg.samples = s.dbg.samples := by rw [hu.dbg]
  refine ⟨u, hu, ?_⟩
  rw [if_neg (by simp [hc', he, hf, b, ev]), if_neg (by rw [hs]; omega)]

/-! The trace port (R464) -/

/-- The sources of the trace port are the engines and the supervisor. -/
theorem traceSource {i : Nat} (h : i < 97) : (∃ g : Fin 96, i = g.val) ∨ i = 96 := by
  by_cases hi : i < 96
  · exact .inl ⟨⟨i, hi⟩, rfl⟩
  · exact .inr (by omega)

theorem State.traceOf_engine (s : State) (g : Fin 96) : s.traceOf g.val = s.engines[g].trace := by
  rw [State.traceOf, toFin?_val]

/-- An engine rewritten with its buffer kept, and debug state with the supervisor's. -/
theorem State.updEngine_traceOf (s : State) (g : Fin 96) {h : Engine → Engine} (hh : ∀ E, (h E).trace = E.trace) (j : Nat) :
    (s.updEngine g h).traceOf j = s.traceOf j := by
  unfold State.traceOf
  split
  · rename_i k _
    by_cases e : k = g
    · subst e; rw [State.updEngine_mine, hh]
    · rw [State.updEngine_other _ _ e]
  · rfl

theorem State.updDbg_traceOf (s : State) {h : Debug → Debug} (hh : ∀ d, (h d).supTrace = d.supTrace) (j : Nat) :
    (s.updDbg h).traceOf j = s.traceOf j := by
  unfold State.traceOf
  split
  · rfl
  · exact hh s.dbg

/-- Words taken from a buffer are gone from it. -/
theorem State.dropTrace_mine (s : State) (i n : Nat) : (s.dropTrace i n).traceOf i = (s.traceOf i).drop n := by
  unfold State.dropTrace State.traceOf
  cases toFin? 96 i with
  | none => rfl
  | some g => exact congrArg Engine.trace (s.updEngine_mine g _)

/-- Every other buffer keeps its words. -/
theorem State.dropTrace_other (s : State) {i j : Nat} (n : Nat) (hi : i < 97) (hj : j < 97) (h : j ≠ i) :
    (s.dropTrace i n).traceOf j = s.traceOf j := by
  unfold State.dropTrace
  rcases traceSource hi with ⟨g, rfl⟩ | rfl <;> rcases traceSource hj with ⟨k, rfl⟩ | rfl
  · rw [toFin?_val, State.traceOf_engine, State.traceOf_engine]
    exact congrArg Engine.trace (State.updEngine_other _ _ fun e => h (congrArg Fin.val e))
  · rw [toFin?_val]; rfl
  · rw [State.traceOf_engine, State.traceOf_engine]; rfl
  · exact (h rfl).elim

/-- The port's next word is the head of the source's buffer, which leaves it. -/
theorem State.sendTrace_spec (s : State) (i left : Nat) :
    (s.sendTrace i left).dbg.trcOut = (s.traceOf i).head? ∧ (s.sendTrace i left).traceOf i = (s.traceOf i).drop 1 ∧
      (s.sendTrace i left).dbg.trcPkt = left ∧ (s.sendTrace i left).dbg.trcRr = i ∧
      ∀ j, i < 97 → j < 97 → j ≠ i → (s.sendTrace i left).traceOf j = s.traceOf j := by
  refine ⟨rfl, ?_, rfl, rfl, fun j hi hj h => ?_⟩ <;> unfold State.sendTrace
  · exact (State.updDbg_traceOf _ (fun _ => rfl) i).trans (s.dropTrace_mine i 1)
  · exact (State.updDbg_traceOf _ (fun _ => rfl) j).trans (s.dropTrace_other 1 hi hj h)

/-- A packet that is dropped leaves its buffer and counts. -/
theorem State.dropTracePacket_spec (s : State) (i : Nat) :
    (s.dropTracePacket i).traceOf i = (s.traceOf i).drop (packetLen (s.traceOf i)) ∧
      (∀ j, i < 97 → j < 97 → j ≠ i → (s.dropTracePacket i).traceOf j = s.traceOf j) ∧
      (s.dropTracePacket i).dbg.trcRr = i ∧ (s.dropTracePacket i).dbg.trcPkt = s.dbg.trcPkt ∧
      (s.dropTracePacket i).dbg.trcLostPwr = if s.dbg.trcLostPwr = 0xFFFF then s.dbg.trcLostPwr else s.dbg.trcLostPwr + 1 := by
  have buffers (j : Nat) : (s.dropTracePacket i).traceOf j = (s.dropTrace i (packetLen (s.traceOf i))).traceOf j := by
    unfold State.dropTracePacket
    refine (State.updDbg_traceOf _ (fun _ => rfl) j).trans ?_
    split
    · exact State.updEngine_traceOf _ _ (by exact fun _ => rfl) j
    · exact State.updDbg_traceOf _ (by exact fun _ => rfl) j
  refine ⟨(buffers i).trans (s.dropTrace_mine i _), fun j hi hj h => (buffers j).trans (s.dropTrace_other _ hi hj h), rfl, ?_, ?_⟩ <;>
    unfold State.dropTracePacket State.dropTrace <;> dsimp only <;> cases toFin? 96 i <;> rfl

theorem State.nextTrace_lt {s : State} {i : Nat} (h : s.nextTrace = some i) : i < 97 := by
  obtain ⟨k, -, rfl⟩ := List.mem_map.mp (List.mem_of_find?_eq_some h)
  exact Nat.mod_lt _ (by omega)

theorem State.count_traceOf (s : State) (p i n j : Nat) : (s.count p i n).traceOf j = s.traceOf j := by
  rw [count_rest]
  rfl

theorem execTracePortTransfer_goesOn {s : State} (h : s.dbg.trcPkt ≠ 0) :
    exec .tracePortTransfer s = .next (s.sendTrace s.dbg.trcRr (s.dbg.trcPkt - 1)) :=
  congrArg Host.Outcome.next (if_pos h)

theorem execTracePortTransfer_next {s : State} {i : Nat} (h : s.dbg.trcPkt = 0) (hi : s.nextTrace = some i) :
    exec .tracePortTransfer s = .next (if s.pins.trcPwr = true then (s.sendTrace i (packetLen (s.traceOf i) - 1)).countPacket 1
      else s.dropTracePacket i) := by
  show execTracePortTransfer s = _
  unfold execTracePortTransfer
  rw [if_neg (by simp [h]), hi]
  cases s.pins.trcPwr <;> rfl

/-- A new packet's source has its turn, and every other keeps its words. -/
theorem tracePort_next {s : State} {i : Nat} (h : s.dbg.trcPkt = 0) (hi : s.nextTrace = some i) :
    ∃ t, exec .tracePortTransfer s = .next t ∧ t.dbg.trcRr = i ∧ (∀ j, j < 97 → j ≠ i → t.traceOf j = s.traceOf j) ∧
      (s.pins.trcPwr = true → t.dbg.trcOut = (s.traceOf i).head? ∧ t.traceOf i = (s.traceOf i).drop 1 ∧
        t.dbg.trcPkt = packetLen (s.traceOf i) - 1) ∧
      (s.pins.trcPwr = false → t.traceOf i = (s.traceOf i).drop (packetLen (s.traceOf i)) ∧ t.dbg.trcPkt = 0 ∧
        t.dbg.trcLostPwr = if s.dbg.trcLostPwr = 0xFFFF then s.dbg.trcLostPwr else s.dbg.trcLostPwr + 1) := by
  have hlt := State.nextTrace_lt hi
  refine ⟨_, execTracePortTransfer_next h hi, ?_⟩
  cases hp : s.pins.trcPwr with
  | true =>
    obtain ⟨h1, h2, h3, h4, h5⟩ := s.sendTrace_spec i (packetLen (s.traceOf i) - 1)
    rw [if_pos rfl, State.countPacket, State.count_dbg]
    simp only [State.count_traceOf]
    exact ⟨h4, fun j => h5 j hlt, fun _ => ⟨h1, h2, h3⟩, nofun⟩
  | false =>
    obtain ⟨h1, h2, h3, h4, h5⟩ := s.dropTracePacket_spec i
    rw [if_neg Bool.false_ne_true]
    exact ⟨h3, fun j => h2 j hlt, nofun, fun _ => ⟨h1, h4.trans h, h5⟩⟩

/-! Aging (R99, R488) -/

theorem execAgingMeasurement_due {s : State} {g : Fin 96} (ha : s.supAlive = true) (hst : s.engines[g].st = .awake)
    (hd : s.agingDue s.engines[g] = true) (n : Nat) : exec (.agingMeasurement g n) s = .next (s.updEngine g fun E => { E with
      lastSlack := n, slackLow := if n < 2 then E.slackLow + 1 else 0, agedAt := some s.now
      retireDue := if E.retireDue = none ∧ n < 2 ∧ 1 ≤ E.slackLow then some 6 else E.retireDue }) := by
  have low (E : Engine) : (E.retireDue.isNone && decide (2 ≤ if n < 2 then E.slackLow + 1 else 0)) =
      decide (E.retireDue = none ∧ n < 2 ∧ 1 ≤ E.slackLow) := by
    by_cases hn : n < 2 <;> cases E.retireDue <;> simp [hn]
  show execAgingMeasurement g n s = _
  unfold execAgingMeasurement
  extract_lets E lw
  rw [if_neg (by rw [ha, hst, hd]; simp)]
  have e := low s.engines[g]
  simp only [State.updEngine, vupd, E, lw, e, decide_eq_true_eq]

theorem tallyDump_taken {s : State} (h : s.dbg.tallyCfg ≠ []) :
    ∃ t, exec .tallyDump s = .next t ∧ t.dbg.samples = [] ∧ t.tally = s.tally ∧ t.plot = s.plot ∧
      t.dbg.tallySeq = (if tallyPeriod s.dbg.tallyCfg = 0 then s.dbg.tallySeq
        else s.dbg.tallySeq + nw (tallyGroups s.dbg.tallyCfg).length) ∧
      (s.fabRuns = false → tallyPeriod s.dbg.tallyCfg ≠ 0 → t.dbg.dumpOut = s.dbg.dumpOut ++
        ((tallyGroups s.dbg.tallyCfg).mapIdx fun j k => s.snapshot k (s.dbg.tallySeq + nw j)).flatten ++ s.dbg.samples.flatten) := by
  have hrest := s.dumpTaken.pumpDump_rest 16
  refine ⟨_, execTallyDump_eq h, ?_, ?_, ?_, ?_, fun hf hp => ?_⟩
  · rw [hrest]; rfl
  · rw [hrest]; rfl
  · rw [hrest]; rfl
  · rw [hrest]; rfl
  · rw [State.pumpDump_stopped (s := s.dumpTaken) hf]
    simp [State.dumpTaken, State.updDbg, hp]

theorem tallySample_kept {s : State} {g : Fin 96} {pc : Word} {n : Nat} (hc : s.dbg.tallyCfg ≠ [])
    (he : tallyEvent s.dbg.tallyCfg ≠ 0) (hf : (tallyFields s.dbg.tallyCfg).getLsbD (fieldOf g).val = true)
    (hl : s.dbg.samples.length < 64) (hs : mapSorted s.tally) : ∃ t, exec (.tallySample g pc n) s = .next t ∧
      t.dbg.samples = s.dbg.samples ++ [sampleRecord g (tallyEvent s.dbg.tallyCfg) (s.onEngine g) n pc s.now] ∧
      t.tallyGet 7 2 = s.tallyGet 7 2 + 1 ∧ t.furrows = s.furrows ∧ t.plot = s.plot := by
  obtain ⟨u, hu, e⟩ := execTallySample_kept (pc := pc) (n := n) hc he hf hl
  have ht : u.tally = s.tally := by rw [hu.rest]
  have hn : u.now = s.now := by rw [hu.rest]; rfl
  refine ⟨_, e, ?_, ?_, ?_, ?_⟩
  · rw [State.count_dbg, State.updDbg_dbg, hn, hu.dbg]
  · rw [State.tallyGet_count rfl (by rw [State.updDbg_tally, ht]; exact hs)]
    show mapGet 0 _ u.tally + _ = _
    rw [ht]
    rfl
  · rw [State.count_furrows, State.updDbg_furrows, hu.rest]
  · rw [State.count_plot, State.updDbg_plot, hu.rest]

/-- Settles O51: every clause is the rule of its command, shown above. What a bandwidth window counts is the model's choice (log 78). -/
theorem tallyAndTrace : Obligations.TallyAndTrace := by
  unfold Obligations.TallyAndTrace
  intro s f g p pc n i
  refine ⟨tallyDump_taken, fun hf => ⟨fun hw => ?_, fun hw => ?_⟩, tallySample_kept, fun ha hst hd => ?_, fun h => ?_, tracePort_next⟩
  · exact ⟨_, execBandwidthWindow_over hf (decide_eq_true hw), State.updPorts_mine .., fun h hh => vupd_other _ _ _ _ hh.symm, rfl⟩
  · exact execBandwidthWindow_standing (decide_eq_false (Nat.not_lt.mpr hw))
  · exact ⟨_, execAgingMeasurement_due ha hst hd n, State.updEngine_mine .., fun h hh => State.updEngine_other _ _ hh, rfl⟩
  · obtain ⟨h1, h2, h3, h4, -⟩ := s.sendTrace_spec s.dbg.trcRr (s.dbg.trcPkt - 1)
    exact ⟨_, execTracePortTransfer_goesOn h, h1, h2, h3, h4⟩

end Sys2Proof.Machine
end

section
/-! PROOFS. Plot as its readers see it: what a write of a master reads back as, and what findings leave (R117, R247, R258, R259). -/

namespace Sys2Proof.Machine

/-- Every byte of Plot reads in t as in s, and a write leaves the same bytes. -/
structure SameBytes (s t : State) : Prop where
  plot : t.plot = s.plot
  epoch : ∀ (f : Fin 4) (b : Fin 32), t.fields[f].banks[b].epoch = s.fields[f].banks[b].epoch

namespace SameBytes

variable {s t u : State}

theorem refl (s : State) : SameBytes s s := ⟨rfl, fun _ _ => rfl⟩

theorem trans (h : SameBytes s t) (h' : SameBytes t u) : SameBytes s u :=
  ⟨h'.plot.trans h.plot, fun f b => (h'.epoch f b).trans (h.epoch f b)⟩

theorem of_fields (hp : t.plot = s.plot) (hf : t.fields = s.fields) : SameBytes s t := ⟨hp, fun f b => by rw [hf]⟩

theorem plotDefault (h : SameBytes s t) (f : Fin 4) (a : Nat) : t.plotDefault f a = s.plotDefault f a := by
  unfold State.plotDefault
  rw [h.epoch]

theorem plotByte (h : SameBytes s t) (f : Fin 4) (a : Nat) : t.plotByte f a = s.plotByte f a := by
  unfold State.plotByte
  rw [h.plotDefault, h.plot]

theorem plotBytes (h : SameBytes s t) (n : Nat) (f : Fin 4) (a : Nat) : t.plotBytes f a n = s.plotBytes f a n := by
  induction n generalizing a with
  | zero => rfl
  | succ n ih => rw [State.plotBytes, State.plotBytes, ih, h.plotByte]

theorem putBytes (h : SameBytes s t) (l : List Byte) (f : Fin 4) (a : Nat) : SameBytes (s.putBytes f a l) (t.putBytes f a l) := by
  induction l generalizing s t a with
  | nil => exact h
  | cons b l ih =>
    refine ih (s := s.putByte f a b) (t := t.putByte f a b) ⟨?_, h.epoch⟩ (a + 1)
    unfold State.putByte
    rw [h.plot, h.plotDefault]

end SameBytes

theorem SamePlot.bytes {s t : State} (h : SamePlot s t) : SameBytes s t := ⟨h.plot, h.epoch⟩

theorem SamePlot.refl (s : State) : SamePlot s s := .of_fields rfl rfl

theorem State.updFurrow_samePlot (s : State) (id : Nat) (h : Furrow → Furrow) : SamePlot s (s.updFurrow id h) := .of_fields rfl rfl
theorem State.updEngine_samePlot (s : State) (g : Fin 96) (h : Engine → Engine) : SamePlot s (s.updEngine g h) := .of_fields rfl rfl
theorem State.updSower_samePlot (s : State) (h : Sower → Sower) : SamePlot s (s.updSower h) := .of_fields rfl rfl

theorem State.updField_bytes (s : State) (f : Fin 4) (h : Field → Field)
    (hh : ∀ b : Fin 32, (h s.fields[f]).banks[b].epoch = s.fields[f].banks[b].epoch) : SameBytes s (s.updField f h) := by
  refine ⟨rfl, fun g b => ?_⟩
  rw [State.updField_fields]
  by_cases e : f = g
  · subst e; rw [vupd_same]; exact hh b
  · rw [vupd_other _ _ _ _ e]

theorem State.setEcc_bytes (s : State) (f : Fin 4) (a : Nat) (e : Option EccSt) : SameBytes s (s.setEcc f a e) :=
  s.updField_bytes f _ fun _ => rfl

/-! Writes (R247, R258) -/

theorem State.putBytes_append (l r : List Byte) (s : State) (f : Fin 4) (a : Nat) :
    s.putBytes f a (l ++ r) = (s.putBytes f a l).putBytes f (a + l.length) r := by
  induction l generalizing s a with
  | nil => rfl
  | cons b l ih =>
    rw [List.cons_append, State.putBytes, ih, State.putBytes, List.length_cons, Nat.add_right_comm, Nat.add_assoc]

/-- Whatever a write within a word finds there, it leaves its bytes. -/
theorem State.writeWord_bytes (s : State) (f : Fin 4) (a : Nat) (l : List Byte) : SameBytes (s.putBytes f a l) (s.writeWord f a l) := by
  unfold State.writeWord
  split
  · exact SameBytes.putBytes (s.updField_bytes f _ fun _ => rfl) l f a
  · split
    · exact .refl _
    · exact ((s.noteCorr_samePlot f a).bytes.trans (State.setEcc_bytes ..)).putBytes l f a
    · exact ((s.noteUncorr_samePlot f a 2).bytes.trans (State.setEcc_bytes ..)).putBytes l f a

theorem State.writeWords_bytes (n : Nat) (s : State) (f : Fin 4) (a : Nat) (l : List Byte) (hn : a % 16 + l.length ≤ 16 * n) :
    SameBytes (s.putBytes f a l) (s.writeWords f a l n) := by
  induction n generalizing s a l with
  | zero =>
    obtain rfl : l = [] := List.eq_nil_of_length_eq_zero (by omega)
    exact .refl s
  | succ n ih =>
    unfold State.writeWords
    split
    · rename_i h
      rw [List.isEmpty_iff.mp h]
      exact .refl s
    · dsimp only
      have hs : l = l.take (16 - a % 16) ++ l.drop (16 - a % 16) := (List.take_append_drop ..).symm
      have hw := s.writeWord_bytes f a (l.take (16 - a % 16))
      by_cases hl : l.length ≤ 16 - a % 16
      · rw [List.drop_of_length_le hl, List.take_of_length_le hl]
        rw [List.take_of_length_le hl] at hw
        cases n <;> exact hw
      · have hk : (l.take (16 - a % 16)).length = 16 - a % 16 := by rw [List.length_take]; omega
        conv in s.putBytes f a l => rw [hs, State.putBytes_append, hk]
        exact (hw.putBytes _ f _).trans (ih _ _ _ (by rw [List.length_drop]; omega))

/-- A write to Plot leaves its bytes, and every other byte. -/
theorem State.plotWrite_bytes (s : State) (f : Fin 4) (a : Nat) (l : List Byte) : SameBytes (s.putBytes f a l) (s.plotWrite f a l) :=
  s.writeWords_bytes _ f a l (by omega)

theorem State.putBytes_sorted (l : List Byte) (s : State) (f : Fin 4) (a : Nat) (h : mapSorted s.plot) : mapSorted (s.putBytes f a l).plot := by
  induction l generalizing s a with
  | nil => exact h
  | cons b l ih => exact ih _ _ (s.putByte_sorted f a b h)

theorem State.plotWrite_sorted (s : State) (f : Fin 4) (a : Nat) (l : List Byte) (h : mapSorted s.plot) :
    mapSorted (s.plotWrite f a l).plot := by
  rw [(s.plotWrite_bytes f a l).plot]
  exact s.putBytes_sorted l f a h

/-- Bytes written read back, up to as many as Plot holds. -/
theorem State.plotByte_plotWrite_same (s : State) (f : Fin 4) (a : Nat) (l : List Byte) (hs : mapSorted s.plot)
    (hl : l.length ≤ 4194304) (j : Nat) (hj : j < l.length) : (s.plotWrite f a l).plotByte f (a + j) = l.getD j 0 := by
  rw [(s.plotWrite_bytes f a l).plotByte]
  cases l with
  | nil => cases hj
  | cons b l =>
    rw [List.length_cons] at hl hj
    rw [State.putBytes]
    cases j with
    | zero =>
      rw [State.plotByte_putBytes_other _ _ _ _ _ _ fun i hi => ?_]
      · exact State.plotByte_putByte_same _ _ _ _ _ _ hs rfl
      · rw [show a + 1 + i = a + 0 + (i + 1) by omega]
        exact plotKey_add_ne _ _ _ (by omega) (by omega)
    | succ j =>
      rw [show a + (j + 1) = a + 1 + j by omega,
        State.plotByte_putBytes_same _ _ _ _ (s.putByte_sorted f a b hs) (by omega) j (by omega)]
      rfl

theorem State.plotByte_plotWrite_other (s : State) (f h : Fin 4) (a k : Nat) (l : List Byte)
    (hk : ∀ j, j < l.length → plotKey h k ≠ plotKey f (a + j)) : (s.plotWrite f a l).plotByte h k = s.plotByte h k := by
  rw [(s.plotWrite_bytes f a l).plotByte, State.plotByte_putBytes_other _ _ _ _ _ _ hk]

theorem State.plotBytes_length (n : Nat) (s : State) (f : Fin 4) (a : Nat) : (s.plotBytes f a n).length = n := by
  induction n generalizing a with
  | zero => rfl
  | succ n ih => rw [State.plotBytes, List.length_cons, ih]

theorem State.plotBytes_getD (n : Nat) (s : State) (f : Fin 4) (a j : Nat) (hj : j < n) : (s.plotBytes f a n).getD j 0 = s.plotByte f (a + j) := by
  induction n generalizing a j with
  | zero => cases hj
  | succ n ih =>
    cases j with
    | zero => rfl
    | succ j =>
      rw [State.plotBytes, List.getD_cons_succ, ih _ _ (by omega), show a + 1 + j = a + (j + 1) by omega]

/-- Bytes that read one by one as a list of their number are that list. -/
theorem State.plotBytes_eq {s : State} {f : Fin 4} {a n : Nat} {l : List Byte} (hl : l.length = n)
    (h : ∀ j, j < n → s.plotByte f (a + j) = l.getD j 0) : s.plotBytes f a n = l := by
  refine List.ext_getElem (by rw [State.plotBytes_length, hl]) fun j h1 h2 => ?_
  have hj : j < n := by rwa [State.plotBytes_length] at h1
  have e : (s.plotBytes f a n).getD j 0 = l.getD j 0 := by rw [State.plotBytes_getD n s f a j hj, h j hj]
  rwa [List.getD_eq_getElem _ _ h1, List.getD_eq_getElem _ _ h2] at e

theorem plotKey_ne (f : Fin 4) {a b : Nat} (ha : a < 4194304) (hb : b < 4194304) (h : a ≠ b) : plotKey f a ≠ plotKey f b := by
  unfold plotKey
  rw [Nat.mod_eq_of_lt ha, Nat.mod_eq_of_lt hb]
  omega

/-! Findings of readers (R259) -/

theorem State.noteRead_work (s : State) (f : Fin 4) (a e : Nat) : PlotWork s (s.noteRead f a e).1 := by
  unfold State.noteRead
  split
  · exact .refl s
  · exact s.noteCorr_work f a
  · exact s.noteUncorr_work f a e
  · exact s.noteUncorr_work f a e

theorem State.noteRead_samePlot (s : State) (f : Fin 4) (a e : Nat) : SamePlot s (s.noteRead f a e).1 := by
  unfold State.noteRead
  split
  · exact .refl s
  · exact s.noteCorr_samePlot f a
  · exact s.noteUncorr_samePlot f a e
  · exact s.noteUncorr_samePlot f a e

theorem State.noteRange_work (n : Nat) (s : State) (f : Fin 4) (a e : Nat) : PlotWork s (s.noteRange f a e n).1 := by
  induction n generalizing s a with
  | zero => exact .refl s
  | succ n ih => exact (s.noteRead_work f a e).trans (ih _ _)

/-- What a reader notes leaves Plot and its codes as they are. -/
theorem State.noteRange_samePlot (n : Nat) (s : State) (f : Fin 4) (a e : Nat) : SamePlot s (s.noteRange f a e n).1 := by
  induction n generalizing s a with
  | zero => exact .refl s
  | succ n ih => exact (s.noteRead_samePlot f a e).trans (ih _ _)

end Sys2Proof.Machine
end

section
/-! PROOFS. Furrows and engines under the Sower's shared operations: holds that break, run lists, the end of a migration, a furrow taken
off (R79, R84, R95, R130, R253). -/

namespace Sys2Proof.Machine

/-! Migrations by furrow -/

/-- A member found by its key, after the members of that key have been rewritten. -/
theorem find_updWhere_key {α : Type} (key : α → Nat) (k : Nat) {h : α → α} (hk : ∀ x, key (h x) = key x) (l : List α) :
    (updWhere (fun x => key x == k) h l).find? (fun x => key x == k) = (l.find? fun x => key x == k).map h := by
  induction l with
  | nil => rfl
  | cons x l ih =>
    rw [updWhere_eq_map, List.map_cons, ← updWhere_eq_map]
    by_cases hx : key x = k
    · simp [hx, hk]
    · have h1 : (key x == k) = false := by simpa using hx
      rw [h1, List.find?_cons, List.find?_cons, if_neg Bool.false_ne_true, h1]
      exact ih

theorem State.updMig_mig {s : State} {fid : Nat} {m : Migration} (hm : s.mig? fid = some m) {h : Migration → Migration}
    (hh : ∀ n, (h n).fid = n.fid := by exact fun _ => rfl) : (s.updMig fid h).mig? fid = some (h m) := by
  show (updWhere _ h s.sower.migs).find? _ = _
  rw [find_updWhere_key Migration.fid fid hh]
  exact congrArg (Option.map h) hm

theorem State.mig_fid {s : State} {fid : Nat} {m : Migration} (h : s.mig? fid = some m) : m.fid = fid := by
  simpa using List.find?_some h

theorem mig_of_sower {s t : State} (h : t.sower = s.sower) (fid : Nat) : t.mig? fid = s.mig? fid := by
  rw [State.mig?, h]
  rfl

/-- Migrations of other furrows alone leave a furrow none. -/
theorem find_filter_fid (l : List Migration) (fid : Nat) :
    (l.filter fun x => x.fid ≠ fid).find? (fun m => m.fid == fid) = none :=
  List.find?_eq_none.mpr fun x hx => by simpa using (List.mem_filter.mp hx).2

theorem furrow_of_furrows {s t : State} (h : t.furrows = s.furrows) (fid : Nat) : t.furrow? fid = s.furrow? fid := by
  rw [State.furrow?, h]
  rfl

theorem updFurrow_mine {s : State} {fid : Nat} {F : Furrow} (hF : s.furrow? fid = some F) {h : Furrow → Furrow}
    (hh : ∀ G, (h G).id = G.id := by exact fun _ => rfl) : (s.updFurrow fid h).furrow? fid = some (h F) := by
  rw [updFurrow_furrow s fid h hh, if_pos rfl, hF]
  rfl

theorem updFurrow_other (s : State) {fid id : Nat} (hne : id ≠ fid) {h : Furrow → Furrow} (hh : ∀ G, (h G).id = G.id := by exact fun _ => rfl) :
    (s.updFurrow fid h).furrow? id = s.furrow? id := by
  rw [updFurrow_furrow s fid h hh, if_neg hne]

/-! Holds (R130) -/

theorem State.breakHold_none {s : State} {g : Fin 96} (h : s.engines[g].hold = none) : s.breakHold g = s := by
  rw [State.breakHold, h]

theorem State.breakHold_held {s : State} {g : Fin 96} {b : Fin 32} {fid : Nat} (h : s.engines[g].hold = some b)
    (hc : s.engines[g].cur = some fid) : s.breakHold g =
      (s.updEngine g fun E => { E with hold := none }).updFurrow fid fun F => { F with ctx := { F.ctx with psw := setHb F.ctx.psw } } := by
  unfold State.breakHold
  rw [h]
  dsimp only
  rw [State.updEngine_mine, hc]

theorem State.breakHold_rest (s : State) (g : Fin 96) :
    s.breakHold g = { s with engines := (s.breakHold g).engines, furrows := (s.breakHold g).furrows } := by
  unfold State.breakHold
  dsimp only
  split
  · rfl
  · split <;> rfl

/-- A hold that breaks changes nothing of an engine but the hold. -/
theorem State.breakHold_engine (s : State) (g k : Fin 96) :
    (s.breakHold g).engines[k] = { s.engines[k] with hold := (s.breakHold g).engines[k].hold } := by
  have e : (s.updEngine g fun E => { E with hold := none }).engines[k] =
      { s.engines[k] with hold := (s.updEngine g fun E => { E with hold := none }).engines[k].hold } := by
    by_cases hk : k = g
    · subst hk; rw [State.updEngine_mine]
    · rw [State.updEngine_other _ _ hk]
  unfold State.breakHold
  dsimp only
  split
  · rfl
  · split <;> exact e

/-- A hold that breaks changes nothing of a furrow but PSW. -/
theorem State.breakHold_furrow {s : State} {fid : Nat} {F : Furrow} (hF : s.furrow? fid = some F) (g : Fin 96) :
    ∃ p, (s.breakHold g).furrow? fid = some { F with ctx := { F.ctx with psw := p } } := by
  unfold State.breakHold
  dsimp only
  split
  · exact ⟨_, hF⟩
  · split
    · rename_i id _
      by_cases e : fid = id
      · subst e; exact ⟨_, updFurrow_mine hF⟩
      · exact ⟨_, (updFurrow_other _ e).trans hF⟩
    · exact ⟨_, hF⟩

/-! Run lists (R79, R84) -/

theorem State.emitEngine_traceOnly (s : State) (g : Fin 96) (n : Nat) (c : Ctx) (p : List DWord) : TraceOnly s (s.emitEngine g n c p) g := by
  unfold State.emitEngine
  split
  · exact emit_traceOnly ..
  · exact .refl s g

theorem State.emitSync_traceOnly (s : State) (g : Fin 96) (n : Nat) (c : Ctx) : TraceOnly s (s.emitSync g n c) g := by
  unfold State.emitSync
  dsimp only
  split
  · exact (emitFurrow_traceOnly ..).trans (updEngine_traceOnly _ _ _ fun _ => rfl)
  · exact emitFurrow_traceOnly ..

/-- An engine that wakes: what the trace port takes beside it changes nothing else (R84, R468). -/
theorem State.wake_doze {s : State} {g : Fin 96} (h : s.engines[g].st = .doze) :
    TraceOnly (s.updEngine g fun E => { E with st := .awake, lastLoaded := none }) (s.wake g) g := by
  rw [State.wake, if_pos h]
  exact State.emitEngine_traceOnly ..

theorem State.wake_up {s : State} {g : Fin 96} (h : s.engines[g].st ≠ .doze) : s.wake g = s := by rw [State.wake, if_neg h]

theorem State.wake_rest (s : State) (g : Fin 96) : s.wake g = { s with engines := (s.wake g).engines, dbg := (s.wake g).dbg } := by
  by_cases h : s.engines[g].st = .doze
  · rw [(State.wake_doze h).rest]; rfl
  · rw [State.wake_up h]

theorem State.wake_other (s : State) {g k : Fin 96} (hk : k ≠ g) : (s.wake g).engines[k] = s.engines[k] := by
  by_cases h : s.engines[g].st = .doze
  · rw [(State.wake_doze h).engines k hk, State.updEngine_other _ _ hk]
  · rw [State.wake_up h]

theorem State.wake_retireDue (s : State) (g k : Fin 96) : (s.wake g).engines[k].retireDue = s.engines[k].retireDue :=
  (s.wake_spared g).due k

theorem State.wake_awake {s : State} {g : Fin 96} (h : s.engines[g].st = .awake ∨ s.engines[g].st = .doze) :
    (s.wake g).engines[g].st = .awake := by
  rcases h with h | h
  · rw [State.wake_up (by rw [h]; decide), h]
  · rw [(State.wake_doze h).engine, State.updEngine_mine]

/-- An engine that the Sower may place on is awake once it has been woken. -/
theorem State.usable_awake {s : State} {g : Fin 96} (h : s.usable g = true) : (s.wake g).engines[g].st = .awake := by
  refine State.wake_awake ?_
  simp only [State.usable, Bool.and_eq_true, Bool.or_eq_true, beq_iff_eq] at h
  exact h.1.1

theorem State.joinEngine_rest (s : State) (fid : Nat) (g : Fin 96) :
    s.joinEngine fid g = { s with engines := (s.joinEngine fid g).engines, dbg := (s.joinEngine fid g).dbg } := by
  unfold State.joinEngine
  rw [s.wake_rest]
  rfl

theorem State.joinEngine_mine (s : State) (fid : Nat) (g : Fin 96) : (s.joinEngine fid g).engines[g] =
    { (s.wake g).engines[g] with order := (s.wake g).engines[g].order.filter (· ≠ fid) ++ [fid] } :=
  State.updEngine_mine ..

theorem State.joinEngine_order (s : State) (fid : Nat) (g : Fin 96) : fid ∈ (s.joinEngine fid g).engines[g].order := by
  rw [State.joinEngine_mine]
  simp

theorem State.joinEngine_furrows (s : State) (fid : Nat) (g : Fin 96) : (s.joinEngine fid g).furrows = s.furrows := by
  rw [s.joinEngine_rest]

theorem State.joinEngine_sower (s : State) (fid : Nat) (g : Fin 96) : (s.joinEngine fid g).sower = s.sower := by
  rw [s.joinEngine_rest]

/-- An engine without a furrow in its run list and on it. -/
def Engine.leave (fid : Nat) (E : Engine) : Engine :=
  { E with
    order := E.order.filter (· ≠ fid)
    cur := if E.cur = some fid then none else E.cur
    phase := if E.cur = some fid then .ready else E.phase
    data := if E.cur = some fid then [] else E.data
    micro := if E.cur = some fid then none else E.micro
    lastLoaded := if E.lastLoaded = some fid then none else E.lastLoaded }

theorem State.leaveEngine_eq (s : State) (fid : Nat) (g : Fin 96) : s.leaveEngine fid g = s.updEngine g (Engine.leave fid) := rfl

theorem Engine.leave_cur (fid : Nat) (E : Engine) : (E.leave fid).cur ≠ some fid := by
  unfold Engine.leave
  dsimp only
  split
  · nofun
  · assumption

theorem Engine.leave_order (fid : Nat) (E : Engine) : fid ∉ (E.leave fid).order := by
  simp [Engine.leave]

/-! Banks that become FREE, and the end of a migration (R95, R253) -/

theorem Released.furrows {s t : State} (h : Released s t) : t.furrows = s.furrows := by rw [h.rest]
theorem Released.sower {s t : State} (h : Released s t) : t.sower = s.sower := by rw [h.rest]
theorem Released.mailboxes {s t : State} (h : Released s t) : t.mailboxes = s.mailboxes := by rw [h.rest]

theorem State.updBank_samePlot (s : State) (f : Fin 4) (b : Fin 32) {h : Bank → Bank} (hh : ∀ B, (h B).epoch = B.epoch) :
    SamePlot s (s.updBank f b h) :=
  s.updField_samePlot f _ rfl fun c => by
    by_cases e : b = c
    · subst e; rw [vupd_same, hh]
    · rw [vupd_other _ _ _ _ e]

theorem foldl_samePlot {α : Type} {g : State → α → State} (l : List α) (s : State) (h : ∀ t a, SamePlot t (g t a)) :
    SamePlot s (l.foldl g s) :=
  foldl_rel .refl .trans l s h

theorem State.releaseEmpty_samePlot (s : State) (f : Fin 4) : SamePlot s (s.releaseEmpty f) := by
  have drop : SamePlot s (s.dropHeadlands f) := foldl_samePlot _ s fun t g => by
    dsimp only
    split
    · exact .refl t
    · exact .of_fields rfl rfl
  refine drop.trans (foldl_samePlot _ _ fun t b => ?_)
  split
  · exact t.updBank_samePlot f b fun _ => rfl
  · exact .refl t

theorem State.endMig_none {s : State} {fid : Nat} (h : s.mig? fid = none) : s.endMig fid = s := by
  have h : s.sower.migs.find? (fun m => m.fid == fid) = none := h
  rw [State.endMig, h]

/-- What a migration has reserved is given up (R95). -/
def State.unreserve (s : State) (fid : Nat) (m : Migration) : State :=
  ((s.updSower fun W => { W with migs := W.migs.filter fun x => x.fid ≠ fid }).updPorts (fieldOf m.src) fun P =>
    { P with own := P.own.filter fun o => o.copy || o.fid != fid }).releaseEmpty (fieldOf m.dst)

theorem State.endMig_some {s : State} {fid : Nat} {m : Migration} (h : s.mig? fid = some m) : s.endMig fid = match m.cmd with
    | some (mb, k) => (s.unreserve fid m).finish mb k eAborted []
    | none => s.unreserve fid m := by
  have h : s.sower.migs.find? (fun m => m.fid == fid) = some m := h
  rw [State.endMig, h]
  rfl

theorem State.unreserve_rest (s : State) (fid : Nat) (m : Migration) : s.unreserve fid m = { s with
    sower := { s.sower with migs := s.sower.migs.filter fun x => x.fid ≠ fid }, fields := (s.unreserve fid m).fields
    engines := (s.unreserve fid m).engines } :=
  (State.releaseEmpty_released _ _).rest.trans rfl

theorem State.unreserve_samePlot (s : State) (fid : Nat) (m : Migration) : SamePlot s (s.unreserve fid m) :=
  (s.updSower_samePlot _).trans ((State.updPorts_samePlot ..).trans (State.releaseEmpty_samePlot ..))

theorem State.endMig_rest (s : State) (fid : Nat) : s.endMig fid = { s with
    sower := (s.endMig fid).sower, fields := (s.endMig fid).fields, engines := (s.endMig fid).engines
    mailboxes := (s.endMig fid).mailboxes } := by
  cases h : s.mig? fid with
  | none => rw [State.endMig_none h]
  | some m =>
    rw [State.endMig_some h]
    split
    · rw [State.finish_rest, s.unreserve_rest]
    · rw [s.unreserve_rest]

/-- A migration that ends leaves the sequencer; every other stays. -/
theorem State.endMig_sower (s : State) (fid : Nat) :
    (s.endMig fid).sower = { s.sower with migs := s.sower.migs.filter fun x => x.fid ≠ fid } := by
  cases h : s.mig? fid with
  | none =>
    have e : (s.sower.migs.filter fun x => x.fid ≠ fid) = s.sower.migs :=
      List.filter_eq_self.mpr fun m hm => by simpa using List.find?_eq_none.mp h m hm
    rw [State.endMig_none h, e]
  | some m =>
    rw [State.endMig_some h]
    split
    · rw [State.finish_rest, s.unreserve_rest]
    · rw [s.unreserve_rest]

theorem State.endMig_mig (s : State) (fid : Nat) : (s.endMig fid).mig? fid = none := by
  rw [State.mig?, State.endMig_sower]
  exact find_filter_fid ..

theorem State.endMig_furrows (s : State) (fid : Nat) : (s.endMig fid).furrows = s.furrows := by rw [s.endMig_rest]

theorem State.finish_samePlot (s : State) (mb : Fin 16) (k : BitVec 16) (st : Nat) (r : List Word) (x : Option Bool) :
    SamePlot s (s.finish mb k st r x) :=
  .of_fields rfl rfl

theorem State.endMig_samePlot (s : State) (fid : Nat) : SamePlot s (s.endMig fid) := by
  cases h : s.mig? fid with
  | none => rw [State.endMig_none h]; exact .refl s
  | some m =>
    rw [State.endMig_some h]
    split
    · rename_i mb k _
      exact (s.unreserve_samePlot fid m).trans (State.finish_samePlot ..)
    · exact s.unreserve_samePlot fid m

/-! A furrow taken off its engine (R86, R101, R211) -/

/-- A furrow leaves its engine, whose hold breaks where it was the one that ran. -/
def State.offEngine (s : State) (fid : Nat) (F : Furrow) : State :=
  match F.engine with
  | some g => (if s.engines[g].cur = some fid then s.breakHold g else s).leaveEngine fid g
  | none => s

theorem State.takeOff_eq {s : State} {fid : Nat} {F : Furrow} (h : s.furrow? fid = some F) (st : FurrowSt) :
    s.takeOff fid st = (((s.offEngine fid F).abortJobs fid).endMig fid).updFurrow fid fun F =>
      { F with st := st, engine := none, waitMask := none, mbar := false, doorbells := [] } := by
  rw [State.takeOff, h]
  rfl

theorem State.takeOff_none {s : State} {fid : Nat} (h : s.furrow? fid = none) (st : FurrowSt) : s.takeOff fid st = s := by
  rw [State.takeOff, h]

theorem State.offEngine_rest (s : State) (fid : Nat) (F : Furrow) : s.offEngine fid F =
    { s with engines := (s.offEngine fid F).engines, furrows := (s.offEngine fid F).furrows } := by
  unfold State.offEngine
  split
  · split
    · rw [s.breakHold_rest]; rfl
    · rfl
  · rfl

theorem State.offEngine_furrow {s : State} {fid id : Nat} {G : Furrow} (h : s.furrow? id = some G) (F : Furrow) :
    ∃ p, (s.offEngine fid F).furrow? id = some { G with ctx := { G.ctx with psw := p } } := by
  unfold State.offEngine
  split
  · split
    · exact State.breakHold_furrow h _
    · exact ⟨_, h⟩
  · exact ⟨_, h⟩

/-- The engine that a furrow leaves: its run control stands. -/
theorem State.offEngine_engine {s : State} {F : Furrow} {g : Fin 96} (hg : F.engine = some g) (fid : Nat) :
    (s.offEngine fid F).engines[g].cur ≠ some fid ∧ fid ∉ (s.offEngine fid F).engines[g].order ∧
      (s.offEngine fid F).engines[g].ctl = s.engines[g].ctl := by
  rw [State.offEngine, hg]
  dsimp only
  rw [State.leaveEngine_eq, State.updEngine_mine]
  refine ⟨Engine.leave_cur _ _, Engine.leave_order _ _, ?_⟩
  show (State.engines _)[g].ctl = _
  split
  · rw [State.breakHold_engine]
  · rfl

theorem State.abortJobs_rest (s : State) (fid : Nat) : s.abortJobs fid = { s with fields := (s.abortJobs fid).fields } := rfl

theorem State.abortJobs_samePlot (s : State) (fid : Nat) : SamePlot s (s.abortJobs fid) := by
  refine ⟨rfl, fun f => ?_, fun f b => ?_⟩
  · show (vmap _ s.fields)[f].ecc = _
    rw [vmap_at]
  · show (vmap _ s.fields)[f].banks[b].epoch = _
    rw [vmap_at]

theorem State.takeOff_rest (s : State) (fid : Nat) (st : FurrowSt) : s.takeOff fid st = { s with
    furrows := (s.takeOff fid st).furrows, engines := (s.takeOff fid st).engines, fields := (s.takeOff fid st).fields
    sower := (s.takeOff fid st).sower, mailboxes := (s.takeOff fid st).mailboxes } := by
  cases h : s.furrow? fid with
  | none => rw [State.takeOff_none h]
  | some F =>
    rw [State.takeOff_eq h]
    unfold State.updFurrow
    rw [State.endMig_rest, State.abortJobs_rest, s.offEngine_rest]

/-- A furrow that is taken off keeps all but its place, what it waited for, and perhaps HB. -/
theorem State.takeOff_furrow {s : State} {fid : Nat} {F : Furrow} (h : s.furrow? fid = some F) (st : FurrowSt) :
    ∃ c, (s.takeOff fid st).furrow? fid =
      some { F with ctx := c, st := st, engine := none, waitMask := none, mbar := false, doorbells := [] } := by
  obtain ⟨p, hp⟩ := State.offEngine_furrow (fid := fid) h F
  rw [State.takeOff_eq h]
  refine ⟨_, updFurrow_mine (F := { F with ctx := { F.ctx with psw := p } }) ?_⟩
  rw [furrow_of_furrows (State.endMig_furrows ..)]
  exact hp

theorem State.takeOff_sower (s : State) (fid : Nat) (st : FurrowSt) : (s.takeOff fid st).sower = s.sower ∨
    (s.takeOff fid st).sower = { s.sower with migs := s.sower.migs.filter fun x => x.fid ≠ fid } := by
  cases h : s.furrow? fid with
  | none => rw [State.takeOff_none h]; exact .inl rfl
  | some F =>
    refine .inr ?_
    rw [State.takeOff_eq h, State.updFurrow_sower, State.endMig_sower, State.abortJobs_rest, s.offEngine_rest]

theorem State.takeOff_samePlot (s : State) (fid : Nat) (st : FurrowSt) : SamePlot s (s.takeOff fid st) := by
  cases h : s.furrow? fid with
  | none => rw [State.takeOff_none h]; exact .refl s
  | some F =>
    rw [State.takeOff_eq h]
    have h1 : SamePlot s (s.offEngine fid F) := by
      rw [s.offEngine_rest]
      exact .of_fields rfl rfl
    exact ((h1.trans (State.abortJobs_samePlot ..)).trans (State.endMig_samePlot ..)).trans (State.updFurrow_samePlot ..)

/-- A furrow without a migration leaves the mailboxes and the sequencer as they are. -/
theorem State.takeOff_noMig {s : State} {fid : Nat} {F : Furrow} (h : s.furrow? fid = some F) (hm : s.mig? fid = none) (st : FurrowSt) :
    (s.takeOff fid st).mailboxes = s.mailboxes ∧ (s.takeOff fid st).sower = s.sower ∧
      (s.takeOff fid st).engines = (s.offEngine fid F).engines := by
  have hr := s.offEngine_rest fid F
  have hm' : ((s.offEngine fid F).abortJobs fid).mig? fid = none := by
    rw [← hm]
    refine mig_of_sower ?_ fid
    rw [State.abortJobs_rest, hr]
  rw [State.takeOff_eq h, State.endMig_none hm']
  refine ⟨?_, ?_, rfl⟩ <;> rw [State.abortJobs_rest, hr] <;> rfl

end Sys2Proof.Machine
end

section
/-! PROOFS. Furrows lost and restarts kept for later (R81, R211, R428), and the banks under a reader's findings (R259). -/

namespace Sys2Proof.Machine

/-! A restart kept for later, and a furrow lost -/

theorem State.restartLater_rest (s : State) (fid how : Nat) : s.restartLater fid how = { s with
    furrows := (s.restartLater fid how).furrows, engines := (s.restartLater fid how).engines
    fields := (s.restartLater fid how).fields, sower := (s.restartLater fid how).sower
    mailboxes := (s.restartLater fid how).mailboxes } := by
  unfold State.restartLater State.updSower
  rw [State.takeOff_rest]

theorem State.restartLater_samePlot (s : State) (fid how : Nat) : SamePlot s (s.restartLater fid how) :=
  (s.takeOff_samePlot fid .unplaced).trans (State.updSower_samePlot ..)

theorem State.restartLater_mem (s : State) (fid how : Nat) : (fid, how) ∈ (s.restartLater fid how).sower.restarts :=
  List.mem_append_right _ (List.mem_singleton_self _)

theorem State.restartLater_furrow {s : State} {fid : Nat} {F : Furrow} (h : s.furrow? fid = some F) (how : Nat) :
    ∃ c, (s.restartLater fid how).furrow? fid =
      some { F with ctx := c, st := .unplaced, engine := none, waitMask := none, mbar := false, doorbells := [] } :=
  s.takeOff_furrow h .unplaced

theorem State.log_samePlot (s : State) (c : Fin 15) (e : Nat) (f : Option (Fin 4)) (o : Nat) (a b : Word) : SamePlot s (s.log c e f o a b) :=
  .of_fields (State.log_plot ..) (State.log_fields ..)

theorem State.count_samePlot (s : State) (p i n : Nat) : SamePlot s (s.count p i n) :=
  .of_fields (State.count_plot ..) (State.count_fields ..)

theorem State.loseFurrow_none {s : State} {fid : Nat} (h : s.furrow? fid = none) (c : Nat) (o : Option (Fin 4)) : s.loseFurrow fid c o = s := by
  rw [State.loseFurrow, h]

/-- A furrow lost is kept for a restart, UNPLACED or FAILED (R81), and the Ledger takes a record. -/
theorem State.loseFurrow_eq {s : State} {fid : Nat} {F : Furrow} (h : s.furrow? fid = some F) (c : Nat) (o : Option (Fin 4)) :
    s.loseFurrow fid c o = (match s.lossOutcome F o with
      | 0 => s.restartLater fid restartAnywhere
      | 1 => s.takeOff fid .unplaced
      | _ => s.takeOff fid .failed).log 2 6 F.home fid (nw c) (nw (s.lossOutcome F o)) := by
  unfold State.loseFurrow
  split
  · rename_i hn
    rw [h] at hn
    cases hn
  · rename_i G hG
    obtain rfl := Option.some.inj (h.symm.trans hG)
    rfl

theorem State.loseFurrow_samePlot (s : State) (fid c : Nat) (o : Option (Fin 4)) : SamePlot s (s.loseFurrow fid c o) := by
  cases h : s.furrow? fid with
  | none => rw [State.loseFurrow_none h]; exact .refl s
  | some F =>
    rw [State.loseFurrow_eq h]
    refine SamePlot.trans ?_ (State.log_samePlot ..)
    split
    · exact s.restartLater_samePlot ..
    · exact s.takeOff_samePlot ..
    · exact s.takeOff_samePlot ..

/-! Banks under findings (R259): a finding queues a word for GLEAN, and counts a row's corrections -/

/-- Every bank of t is that of s but for what findings record there. -/
def SameBanks (s t : State) : Prop :=
  ∀ (f : Fin 4) (b : Fin 32), t.fields[f].banks[b] =
    { s.fields[f].banks[b] with gleanQ := t.fields[f].banks[b].gleanQ, corrections := t.fields[f].banks[b].corrections }

namespace SameBanks

variable {s t u : State}

theorem refl (s : State) : SameBanks s s := fun _ _ => rfl

theorem of_fields (h : t.fields = s.fields) : SameBanks s t := fun f b => by rw [h]

theorem trans (h : SameBanks s t) (h' : SameBanks t u) : SameBanks s u := fun f b => by rw [h' f b, h f b]

theorem owns (h : SameBanks s t) (g : Fin 96) (a : Nat) : t.owns g a = s.owns g a := by
  unfold State.owns
  dsimp only
  rw [h]

end SameBanks

theorem State.updField_sameBanks (s : State) (f : Fin 4) (h : Field → Field) (hh : ∀ b : Fin 32, (h s.fields[f]).banks[b] =
    { s.fields[f].banks[b] with gleanQ := (h s.fields[f]).banks[b].gleanQ, corrections := (h s.fields[f]).banks[b].corrections }) :
    SameBanks s (s.updField f h) := by
  intro k b
  rw [State.updField_fields]
  by_cases e : f = k
  · subst e; rw [vupd_same]; exact hh b
  · rw [vupd_other _ _ _ _ e]

theorem State.flagRow_fields (s : State) (f : Fin 4) (a : Nat) : (s.flagRow f a).fields = s.fields := by
  unfold State.flagRow
  extract_lets e t
  have ht : t.fields = s.fields := by
    unfold t
    split <;> rfl
  split
  · rw [State.log_fields, ht]
  · exact ht

theorem State.noteCorr_sameBanks (s : State) (f : Fin 4) (a : Nat) : SameBanks s (s.noteCorr f a) := by
  unfold State.noteCorr
  extract_lets t B w old times u
  have hu : SameBanks s u := (SameBanks.of_fields (State.count_fields ..)).trans <| t.updField_sameBanks f _ fun b => by
    by_cases e : bankOf a = b
    · subst e; rw [vupd_same]
    · rw [vupd_other _ _ _ _ e]
  split
  · exact hu.trans (.of_fields (u.flagRow_fields f a))
  · exact hu

theorem State.noteUncorr_sameBanks (s : State) (f : Fin 4) (a e : Nat) : SameBanks s (s.noteUncorr f a e) := by
  unfold State.noteUncorr
  extract_lets t u v
  have ht : SameBanks s t := .of_fields (State.count_fields ..)
  have hv : SameBanks s v := (ht.trans (.of_fields (State.log_fields ..))).trans (.of_fields (u.flagRow_fields f a))
  split
  · exact ht
  · split
    · exact hv.trans (v.updField_sameBanks f _ fun _ => rfl)
    · exact hv

theorem State.noteRead_sameBanks (s : State) (f : Fin 4) (a e : Nat) : SameBanks s (s.noteRead f a e).1 := by
  unfold State.noteRead
  split
  · exact .refl s
  · exact s.noteCorr_sameBanks f a
  · exact s.noteUncorr_sameBanks f a e
  · exact s.noteUncorr_sameBanks f a e

theorem State.noteRange_sameBanks (n : Nat) (s : State) (f : Fin 4) (a e : Nat) : SameBanks s (s.noteRange f a e n).1 := by
  induction n generalizing s a with
  | zero => exact .refl s
  | succ n ih => exact (s.noteRead_sameBanks f a e).trans (ih _ _)

/-! Words as bytes (R117) -/

theorem bytes32_length (w : Word) : (bytes32 w).length = 4 := rfl

theorem bytesOf_length (l : List Word) : (bytesOf l).length = 4 * l.length := by
  induction l with
  | nil => rfl
  | cons w l ih => simp only [bytesOf, List.flatMap_cons, List.length_append, bytes32_length, List.length_cons] at ih ⊢; omega

theorem le32_bytes32 (w : Word) : le32 (bytes32 w) 0 = w := by
  refine BitVec.eq_of_getLsbD_eq fun i hi => ?_
  simp only [le32, byteAt, bytes32, bits, List.getD_cons_zero, List.getD_cons_succ, Nat.zero_add, BitVec.getLsbD_append,
    BitVec.getLsbD_extractLsb']
  grind

end Sys2Proof.Machine
end

section
/-! PROOFS. Events of an engine beside its instructions: the headland handler, a furrow switch, a time slice, a hold, the customer
watchdog, a sample of the time (O54). -/

namespace Sys2Proof.Machine

theorem State.csFetch_clean {s : State} {g : Fin 96} {a : Nat} (h : mapFind a s.engines[g].csErr = none) : s.csFetch g a = some s := by
  rw [State.csFetch, h]

/-! The headland handler (R208-R212) -/

theorem SamePlot.headlandCount {s t : State} (h : SamePlot s t) (f : Fin 4) (top : Nat) : t.headlandCount f top = s.headlandCount f top := by
  have e (k : Nat) : t.eccAt f (top - 64 + 16 * k) = s.eccAt f (top - 64 + 16 * k) := h.eccAt f _
  unfold State.headlandCount
  simp only [h.bytes.plotBytes, e]

theorem headlandSlot_length (c : Ctx) (x : Escalation) (fid : Nat) (g : Fin 96) (time : DWord) : (headlandSlot c x fid g time).length = 64 := rfl

theorem headlandHeader_length (count slot : Nat) (rebuilt : Bool) : (headlandHeader count slot rebuilt).length = 64 := rfl

theorem headlandHeader_count (count slot : Nat) (rebuilt : Bool) (j : Nat) (hj : j < 4) :
    (headlandHeader count slot rebuilt).getD j 0 = (bytes32 (nw count)).getD j 0 := by
  interval_cases j <;> rfl

/-- The slot that the handler writes lies between the header and the area's other end. -/
theorem headlandSlot_below {top : Nat} (h : 4096 ≤ top) (n : Nat) : top - 64 * (n % 63 + 2) + 64 ≤ top - 64 := by
  have := Nat.mod_lt n (y := 63) (by decide)
  omega

/-- A slot and the header written: the header's first word tells the count, and the slot reads back (R210). -/
theorem State.headland_written (s : State) (f : Fin 4) {top slot : Nat} (hs : mapSorted s.plot) (hb : slot + 64 ≤ top - 64) (ht : top ≤ 4194304)
    (c : Ctx) (x : Escalation) (fid : Nat) (g : Fin 96) (time : DWord) (n k : Nat) (r : Bool) :
    let t := (s.plotWrite f slot (headlandSlot c x fid g time)).plotWrite f (top - 64) (headlandHeader (n + 1) k r)
    (∀ j, j < 64 → t.plotByte f (slot + j) = (headlandSlot c x fid g time).getD j 0) ∧
      le32 (t.plotBytes f (top - 64) 4) 0 = nw (n + 1) := by
  intro t
  refine ⟨fun j hj => ?_, ?_⟩
  · rw [State.plotByte_plotWrite_other _ _ _ _ _ _ fun i hi => ?_]
    · exact State.plotByte_plotWrite_same _ _ _ _ hs (by rw [headlandSlot_length]; omega) j (by rwa [headlandSlot_length])
    · rw [headlandHeader_length] at hi
      exact plotKey_ne f (by omega) (by omega) (by omega)
  · have e : t.plotBytes f (top - 64) 4 = bytes32 (nw (n + 1)) := State.plotBytes_eq rfl fun j hj => by
      rw [← headlandHeader_count (n + 1) k r j hj]
      exact State.plotByte_plotWrite_same _ _ _ _ (s.plotWrite_sorted _ _ _ hs) (by rw [headlandHeader_length]; omega) j
        (by rw [headlandHeader_length]; omega)
    rw [e, le32_bytes32]

/-- The record that the Ledger takes of an escalation (R211). -/
def State.escalationLogged (s : State) (g : Fin 96) (F : Furrow) (x : Escalation) : State :=
  s.log 2 5 (some (fieldOf g)) F.id x.fault.pc ((BitVec.ofNat 7 g.val ++ x.reason ++ 0#2 ++ x.fault.vector : BitVec 19).setWidth 32)

theorem State.escalated_eq (s : State) (g : Fin 96) (F : Furrow) (x : Escalation) : s.escalated g F x =
    (if F.desc.restartable ∧ !(runStep s F.run).2 then (s.escalationLogged g F x).restartLater F.id (restartHere g)
      else (s.escalationLogged g F x).takeOff F.id .failed).updFurrow F.id
        fun G => { G with run := some (runStep s F.run).1 } := rfl

theorem runStep_first (s : State) : (runStep s none).2 = false := rfl

/-- The furrow that escalates is off its engine: it waits for its restart there, or it is FAILED (R211; that it is UNPLACED until then is
the model's choice, log 30). -/
theorem State.escalated_spec {s : State} {g : Fin 96} {F : Furrow} (hF : s.furrow? F.id = some F) (hg : F.engine = some g)
    (hm : s.mig? F.id = none) (x : Escalation) :
    SamePlot s (s.escalated g F x) ∧
    (∃ G, (s.escalated g F x).furrow? F.id = some G ∧ G.engine = none ∧ G.desc = F.desc ∧
      (F.desc.restartable = true → F.run = none → G.st = .unplaced ∧ (F.id, g.val) ∈ (s.escalated g F x).sower.restarts) ∧
      (F.desc.restartable = false → G.st = .failed)) ∧
    (s.escalated g F x).engines[g].cur ≠ some F.id ∧ (s.escalated g F x).engines[g].ctl = s.engines[g].ctl := by
  rw [State.escalated_eq]
  generalize hu' : s.escalationLogged g F x = u
  have hu : SamePlot s u := hu' ▸ s.log_samePlot ..
  have huF : u.furrow? F.id = some F := (furrow_of_furrows (hu' ▸ State.log_furrows ..) _).trans hF
  have hum : u.mig? F.id = none := (mig_of_sower (hu' ▸ State.log_sower ..) _).trans hm
  have hue : u.engines = s.engines := hu' ▸ State.log_engines ..
  have off (st : FurrowSt) : (u.takeOff F.id st).engines[g].cur ≠ some F.id ∧ (u.takeOff F.id st).engines[g].ctl = s.engines[g].ctl := by
    obtain ⟨hcur, -, hctl⟩ := u.offEngine_engine hg F.id
    rw [(u.takeOff_noMig huF hum st).2.2, ← hue]
    exact ⟨hcur, hctl⟩
  by_cases h : F.desc.restartable ∧ !(runStep s F.run).2
  · rw [if_pos h]
    obtain ⟨c, hG⟩ := u.restartLater_furrow huF (restartHere g)
    exact ⟨(hu.trans (u.restartLater_samePlot ..)).trans (State.updFurrow_samePlot ..),
      ⟨_, updFurrow_mine hG, rfl, rfl, fun _ _ => ⟨rfl, u.restartLater_mem ..⟩, fun hr => by simp [hr] at h⟩, off .unplaced⟩
  · rw [if_neg h]
    obtain ⟨c, hG⟩ := u.takeOff_furrow huF .failed
    refine ⟨(hu.trans (u.takeOff_samePlot ..)).trans (State.updFurrow_samePlot ..),
      ⟨_, updFurrow_mine hG, rfl, rfl, fun hr h0 => absurd ⟨hr, by rw [h0, runStep_first]; rfl⟩ h, fun _ => rfl⟩, off .failed⟩

/-- The handler of an escalation that can complete: it finds its area and its code (R208, R212). -/
structure HeadlandDue (s : State) (g : Fin 96) (F : Furrow) (x : Escalation) : Prop where
  phase : s.engines[g].phase = .escalated x
  cur : s.engines[g].cur = some F.id
  on : F.engine = some g
  noMismatch : s.engines[g].mismatch = none
  area : 4096 ≤ s.engines[g].hdlSp.toNat
  header : s.owns g (s.engines[g].hdlSp.toNat - 64) = true
  slot : s.owns g (s.engines[g].hdlSp.toNat - 64 * ((s.headlandCount (fieldOf g) s.engines[g].hdlSp.toNat).1 % 63 + 2)) = true
  code : mapFind 0x40 s.engines[g].csErr = none

/-- HEADLAND_HANDLER where it completes: the slot, the header, and the Sower's part (R210, R211). -/
theorem execHeadlandHandler_due {s : State} {g : Fin 96} {F : Furrow} {x : Escalation} (hF : s.furrow? F.id = some F)
    (h : HeadlandDue s g F x) :
    let top := s.engines[g].hdlSp.toNat
    let a := (s.noteRange (fieldOf g) (top - 64) 1 4).1
    let n := (s.headlandCount (fieldOf g) top).1
    exec (.headlandHandler g) s = .next (((((a.plotWrite (fieldOf g) (top - 64 * (n % 63 + 2)) (headlandSlot F.ctx x F.id g a.now)).plotWrite
      (fieldOf g) (top - 64) (headlandHeader (n + 1) (n % 63) (s.headlandCount (fieldOf g) top).2)).count 2 (g.val * 9 + 6) 1).escalated
        g F x).takeHalt g) := by
  intro top a n
  have hn : a.headlandCount (fieldOf g) top = s.headlandCount (fieldOf g) top := (s.noteRange_samePlot 4 _ _ 1).headlandCount ..
  have ho : SameBanks s a := s.noteRange_sameBanks 4 _ _ 1
  have harea := h.area
  show execHeadlandHandler g s = _
  unfold execHeadlandHandler
  rw [h.phase, h.cur]
  dsimp only
  rw [hF]
  dsimp only
  rw [h.noMismatch, if_neg (by decide), if_neg (by rw [h.header]; simp [granuleBytes]; omega), State.csFetch_clean h.code]
  dsimp only
  rw [show a.headlandCount (fieldOf g) s.engines[g].hdlSp.toNat = s.headlandCount (fieldOf g) top from hn,
    if_neg (by rw [ho.owns, h.slot]; decide)]

theorem headlandHandler_written {s : State} {g : Fin 96} {F : Furrow} {x : Escalation} (hF : s.furrow? F.id = some F)
    (h : HeadlandDue s g F x) (hpend : s.engines[g].ctl.pend = false) (hstep : s.engines[g].ctl.stepping = false)
    (hs : mapSorted s.plot) (hm : s.mig? F.id = none) :
    let f := fieldOf g
    let top := s.engines[g].hdlSp.toNat
    let n := (s.headlandCount f top).1
    let slot := top - 64 * (n % 63 + 2)
    ∃ t G, exec (.headlandHandler g) s = .next t ∧ t.furrow? F.id = some G ∧ G.engine = none ∧ G.desc = F.desc ∧
      (F.desc.restartable = true → F.run = none → G.st = .unplaced ∧ (F.id, g.val) ∈ t.sower.restarts) ∧
      (F.desc.restartable = false → G.st = .failed) ∧
      (∀ j, j < 64 → t.plotByte f (slot + j) = (headlandSlot F.ctx x F.id g s.now).getD j 0) ∧
      le32 (t.plotBytes f (top - 64) 4) 0 = nw (n + 1) ∧ t.engines[g].cur ≠ some F.id := by
  intro f top n slot
  let a := (s.noteRange f (top - 64) 1 4).1
  have ha : SamePlot s a := s.noteRange_samePlot ..
  have wa : PlotWork s a := s.noteRange_work ..
  have hn : a.headlandCount f top = s.headlandCount f top := ha.headlandCount f top
  let b := (a.plotWrite f slot (headlandSlot F.ctx x F.id g a.now)).plotWrite f (top - 64)
    (headlandHeader (n + 1) (n % 63) (s.headlandCount f top).2)
  let c := b.count 2 (g.val * 9 + 6) 1
  have wc : PlotWork s c := ((wa.trans (a.plotWrite_work ..)).trans (State.plotWrite_work ..)).trans (State.count_work ..)
  have hcm : c.mig? F.id = none := (mig_of_sower (by rw [wc.rest]) _).trans hm
  obtain ⟨hplot, ⟨G, hG, hoff, hdesc, hre, hfail⟩, hcur, hctl⟩ := c.escalated_spec (g := g) ((wc.furrow F.id).trans hF) h.on hcm x
  have hq : (c.escalated g F x).takeHalt g = c.escalated g F x :=
    takeHalt_quiet _ _ (by rw [hctl, wc.engines, hpend]) (by rw [hctl, wc.engines, hstep])
  obtain ⟨hwslot, hwhead⟩ := a.headland_written f (by rw [ha.plot]; exact hs) (headlandSlot_below h.area n) s.engines[g].hdlSp.isLt.le
    F.ctx x F.id g a.now n (n % 63) (s.headlandCount f top).2
  have hb : SameBytes b (c.escalated g F x) := ((b.count_samePlot ..).trans hplot).bytes
  have hnow : a.now = s.now := by rw [State.now, wa.rest]; rfl
  refine ⟨_, G, by rw [← hq]; exact execHeadlandHandler_due hF h, hG, hoff, hdesc, hre, hfail, fun j hj => ?_, ?_, hcur⟩
  · rw [hb.plotByte, hwslot j hj, hnow]
  · rw [hb.plotBytes, hwhead]

/-! Furrow switches (R79, R179) -/

theorem State.readyOn_of_pickNext {s : State} {g : Fin 96} {F : Furrow} (h : s.pickNext g = some F) : (s.readyOn g).isEmpty = false := by
  cases hl : s.readyOn g with
  | nil => rw [State.pickNext, hl] at h; cases h
  | cons _ _ => rfl

/-- An engine that runs no furrow is at a boundary where nothing comes before a switch (R199). -/
theorem State.switchable_idle {s : State} {g : Fin 96} (hc : s.engines[g].cur = none) (hp : s.engines[g].ctl.pend = false) :
    s.switchable g = true := by
  have hb : s.engines[g].atBoundary = true := by rw [Engine.atBoundary, hc]; rfl
  have hf : s.takesFirst g = false := by rw [State.takesFirst, hc]; rfl
  have hq : s.quiesceAsked g = false := by
    rw [State.quiesceAsked, hc, List.any_eq_false]
    exact fun m _ => by simp
  rw [State.switchable, State.quiesceable, State.haltable, hb, hf, hp, hq]
  rfl

/-- The Sheaf state that a furrow finds on its engine (R179). -/
def State.sheafOf (s : State) (g : Fin 96) (F : Furrow) : Sheaf :=
  match F.saveArea with
  | some a => Sheaf.ofImage (s.plotBytes (fieldOf g) a 768)
  | none => Sheaf.given

theorem State.loadSheaf_eq (s : State) (g : Fin 96) (F : Furrow) : ∃ u, PlotWork s u ∧ SamePlot s u ∧
    s.loadSheaf g F = u.updEngine g fun E => { E with sheaf := s.sheafOf g F } := by
  unfold State.loadSheaf State.sheafOf
  cases F.saveArea with
  | none => exact ⟨s, .refl s, .refl s, rfl⟩
  | some a => exact ⟨(s.noteRange (fieldOf g) a 1 48).1, s.noteRange_work 48 _ _ _, s.noteRange_samePlot 48 _ _ _, rfl⟩

/-- The state with a ready furrow on its engine. -/
def State.putOn (s : State) (g : Fin 96) (F : Furrow) : State :=
  (s.updFurrow F.id fun F => { F with ctxErr := none }).updEngine g fun E =>
    { E with cur := some F.id, lastLoaded := some F.id, sliceUp := false, data := [] }

theorem State.switchIn_none {s : State} {g : Fin 96} (h : s.pickNext g = none) :
    s.switchIn g = s.updEngine g fun E => { E with cur := none, sliceUp := false } := by
  rw [State.switchIn, h]

theorem State.switchIn_lost {s : State} {g : Fin 96} {F : Furrow} (h : s.pickNext g = some F) (hl : F.ctxLost = true) :
    s.switchIn g = (s.updEngine g fun E => { E with cur := none }).loseFurrow F.id 4 none := by
  rw [State.switchIn, h]
  dsimp only
  rw [if_pos hl]

theorem State.switchIn_same {s : State} {g : Fin 96} {F : Furrow} (h : s.pickNext g = some F) (hl : F.ctxLost = false)
    (he : s.engines[g].lastLoaded = some F.id) : s.switchIn g = s.putOn g F := by
  rw [State.switchIn, h]
  dsimp only
  rw [hl, if_neg (by decide), he, bne_self_eq_false, if_neg (by decide)]
  rfl

theorem State.switchIn_fresh {s : State} {g : Fin 96} {F : Furrow} (h : s.pickNext g = some F) (hl : F.ctxLost = false)
    (he : s.engines[g].lastLoaded ≠ some F.id) :
    s.switchIn g = (((s.putOn g F).loadSheaf g F).count 2 (g.val * 9 + 7) 1).emitSync g F.id F.ctx := by
  rw [State.switchIn, h]
  dsimp only
  rw [hl, if_neg (by decide), bne_iff_ne.mpr he, if_pos rfl]
  rfl

theorem State.loadSheaf_samePlot (s : State) (g : Fin 96) (F : Furrow) : SamePlot s (s.loadSheaf g F) := by
  obtain ⟨u, -, hu, he⟩ := s.loadSheaf_eq g F
  rw [he]
  exact hu.trans (u.updEngine_samePlot ..)

theorem TraceOnly.samePlot {s t : State} {g : Fin 96} (h : TraceOnly s t g) : SamePlot s t := .of_fields (by rw [h.rest]) (by rw [h.rest])

theorem State.putOn_samePlot (s : State) (g : Fin 96) (F : Furrow) : SamePlot s (s.putOn g F) :=
  (s.updFurrow_samePlot ..).trans (State.updEngine_samePlot ..)

/-- A furrow that comes onto its engine leaves Plot as it is. -/
theorem State.switchIn_samePlot (s : State) (g : Fin 96) : SamePlot s (s.switchIn g) := by
  cases h : s.pickNext g with
  | none => rw [State.switchIn_none h]; exact s.updEngine_samePlot ..
  | some F =>
    cases hl : F.ctxLost with
    | true =>
      rw [State.switchIn_lost h hl]
      exact (s.updEngine_samePlot ..).trans (State.loseFurrow_samePlot ..)
    | false =>
      by_cases he : s.engines[g].lastLoaded = some F.id
      · rw [State.switchIn_same h hl he]
        exact s.putOn_samePlot g F
      · rw [State.switchIn_fresh h hl he]
        exact (((s.putOn_samePlot g F).trans (State.loadSheaf_samePlot ..)).trans (State.count_samePlot ..)).trans
          (State.emitSync_traceOnly ..).samePlot

/-- The furrow that comes on: the engine, the furrow, and what else stands. -/
theorem State.switchIn_picked {s : State} {g : Fin 96} {F : Furrow} (hF : s.furrow? F.id = some F) (h : s.pickNext g = some F)
    (hl : F.ctxLost = false) :
    (s.switchIn g).engines[g].cur = some F.id ∧ (s.switchIn g).engines[g].lastLoaded = some F.id ∧
      (s.switchIn g).engines[g].sliceUp = false ∧ (s.switchIn g).furrow? F.id = some { F with ctxErr := none } ∧
      (∀ k : Fin 96, k ≠ g → (s.switchIn g).engines[k] = s.engines[k]) ∧
      (s.engines[g].lastLoaded ≠ some F.id → (s.switchIn g).engines[g].sheaf = s.sheafOf g F) := by
  have hm : (s.putOn g F).engines[g] =
      { s.engines[g] with cur := some F.id, lastLoaded := some F.id, sliceUp := false, data := [] } := State.updEngine_mine ..
  have hf : (s.putOn g F).furrow? F.id = some { F with ctxErr := none } := updFurrow_mine hF
  have ho (k : Fin 96) (hk : k ≠ g) : (s.putOn g F).engines[k] = s.engines[k] := State.updEngine_other _ _ hk
  by_cases he : s.engines[g].lastLoaded = some F.id
  · rw [State.switchIn_same h hl he, hm]
    exact ⟨rfl, rfl, rfl, hf, ho, fun hn => absurd he hn⟩
  · rw [State.switchIn_fresh h hl he]
    obtain ⟨u, hw, -, hu⟩ := (s.putOn g F).loadSheaf_eq g F
    have hs : (s.putOn g F).sheafOf g F = s.sheafOf g F := by
      unfold State.sheafOf
      simp only [(s.putOn_samePlot g F).bytes.plotBytes]
    generalize hv : ((s.putOn g F).loadSheaf g F).count 2 (g.val * 9 + 7) 1 = v
    have hve : v.engines = (u.updEngine g fun E => { E with sheaf := s.sheafOf g F }).engines := by
      rw [← hv, State.count_engines, hu, hs]
    have hvm : v.engines[g] = { (s.putOn g F).engines[g] with sheaf := s.sheafOf g F } := by
      rw [hve, State.updEngine_mine, hw.engines]
    have hvf : v.furrows = (s.putOn g F).furrows := by rw [← hv, State.count_furrows, hu, ← hw.furrows]; rfl
    have ht := v.emitSync_traceOnly g F.id F.ctx
    rw [ht.engine, hvm, hm]
    refine ⟨rfl, rfl, rfl, ?_, fun k hk => ?_, fun _ => rfl⟩
    · have e : (v.emitSync g F.id F.ctx).furrows = v.furrows := by rw [ht.rest]
      rw [furrow_of_furrows (e.trans hvf), hf]
    · rw [ht.engines k hk, hve, State.updEngine_other _ _ hk, hw.engines, ho k hk]

theorem Sheaf.image_length (h : Sheaf) : h.image.length = 768 := by
  have hv : (h.v.toList.flatMap fun r => bytesOf r.toList).length = 512 := by
    rw [List.length_flatMap, List.map_congr_left (g := fun _ => 64) fun r _ => by rw [bytesOf_length, Vector.length_toList]]
    simp
  have ha : (h.acc.toList.flatMap bytes64).length = 128 := by
    rw [List.length_flatMap, List.map_congr_left (f := fun w => (bytes64 w).length) (g := fun _ => 8) fun _ _ => rfl]
    simp
  rw [Sheaf.image, List.length_append, List.length_append, List.length_append, hv, ha, bytes32_length, List.length_replicate]

/-- The Sheaf state of a furrow that leaves stands in its save area, and nothing else of Plot has changed (R178, R179). -/
theorem furrowSwitch_saves {s : State} {g : Fin 96} {F : Furrow} {a : Nat} (hF : s.furrow? F.id = some F) (hst : s.engines[g].st = .awake)
    (hc : s.engines[g].cur = some F.id) (hsw : s.switchable g = true) (hh : s.engines[g].hold = none) (hd : s.switchDue g = true)
    (hcs : mapFind 0x80 s.engines[g].csErr = none) (hg : F.engine = some g) (ha : F.saveArea = some a)
    (hdirty : s.engines[g].sheaf.dirty = true) :
    ∃ t, exec (.furrowSwitch g) s = .next t ∧ SameBytes (s.plotWrite (fieldOf g) a s.engines[g].sheaf.image) t := by
  have hsave : s.saveSheaf g F = (s.plotWrite (fieldOf g) a s.engines[g].sheaf.image).updEngine g fun E =>
      { E with sheaf := { E.sheaf with dirty := false } } := by
    rw [State.saveSheaf, ha]
    dsimp only
    rw [if_pos hdirty]
  have hrun : ∃ h : Engine → Engine, exec (.furrowSwitch g) s = .next (((s.saveSheaf g F).updEngine g h).switchIn g) := by
    apply Exists.intro
    show execFurrowSwitch g s = _
    unfold execFurrowSwitch
    dsimp only
    rw [hst, hsw, hd, hc, if_neg (by decide), State.csFetch_clean hcs]
    dsimp only
    rw [show (some F.id).bind s.furrow? = some F from hF]
    dsimp only
    rw [State.breakHold_none hh, if_pos hg]
  obtain ⟨h, hrun⟩ := hrun
  rw [hsave] at hrun
  exact ⟨_, hrun, (((State.updEngine_samePlot ..).trans (State.updEngine_samePlot ..)).trans (State.switchIn_samePlot ..)).bytes⟩

theorem furrowSwitch_idle {s : State} {g : Fin 96} {F : Furrow} (hst : s.engines[g].st = .awake) (hc : s.engines[g].cur = none)
    (hp : s.engines[g].ctl.pend = false) (h : s.pickNext g = some F) (hcs : mapFind 0x80 s.engines[g].csErr = none) :
    exec (.furrowSwitch g) s = .next (s.switchIn g) := by
  have hd : s.switchDue g = true := by
    rw [State.switchDue, hc]
    dsimp only
    rw [State.readyOn_of_pickNext h]
    rfl
  show execFurrowSwitch g s = _
  unfold execFurrowSwitch
  dsimp only
  rw [hst, State.switchable_idle hc hp, hd, hc, if_neg (by decide), State.csFetch_clean hcs]
  rfl

/-! Time slices, samples of the time, the customer watchdog (R79, R116, R238) -/

theorem timeSliceExpiry_ends {s : State} {g : Fin 96} {F P : Furrow} (hF : s.furrow? F.id = some F) (hst : s.engines[g].st = .awake)
    (hc : s.engines[g].cur = some F.id) (hP : P ∈ s.readyOn g) (hne : P.id ≠ F.id) (hp : F.desc.priority ≤ P.desc.priority) :
    exec (.timeSliceExpiry g) s = .next (s.updEngine g fun E => { E with sliceUp := true }) := by
  have hany : ((s.readyOn g).any fun H => H.id != F.id && decide (F.desc.priority ≤ H.desc.priority)) = true :=
    List.any_eq_true.mpr ⟨P, hP, by rw [bne_iff_ne.mpr hne, decide_eq_true hp]; rfl⟩
  show execTimeSliceExpiry g s = _
  unfold execTimeSliceExpiry
  dsimp only
  rw [hc, show (some F.id).bind s.furrow? = some F from hF]
  dsimp only
  rw [if_pos ⟨hst, hany⟩]

theorem timeLoRead_samples {s : State} {g : Fin 96} {fid : Nat} (hc : s.engines[g].cur = some fid) :
    exec (.timeLoRead g) s = .next (s.updFurrow fid fun F => { F with ctx := { F.ctx with timeSample := s.now } }) := by
  show execTimeLoRead g s = _
  rw [execTimeLoRead, hc]

/-- A customer microprogram that runs too long raises vector 14 at its instruction (R238). -/
theorem customerWatchdogExpiry_over {s : State} {g : Fin 96} {pc : Word} (hp : s.engines[g].phase = .customerOver pc) :
    exec (.customerWatchdogExpiry g) s = .next (s.updEngine g fun E =>
      { E with
        phase := .faulted
          { vector := 14, pc := pc, addr := 0, slot := false, seg := 0, fetch := false, write := false, more := 0
            detail := 0xFF03 } }) := by
  show execCustomerWatchdogExpiry g s = _
  rw [execCustomerWatchdogExpiry, hp]

/-- Settles O54: each event of an engine, the furrow that leaves or comes on, and what stands. An escalated furrow that waits for its
restart is UNPLACED in the model's choice (log 30). -/
theorem engineEvents : Obligations.EngineEvents := by
  intro s g F P x pc b a E f others top n slot hF
  refine ⟨?headland, ?comesOn, ?leaves, ?slice, ?hold, ?customer, ?sample⟩
  case headland =>
    exact fun hp hc hg hmis htop hhead hslot hcs hpend hstep hs hm =>
      headlandHandler_written hF ⟨hp, hc, hg, hmis, htop, hhead, hslot, hcs⟩ hpend hstep hs hm
  case comesOn =>
    intro hst hc hp h hl hcs
    obtain ⟨hcur, hlast, hslice, hf, ho, hsheaf⟩ := State.switchIn_picked hF h hl
    exact ⟨_, furrowSwitch_idle hst hc hp h hcs, hcur, hlast, hslice, hf, ho, (s.switchIn_samePlot g).plot, hsheaf⟩
  case leaves =>
    intro hst hc hsw hh hd hcs hg ha hle hdirty hs
    obtain ⟨t, ht, hb⟩ := furrowSwitch_saves hF hst hc hsw hh hd hcs hg ha hdirty
    have hlen := s.engines[g].sheaf.image_length
    refine ⟨t, ht, ?_, fun h y hy => ?_⟩
    · rw [hb.plotBytes]
      exact State.plotBytes_eq hlen fun j hj => State.plotByte_plotWrite_same _ _ _ _ hs (by omega) j (by omega)
    · rw [hb.plotByte]
      exact State.plotByte_plotWrite_other _ _ _ _ _ _ fun j hj => hy j (by omega)
  case slice =>
    exact fun hst hc hP hne hp => ⟨_, timeSliceExpiry_ends hF hst hc hP hne hp, State.updEngine_mine .., fun k hk =>
      State.updEngine_other _ _ hk, rfl⟩
  case hold =>
    intro hh hc
    refine ⟨s.breakHold g, rfl, ?_⟩
    rw [State.breakHold_held hh hc]
    exact ⟨State.updEngine_mine .., updFurrow_mine hF, fun k hk => State.updEngine_other _ _ hk,
      fun id hne => updFurrow_other _ hne, rfl⟩
  case customer =>
    intro hp
    exact ⟨_, _, customerWatchdogExpiry_over hp, State.updEngine_mine .., rfl, rfl, fun k hk => State.updEngine_other _ _ hk, rfl⟩
  case sample =>
    exact fun hc => ⟨_, timeLoRead_samples hc, updFurrow_mine hF, fun id hne => updFurrow_other _ hne, rfl⟩

end Sys2Proof.Machine
end

section
/-! PROOFS. Plot taken, filled, handed over, copied and released for a furrow, and its start at ENTRY (R80, R95, R101, R127, R252, R253). -/

namespace Sys2Proof.Machine

/-- t differs from s by work on Plot and its banks, and by headland stacks given or given up. -/
structure AllocWork (s t : State) : Prop where
  rest : t = { s with fields := t.fields, engines := t.engines, plot := t.plot, seed := t.seed, ledger := t.ledger, tally := t.tally }
  engine : ∀ g : Fin 96, t.engines[g] = { s.engines[g] with hdlSp := t.engines[g].hdlSp }
  field : ∀ f : Fin 4, t.fields[f] =
    { s.fields[f] with banks := t.fields[f].banks, ecc := t.fields[f].ecc, known := t.fields[f].known }

theorem PlotWork.alloc {s t : State} (h : PlotWork s t) : AllocWork s t :=
  ⟨by rw [h.rest], fun g => by rw [h.engines], h.field⟩

theorem Released.alloc {s t : State} (h : Released s t) : AllocWork s t :=
  ⟨by rw [h.rest], h.engine, fun f => by rw [h.field f]⟩

namespace AllocWork

variable {s t u : State}

theorem refl (s : State) : AllocWork s s := ⟨rfl, fun _ => rfl, fun _ => rfl⟩

theorem trans (h : AllocWork s t) (h' : AllocWork t u) : AllocWork s u :=
  ⟨by rw [h'.rest, h.rest], fun g => by rw [h'.engine g, h.engine g], fun f => by rw [h'.field f, h.field f]⟩

theorem furrows (h : AllocWork s t) : t.furrows = s.furrows := by rw [h.rest]
theorem furrow (h : AllocWork s t) (id : Nat) : t.furrow? id = s.furrow? id := furrow_of_furrows h.furrows id
theorem sower (h : AllocWork s t) : t.sower = s.sower := by rw [h.rest]
theorem mailboxes (h : AllocWork s t) : t.mailboxes = s.mailboxes := by rw [h.rest]
theorem mig (h : AllocWork s t) (id : Nat) : t.mig? id = s.mig? id := mig_of_sower h.sower id
theorem engineSt (h : AllocWork s t) (g : Fin 96) : t.engines[g].st = s.engines[g].st := by rw [h.engine g]
theorem retireDue (h : AllocWork s t) (g : Fin 96) : t.engines[g].retireDue = s.engines[g].retireDue := by rw [h.engine g]
theorem order (h : AllocWork s t) (g : Fin 96) : t.engines[g].order = s.engines[g].order := by rw [h.engine g]

end AllocWork

/-! Plot that is taken and filled (R80, R208, R253) -/

theorem State.takeAlloc_work (s : State) (g : Fin 96) (a : Alloc) : AllocWork s (s.takeAlloc g a) := by
  unfold State.takeAlloc
  extract_lets f u
  have hu : AllocWork s u := (foldl_work _ s fun t b => t.updBank_work ..).alloc
  split
  · rename_i top _
    have hv : AllocWork u (u.updEngine g fun E => { E with hdlSp := BitVec.ofNat 22 top }) := by
      refine ⟨rfl, fun k => ?_, fun _ => rfl⟩
      by_cases e : k = g
      · subst e; rw [State.updEngine_mine]
      · rw [State.updEngine_other _ _ e]
    exact (hu.trans hv).trans (State.plotWrite_work ..).alloc
  · exact hu

theorem State.fillAlloc_work (s : State) (f : Fin 4) (a : Alloc) : PlotWork s (s.fillAlloc f a) := by
  refine (foldl_work a.banks s fun t b => ?_).trans (foldl_work a.extents _ fun t e => ?_)
  · split
    · exact .refl t
    · exact t.zeroBank_work f b.1
  · split
    · exact .refl t
    · exact t.plotWrite_work ..

theorem State.putExtent0_work (s : State) (f : Fin 4) (e : List Extent) (off : Nat) (l : List Byte) : PlotWork s (s.putExtent0 f e off l) := by
  unfold State.putExtent0
  split
  · exact s.plotWrite_work ..
  · exact .refl s

/-- A furrow without Plot. -/
def State.disowned (s : State) (fid : Nat) : State := s.updFurrow fid fun F => { F with extents := [], home := none }

theorem State.releasePlot_none {s : State} {fid : Nat} (h : s.furrow? fid = none) : s.releasePlot fid = s := by
  rw [State.releasePlot, h]

/-- A furrow's Plot is released: its banks that are empty then become FREE. -/
theorem State.releasePlot_released {s : State} {fid : Nat} {F : Furrow} (h : s.furrow? fid = some F) :
    Released (s.disowned fid) (s.releasePlot fid) := by
  rw [State.releasePlot, h]
  dsimp only
  split
  · exact (s.disowned fid).releaseEmpty_released _
  · exact .refl (s.disowned fid)

/-! Plot that stays with its furrow (R101, R252, R258, R419) -/

theorem State.handOver_work (s : State) (F : Furrow) (g : Fin 96) : PlotWork s (s.handOver F g) := by
  unfold State.handOver
  split
  · exact .refl s
  · refine foldl_work _ s fun t b => ?_
    dsimp only
    split
    · exact t.updBank_work ..
    · exact .refl t

theorem State.adopt_work (s : State) (F : Furrow) (g : Fin 96) : PlotWork s (s.adopt F g) := by
  refine foldl_work _ s fun t b => ?_
  split
  · exact t.updBank_work ..
  · exact .refl t

theorem State.copyBad_work (n : Nat) (s : State) (f : Fin 4) (a : Nat) (g : Fin 4) (b : Nat) : PlotWork s (s.copyBad f a g b n) := by
  induction n generalizing s a b with
  | zero => exact .refl s
  | succ n ih =>
    unfold State.copyBad
    refine PlotWork.trans ?_ (ih ..)
    split
    · exact .refl s
    · exact .refl s
    · exact s.setEcc_work ..

theorem State.copyRange_work (s : State) (f : Fin 4) (a : Nat) (g : Fin 4) (b n : Nat) : PlotWork s (s.copyRange f a g b n) :=
  ((s.noteRange_work (wordsSpan a n) f a 1).trans (State.plotWrite_work ..)).trans (State.copyBad_work ..)

theorem State.copyExtents_work (s : State) (f : Fin 4) (old new : List Extent) : PlotWork s (s.copyExtents f old new) :=
  foldl_work _ s fun t _ => t.copyRange_work ..

/-! Starts at ENTRY (R127, R128) -/

/-- A furrow at ENTRY on an engine, in Plot of its Field. -/
def Furrow.startedOn (F : Furrow) (g : Fin 96) (extents : List Extent) (cause n : Nat) (ver : Word × Word) : Furrow :=
  { F with
    st := .running, engine := some g, home := some (fieldOf g), extents := extents
    ctx := startCtx F (((extents[0]?).map Extent.len).getD 0), waitMask := none, mbar := false, restarts := n, rings := [], enSeen := []
    doorbells := [], sels := if cause = 0 then [] else F.sels.map Selector.restart, ctxErr := none, fetched := [], runAtCommit := false
    startOnCommit := false, verAtStart := if cause = 0 then ver else F.verAtStart }

/-- A start writes firmware, start record and blocks, puts the furrow at ENTRY and into its engine's run list. -/
theorem State.startOn_eq {s : State} {fid : Nat} {F : Furrow} (hF : s.furrow? fid = some F) (g : Fin 96) (extents : List Extent)
    (code : Option (List Byte)) (cause : Nat) : ∃ u ver, PlotWork s u ∧ s.startOn fid g extents code cause =
      (u.updFurrow fid fun G => G.startedOn g extents cause (if cause = 0 then F.restarts else F.restarts + 1) ver).joinEngine fid g := by
  unfold State.startOn
  rw [hF]
  dsimp only
  refine ⟨_, _, ?_, rfl⟩
  refine PlotWork.trans ?_ ((State.putExtent0_work ..).trans (State.putExtent0_work ..))
  split
  · exact s.putExtent0_work ..
  · exact .refl s

end Sys2Proof.Machine
end

section
/-! PROOFS. FURROW_CREATE, FURROW_START, FURROW_STOP, FURROW_DESTROY and FURROW_QUERY (O38). -/

namespace Sys2Proof.Machine

/-! Commands that end (R49, R51, R73) -/

section
variable {s : State} {mb : Fin 16} {k : BitVec 16} {op : Nat} {c : ActiveCmd} {rest : List ActiveCmd} {i : Instr}

/-- The end of a command in a state with the mailboxes of u. -/
theorem ends_finish {u v : State} (hf : takeFirst (fun d => d.k == k) u.mailboxes[mb].active = some (c, rest))
    (hm : v.mailboxes = u.mailboxes) (st : Nat) (r : List Word) : Ends u (v.finish mb k st r) mb c rest st r none := by
  have hv : takeFirst (fun d => d.k == k) v.mailboxes[mb].active = some (c, rest) := by rw [hm]; exact hf
  constructor
  · rw [v.finish_mine hv, hm]
    rfl
  · intro n hn
    rw [v.finish_other k st r none hn, hm]

theorem Runs.endsAlone (h : Runs s mb k op c rest) {st : Nat} {r : List Word} (he : exec i s = .next (s.finish mb k st r)) :
    EndsAlone i s mb c rest st r := by
  refine ⟨_, he, h.ends rfl st r, rfl, ?_, ?_⟩ <;> rw [s.finish_mine h.first] <;> rfl

theorem Runs.endsOn (h : Runs s mb k op c rest) {m : State} (hm : m.mailboxes = s.mailboxes) {st : Nat} {r : List Word}
    (he : exec i s = .next (m.finish mb k st r)) : EndsOn m i s mb c rest st r :=
  ⟨_, he, ends_finish (by rw [hm]; exact h.first) rfl st r, rfl⟩

/-- Requests of the supervisor change nothing of a mailbox but its requests. -/
theorem State.asks_mailbox (s : State) (n m : Fin 16) (l : List Txn) :
    (s.asks n l).mailboxes[m] = { s.mailboxes[m] with reqs := (s.asks n l).mailboxes[m].reqs } := by
  unfold State.asks
  rw [State.updMailbox_mailboxes]
  by_cases e : n = m
  · subst e; rw [vupd_same]
  · rw [vupd_other _ _ _ _ e]

theorem State.asks_other (s : State) {n m : Fin 16} (h : m ≠ n) (l : List Txn) : (s.asks n l).mailboxes[m] = s.mailboxes[m] :=
  vupd_other _ _ _ _ fun e => h e.symm

/-- A command that ends after requests of the supervisor for any mailbox. -/
theorem Runs.endsOn_asks (h : Runs s mb k op c rest) {n : Fin 16} {l : List Txn} {st : Nat} {r : List Word}
    (he : exec i s = .next ((s.asks n l).finish mb k st r)) : EndsOn (s.asks n l) i s mb c rest st r :=
  ⟨_, he, ends_finish (by rw [s.asks_mailbox]; exact h.first) rfl st r, rfl⟩

/-- A command that ends after its own buffer has been asked for: the requests are no difference of the mailbox. -/
theorem Runs.endsOn_own (h : Runs s mb k op c rest) {m u : State} {l : List Txn} (hm : m.mailboxes = s.mailboxes)
    (hu : u = { m with mailboxes := (s.asks mb l).mailboxes }) {st : Nat} {r : List Word} (he : exec i s = .next (u.finish mb k st r)) :
    EndsOn m i s mb c rest st r := by
  have hb : u.mailboxes = (s.asks mb l).mailboxes := by rw [hu]
  have hf : takeFirst (fun d => d.k == k) u.mailboxes[mb].active = some (c, rest) := by rw [hb, s.asks_mailbox]; exact h.first
  refine ⟨_, he, ⟨?_, fun n hn => ?_⟩, ?_⟩
  · rw [u.finish_mine hf, hb, s.asks_mailbox, hm]
    rfl
  · rw [u.finish_other k st r none hn, hb, s.asks_other hn, hm]
  · rw [u.finish_rest, hu]

theorem onFurrow_ok (h : Runs s mb k op c rest) {F : Furrow} {moving : Bool} (hn : s.named mb c moving = .ok F)
    (x : ActiveCmd → Furrow → State) : s.onFurrow mb k op moving x = x c F := by
  rw [State.onFurrow, h.cmd]
  dsimp only
  rw [hn]

theorem onFurrow_error (h : Runs s mb k op c rest) {e : Nat} {moving : Bool} (hn : s.named mb c moving = .error e)
    (x : ActiveCmd → Furrow → State) : s.onFurrow mb k op moving x = s.finish mb k e [] := by
  rw [State.onFurrow, h.cmd]
  dsimp only
  rw [hn]

end

/-- A furrow that a command may act on: it is there, and no migration of it stands. -/
theorem State.named_ok {s : State} {mb : Fin 16} {c : ActiveCmd} {F : Furrow} {moving : Bool} (h : s.named mb c moving = .ok F) :
    s.furrow? F.id = some F ∧ (moving = false → s.mig? F.id = none) := by
  unfold State.named at h
  split at h
  · cases h
  · rename_i G hG
    split at h
    · cases h
    · split at h
      · cases h
      · rename_i hb
        cases h
        refine ⟨by rw [furrow_id hG]; exact hG, fun hm => ?_⟩
        subst hm
        simp only [Bool.not_false, Bool.true_and, Bool.or_eq_true, not_or, Bool.not_eq_true, List.any_eq_false] at hb
        exact List.find?_eq_none.mpr fun m hm => Bool.eq_false_iff.mp (hb.1.2 m hm)

/-! FURROW_CREATE (R75) -/

theorem State.asks_rightsOf (s : State) (n m : Fin 16) (l : List Txn) : (s.asks n l).rightsOf m = s.rightsOf m := by
  have h : (s.asks n l).mailboxes[m].rights = s.mailboxes[m].rights := by rw [s.asks_mailbox]
  rw [State.rightsOf, h]
  rfl

theorem State.asks_createCheck (s : State) (n mb : Fin 16) (t : List Txn) (l : List Byte) :
    (s.asks n t).createCheck mb l = s.createCheck mb l := by
  have hs (m : BitVec 4) : (s.asks n t).sessionError mb m = s.sessionError mb m := rfl
  have ht (d : Desc) : (s.asks n t).twinOk d = s.twinOk d := rfl
  have hf (j : Nat) : (s.asks n t).furrow? j = s.furrow? j := rfl
  have hr (f : Fin 4) (d : Desc) : (s.asks n t).canReserve f d = s.canReserve f d := rfl
  unfold State.createCheck
  simp only [s.asks_rightsOf, hs, ht, hf, hr]

/-- The ID of a furrow that may be created is the lowest free one. -/
theorem State.createCheck_id {s : State} {mb : Fin 16} {l : List Byte} {f : Fin 4} {id : Nat} (h : s.createCheck mb l = .ok (f, id)) :
    s.furrow? id = none ∧ (∀ j, j < id → s.furrow? j ≠ none) ∧ id < 4096 := by
  have hid : (List.range 4096).find? (fun i => (s.furrow? i).isNone) = some id := by
    unfold State.createCheck at h
    dsimp only at h
    split at h
    · cases h
    · split at h
      · cases h
      · split at h
        · cases h
        · split at h
          · cases h
          · split at h
            · cases h
            · split at h
              · rename_i hi _
                cases h
                exact hi
              · cases h
  obtain ⟨hid, hmem, hlow⟩ := List.find?_range_eq_some.mp hid
  exact ⟨by simpa using hid, fun j hj hn => by simpa [hn] using hlow j hj, List.mem_range.mp hmem⟩

/-! FURROW_START (R77, R88, R127, R492) -/

theorem Furrow.firmware_bad {F : Furrow} {l : List Byte} (h : crc32cOf (bytesAt l 0 F.desc.codeLen) ≠ F.desc.codeCrc) :
    F.firmware (.ok l) = .error eBufCrc := if_pos h

theorem Furrow.firmware_ok {F : Furrow} {l : List Byte} (h : crc32cOf (bytesAt l 0 F.desc.codeLen) = F.desc.codeCrc) :
    F.firmware (.ok l) = .ok (bytesAt l 0 F.desc.codeLen) := if_neg fun hn => hn h

theorem State.noteBreach_rest (s : State) (fid : Nat) (g : Fin 96) (b : Bool) : s.noteBreach fid g b =
    { s with ledger := (s.noteBreach fid g b).ledger, tally := (s.noteBreach fid g b).tally } := by
  unfold State.noteBreach
  split
  · rw [State.log_rest]
  · rfl

theorem State.noteBreach_furrows (s : State) (fid : Nat) (g : Fin 96) (b : Bool) : (s.noteBreach fid g b).furrows = s.furrows := by
  rw [s.noteBreach_rest]

theorem State.noteBreach_mailboxes (s : State) (fid : Nat) (g : Fin 96) (b : Bool) : (s.noteBreach fid g b).mailboxes = s.mailboxes := by
  rw [s.noteBreach_rest]

/-- A furrow's first start: it runs at ENTRY on its engine, and no mailbox has changed. -/
theorem State.firstStart_spec {s : State} {F : Furrow} (hF : s.furrow? F.id = some F) {g : Fin 96} {a : Alloc} (ha : s.alloc g F none none = some a)
    (code : List Byte) : (s.firstStart F g none code).mailboxes = s.mailboxes ∧
      ∃ ver, (s.firstStart F g none code).furrow? F.id = some (F.startedOn g a.extents 0 F.restarts ver) := by
  have hw : AllocWork s ((s.takeAlloc g a).fillAlloc (fieldOf g) a) :=
    (s.takeAlloc_work g a).trans (State.fillAlloc_work ..).alloc
  obtain ⟨u, ver, hu, he⟩ := State.startOn_eq ((hw.furrow F.id).trans hF) g a.extents (some code) 0
  rw [State.firstStart, ha]
  dsimp only
  rw [he]
  refine ⟨?_, ver, ?_⟩
  · rw [State.joinEngine_rest]
    exact hu.mailboxes.trans hw.mailboxes
  · rw [furrow_of_furrows (State.joinEngine_furrows ..)]
    exact updFurrow_mine ((hu.furrow F.id).trans ((hw.furrow F.id).trans hF))

section
variable {s : State} {mb : Fin 16} {k : BitVec 16} {c : ActiveCmd} {rest : List ActiveCmd} {F : Furrow} {l : List Byte}

/-- A created furrow that may start has its firmware fetched, and acts on what the fetch gives. -/
theorem furrowStart_fetches (h : Runs s mb k 0x0302 c rest) (hn : s.named mb c false = .ok F) (hst : F.st = .created)
    (hb : s.bindings F ≠ 0) (ht : (s.twinStart F).1 = true) (hw : s.codeWaits F = false) :
    (∀ e, F.firmware (.ok l) = .error e → exec (.furrowStart mb k (.ok l)) s = .next ((s.readCode F).finish mb k e [])) ∧
      ∀ b, F.firmware (.ok l) = .ok b → exec (.furrowStart mb k (.ok l)) s = .next ((s.readCode F).startCreated mb k F b) := by
  refine ⟨fun e hv => ?_, fun b hv => ?_⟩
  all_goals
    show execFurrowStart mb k (.ok l) s = _
    rw [execFurrowStart, onFurrow_ok h hn, hst]
    dsimp only
    rw [if_neg (by simp [hb, ht]), hw, if_neg (by decide), hv]

/-- A fetched start in Rolling mode, with its bindings committed and room on an engine. -/
theorem State.startCreated_rolling {u : State} {code : List Byte} {g : Fin 96} {b : Bool} {a : Alloc} (hfit : F.blockCanFit = true)
    (hs : u.sealed = false) (hbind : u.bindings F = 2) (htwin : (u.twinStart F).2 = false) (hc : u.choose F (fun _ => true) = some (g, b))
    (ha : u.alloc g F none none = some a) (hblock : F.blockFits a.extents = true) :
    u.startCreated mb k F code = (((u.firstStart F g none code).noteBreach F.id g b).endRun F.id).finish mb k eOk [] := by
  rw [State.startCreated, hfit, hs, hbind, htwin, if_neg (by decide), if_neg (by decide), if_neg (by decide), hc]
  dsimp only
  rw [ha, if_neg]
  rw [Furrow.allocFits, Option.any_some, hblock]
  decide

end

/-! FURROW_DESTROY (R85, R253, R327, R360) -/

/-- Every furrow of t has the descriptor it has in s. -/
structure SameDescs (s t : State) : Prop where
  desc : ∀ id, (t.furrow? id).map Furrow.desc = (s.furrow? id).map Furrow.desc

namespace SameDescs

variable {s t u : State}

theorem trans (h : SameDescs s t) (h' : SameDescs t u) : SameDescs s u := ⟨fun id => (h'.desc id).trans (h.desc id)⟩

theorem of_furrows (h : t.furrows = s.furrows) : SameDescs s t := ⟨fun id => by rw [furrow_of_furrows h]⟩

end SameDescs

theorem State.updFurrow_descs (s : State) (fid : Nat) (h : Furrow → Furrow) (hi : ∀ G, (h G).id = G.id := by exact fun _ => rfl)
    (hd : ∀ G, (h G).desc = G.desc := by exact fun _ => rfl) : SameDescs s (s.updFurrow fid h) := by
  refine ⟨fun id => ?_⟩
  rw [updFurrow_furrow s fid h hi]
  split
  · rw [Option.map_map]
    exact congrFun (congrArg Option.map (funext hd)) _
  · rfl

theorem State.breakHold_descs (s : State) (g : Fin 96) : SameDescs s (s.breakHold g) := by
  have hu : SameDescs s (s.updEngine g fun E => { E with hold := none }) := .of_furrows rfl
  unfold State.breakHold
  dsimp only
  split
  · exact .of_furrows rfl
  · split
    · exact hu.trans (State.updFurrow_descs ..)
    · exact hu

theorem State.offEngine_descs (s : State) (fid : Nat) (F : Furrow) : SameDescs s (s.offEngine fid F) := by
  unfold State.offEngine
  split
  · split
    · exact (s.breakHold_descs _).trans (.of_furrows rfl)
    · exact .of_furrows rfl
  · exact .of_furrows rfl

theorem State.takeOff_descs (s : State) (fid : Nat) (st : FurrowSt) : SameDescs s (s.takeOff fid st) := by
  cases h : s.furrow? fid with
  | none => rw [State.takeOff_none h]; exact .of_furrows rfl
  | some F =>
    rw [State.takeOff_eq h]
    have he : SameDescs s (((s.offEngine fid F).abortJobs fid).endMig fid) :=
      (s.offEngine_descs fid F).trans (.of_furrows (State.endMig_furrows ((s.offEngine fid F).abortJobs fid) fid))
    exact he.trans (State.updFurrow_descs ..)

theorem State.releasePlot_descs (s : State) (fid : Nat) : SameDescs s (s.releasePlot fid) := by
  cases h : s.furrow? fid with
  | none => rw [State.releasePlot_none h]; exact .of_furrows rfl
  | some F => exact (s.updFurrow_descs fid _).trans (.of_furrows (State.releasePlot_released h).furrows)

theorem State.parkDrills_rest (s : State) (f : Fin 4) (m : BitVec 16) : s.parkDrills f m = { s with fields := (s.parkDrills f m).fields } :=
  foldl_rel (R := fun (s t : State) => t = { s with fields := t.fields }) (fun _ => rfl) (fun h h' => by rw [h', h]) _ s fun t d => by
    dsimp only
    split
    · split <;> rfl
    · rfl

/-- The furrow's pair ends. -/
def State.unpaired (s : State) (F : Furrow) : State :=
  match F.twin with
  | some t => s.updFurrow t fun T => { T with twin := none }
  | none => s

/-- The furrow's drills park. -/
def State.parked (s : State) (F : Furrow) : State :=
  match F.home with
  | some f => s.parkDrills f F.desc.drills
  | none => s

theorem State.unpaired_rest (s : State) (F : Furrow) : s.unpaired F = { s with furrows := (s.unpaired F).furrows } := by
  unfold State.unpaired
  split <;> rfl

theorem State.unpaired_descs (s : State) (F : Furrow) : SameDescs s (s.unpaired F) := by
  unfold State.unpaired
  split
  · exact s.updFurrow_descs _ _
  · exact .of_furrows rfl

theorem State.parked_rest (s : State) (F : Furrow) : s.parked F = { s with fields := (s.parked F).fields } := by
  unfold State.parked
  split
  · exact s.parkDrills_rest ..
  · rfl

/-- The furrow's pair ends, its drills park and its timers stop. -/
def State.disband (s : State) (F : Furrow) : State := ((s.unpaired F).parked F).stopTimers F.id

theorem State.disband_rest (s : State) (F : Furrow) : s.disband F =
    { s with furrows := (s.disband F).furrows, fields := (s.disband F).fields, almanac := (s.disband F).almanac } := by
  unfold State.disband State.stopTimers State.updAlm
  rw [State.parked_rest, State.unpaired_rest]

theorem State.parked_furrows (s : State) (F : Furrow) : (s.parked F).furrows = s.furrows := by rw [s.parked_rest]

theorem State.stopTimers_furrows (s : State) (fid : Nat) : (s.stopTimers fid).furrows = s.furrows := by
  rw [State.stopTimers, State.updAlm_furrows]

theorem State.disband_descs (s : State) (F : Furrow) : SameDescs s (s.disband F) :=
  (s.unpaired_descs F).trans (.of_furrows ((State.stopTimers_furrows ..).trans ((s.unpaired F).parked_furrows F)))

/-- The furrow is off its engine, and its Plot is released. -/
def State.cleared (s : State) (F : Furrow) : State := ((s.disband F).takeOff F.id .failed).releasePlot F.id

theorem State.destroy_eq (s : State) (F : Furrow) : s.destroy F =
    { (s.cleared F).updSower fun W => { W with restarts := W.restarts.filter fun r => r.1 ≠ F.id } with
      furrows := (s.cleared F).furrows.filter fun G => G.id ≠ F.id } := rfl

theorem State.cleared_descs (s : State) (F : Furrow) : SameDescs s (s.cleared F) :=
  ((s.disband_descs F).trans (State.takeOff_descs _ _ _)).trans (State.releasePlot_descs _ _)

/-- A furrow without a migration leaves the mailboxes, Plot and the Seed store as they are. -/
theorem State.cleared_keeps {s : State} {F : Furrow} (hm : s.mig? F.id = none) : (s.cleared F).mailboxes = s.mailboxes ∧
    (s.cleared F).plot = s.plot ∧ (s.cleared F).seed = s.seed ∧ (s.cleared F).host = s.host := by
  have hd := s.disband_rest F
  have ho := (s.disband F).takeOff_rest F.id .failed
  have hmail : ((s.disband F).takeOff F.id .failed).mailboxes = s.mailboxes := by
    cases h : (s.disband F).furrow? F.id with
    | none => rw [State.takeOff_none h, hd]
    | some G => rw [(State.takeOff_noMig h ((mig_of_sower (by rw [hd]) _).trans hm) .failed).1, hd]
  have hkeep : ((s.disband F).takeOff F.id .failed).plot = s.plot ∧ ((s.disband F).takeOff F.id .failed).seed = s.seed ∧
      ((s.disband F).takeOff F.id .failed).host = s.host := by
    rw [ho, hd]
    exact ⟨rfl, rfl, rfl⟩
  unfold State.cleared
  generalize (s.disband F).takeOff F.id .failed = u at hmail hkeep ⊢
  cases h : u.furrow? F.id with
  | none => rw [State.releasePlot_none h]; exact ⟨hmail, hkeep⟩
  | some G => rw [(State.releasePlot_released h).rest]; exact ⟨hmail, hkeep⟩

theorem find_filter_other (l : List Furrow) {i j : Nat} (h : i ≠ j) :
    (l.filter fun G => G.id ≠ j).find? (fun G => G.id == i) = l.find? fun G => G.id == i := by
  rw [List.find?_filter]
  refine List.find?_congr fun G _ => ?_
  by_cases e : G.id = i
  · simp [e, h]
  · simp [e]

/-- A destroyed furrow is gone, and the others keep their descriptors. -/
theorem State.destroy_furrow (s : State) (F : Furrow) : (s.destroy F).furrow? F.id = none ∧
    ∀ i, i ≠ F.id → ((s.destroy F).furrow? i).map Furrow.desc = (s.furrow? i).map Furrow.desc := by
  rw [State.destroy_eq]
  refine ⟨List.find?_eq_none.mpr fun G hG => by simpa using (List.mem_filter.mp hG).2, fun i hi => ?_⟩
  rw [← (s.cleared_descs F).desc i]
  exact congrArg (Option.map Furrow.desc) (find_filter_other _ hi)

theorem State.destroy_keeps {s : State} {F : Furrow} (hm : s.mig? F.id = none) : (s.destroy F).mailboxes = s.mailboxes ∧
    (s.destroy F).plot = s.plot ∧ (s.destroy F).seed = s.seed ∧ (s.destroy F).host = s.host := by
  rw [State.destroy_eq]
  exact State.cleared_keeps hm

/-! FURROW_QUERY (R78, R98) -/

theorem FurrowSt.code_moving (b : Bool) (st : FurrowSt) : (if b then FurrowSt.moving else st).code = if b then 3 else st.code := by
  cases b <;> rfl

theorem placeWord (g : Fin 96) : ((BitVec.ofNat 2 (fieldOf g).val ++ 0#1 ++ BitVec.ofNat 7 g.val : BitVec 10).setWidth 32) =
    nw (g.val + 256 * (g.val / 24)) := by
  revert g
  decide

section
variable {s : State} {mb : Fin 16} {k : BitVec 16} {c : ActiveCmd} {rest : List ActiveCmd} {F : Furrow}

/-- What FURROW_CREATE does with the answer of its check. -/
def State.createdAs (s : State) (mb : Fin 16) (k : BitVec 16) (d : Desc) : Except (Nat × Word) (Fin 4 × Nat) → State
  | .error e => s.finish mb k e.1 [e.2]
  | .ok (f, id) =>
    (match (newFurrow id mb d f).twin with
      | some t => { s with furrows := s.furrows ++ [newFurrow id mb d f] }.updFurrow t fun T => { T with twin := some id }
      | none => { s with furrows := s.furrows ++ [newFurrow id mb d f] }).finish mb k eOk [nw id]

/-- FURROW_CREATE acts on the answer of its check. The check is made a variable, under an `id` that keeps it one: a proof that reduces
the match on the check itself makes the kernel evaluate its CRC. -/
theorem furrowCreate_checked (h : s.cmd? mb k 0x0301 = some c) {l : List Byte} {v : Except (Nat × Word) (Fin 4 × Nat)}
    (hlen : 128 ≤ c.bufLen) (hv : s.createCheck mb l = v) :
    exec (.furrowCreate mb k (.ok l)) s = .next ((s.readBuf mb c).createdAs mb k (descOf l) v) := by
  have hv : (s.readBuf mb c).createCheck mb l = v := (State.asks_createCheck ..).trans hv
  show execFurrowCreate mb k (.ok l) s = _
  rw [execFurrowCreate, h]
  generalize State.createCheck = χ at hv ⊢
  revert χ
  refine @id _ ?_
  intro χ hv
  dsimp only
  rw [if_neg (by omega), hv]
  cases v <;> rfl

theorem furrowCreate_made (h : Runs s mb k 0x0301 c rest) {l : List Byte} {f : Fin 4} {id : Nat} (hlen : 128 ≤ c.bufLen)
    (hc : s.createCheck mb l = .ok (f, id)) (ht : (descOf l).twinOf = 0xFFFF) :
    EndsOn { s with furrows := s.furrows ++ [newFurrow id mb (descOf l) f] } (.furrowCreate mb k (.ok l)) s mb c rest 0 [nw id] := by
  have htwin : (newFurrow id mb (descOf l) f).twin = none := if_pos ht
  have hrun := furrowCreate_checked h.cmd hlen hc
  rw [State.createdAs, htwin] at hrun
  exact h.endsOn_own (m := { s with furrows := s.furrows ++ [newFurrow id mb (descOf l) f] })
    (l := s.mbRequests mb false c.bufAddr.toNat [] c.bufLen (c.bufLen / 32 + 2)) rfl rfl hrun

theorem State.createCheck_badCrc {l : List Byte} (hcrc : crc32cOf (bytesAt l 0 124) ≠ le32 l 124) :
    s.createCheck mb l = .error (eBufCrc, 0) := if_pos hcrc

theorem furrowCreate_badCrc (h : Runs s mb k 0x0301 c rest) {l : List Byte} (hlen : 128 ≤ c.bufLen)
    (hcrc : crc32cOf (bytesAt l 0 124) ≠ le32 l 124) : EndsOn s (.furrowCreate mb k (.ok l)) s mb c rest 0xB [0] :=
  h.endsOn_own (l := s.mbRequests mb false c.bufAddr.toNat [] c.bufLen (c.bufLen / 32 + 2)) rfl rfl
    (furrowCreate_checked h.cmd hlen (State.createCheck_badCrc hcrc))

/-- The furrow in another state, its run of escalations ended (R211). -/
def State.becoming (s : State) (F : Furrow) (st : FurrowSt) : State :=
  (s.updFurrow F.id fun G => { G with st := st }).updFurrow F.id fun G => { G with run := none }

section
variable (h : Runs s mb k 0x0302 c rest) (hn : s.named mb c false = .ok F) (r : Reply)
include h hn

theorem furrowStart_stopped (hst : F.st = .stopped) : EndsOn (s.becoming F .running) (.furrowStart mb k r) s mb c rest 0 [] := by
  refine h.endsOn (m := s.becoming F .running) rfl ?_
  show execFurrowStart mb k r s = _
  rw [execFurrowStart, onFurrow_ok h hn, hst]
  rfl

theorem furrowStart_running (hst : F.st = .running) : EndsAlone (.furrowStart mb k r) s mb c rest 0 [] := by
  refine h.endsAlone ?_
  show execFurrowStart mb k r s = _
  rw [execFurrowStart, onFurrow_ok h hn, hst]
  rfl

theorem furrowStart_unplaced (hst : F.st = .unplaced) : EndsAlone (.furrowStart mb k r) s mb c rest 0xC [] := by
  refine h.endsAlone ?_
  show execFurrowStart mb k r s = _
  rw [execFurrowStart, onFurrow_ok h hn, hst]
  rfl

theorem furrowStart_failed (hst : F.st = .failed) (hs : s.sealed = true) : EndsAlone (.furrowStart mb k r) s mb c rest 0xC [] := by
  refine h.endsAlone ?_
  show execFurrowStart mb k r s = _
  rw [execFurrowStart, onFurrow_ok h hn, hst]
  dsimp only
  rw [State.startFailed, if_pos hs]
  rfl

end

section
variable (h : Runs s mb k 0x0302 c rest) (hn : s.named mb c false = .ok F) {l : List Byte} (hst : F.st = .created)
  (hb : s.bindings F ≠ 0) (ht : (s.twinStart F).1 = true) (hw : s.codeWaits F = false)
include h hn hst hb ht hw

theorem furrowStart_badCode (hcrc : crc32cOf (bytesAt l 0 F.desc.codeLen) ≠ F.desc.codeCrc) :
    EndsOn (s.readCode F) (.furrowStart mb k (.ok l)) s mb c rest 0xB [] :=
  h.endsOn_asks ((furrowStart_fetches h hn hst hb ht hw).1 _ (Furrow.firmware_bad hcrc))

theorem furrowStart_fetched (hcrc : crc32cOf (bytesAt l 0 F.desc.codeLen) = F.desc.codeCrc) :
    exec (.furrowStart mb k (.ok l)) s = .next ((s.readCode F).startCreated mb k F (bytesAt l 0 F.desc.codeLen)) :=
  (furrowStart_fetches h hn hst hb ht hw).2 _ (Furrow.firmware_ok hcrc)

theorem furrowStart_noFit (hcrc : crc32cOf (bytesAt l 0 F.desc.codeLen) = F.desc.codeCrc) (hfit : F.blockCanFit = false) :
    EndsOn (s.readCode F) (.furrowStart mb k (.ok l)) s mb c rest 9 [] :=
  h.endsOn_asks ((furrowStart_fetched h hn hst hb ht hw hcrc).trans (by rw [State.startCreated, hfit]; rfl))

/-- In Sealed mode a start waits for its COMMIT with the firmware it fetched, which is the model's choice (log 33). -/
theorem furrowStart_sealed (hcrc : crc32cOf (bytesAt l 0 F.desc.codeLen) = F.desc.codeCrc) (hfit : F.blockCanFit = true)
    (hs : s.sealed = true) : ∃ t, exec (.furrowStart mb k (.ok l)) s = .next t ∧
      t.furrow? F.id = some { F with runAtCommit := true, fetched := bytesAt l 0 F.desc.codeLen } ∧ t.plot = s.plot ∧
      Ends (s.readCode F) t mb c rest 0 [] none := by
  have hs' : (s.readCode F).sealed = true := hs
  have hfirst : takeFirst (fun d => d.k == k) (s.readCode F).mailboxes[mb].active = some (c, rest) := by
    rw [State.readCode, s.asks_mailbox]
    exact h.first
  refine ⟨((s.readCode F).updFurrow F.id fun G => { G with runAtCommit := true, fetched := bytesAt l 0 F.desc.codeLen }).finish mb k eOk [],
    ?_, updFurrow_mine (s := s.readCode F) (State.named_ok hn).1, rfl, ends_finish hfirst (by rfl) _ _⟩
  rw [furrowStart_fetched h hn hst hb ht hw hcrc, State.startCreated, hfit, if_neg (by decide), if_pos hs']

theorem furrowStart_rolling (hcrc : crc32cOf (bytesAt l 0 F.desc.codeLen) = F.desc.codeCrc) (hfit : F.blockCanFit = true)
    (hs : s.sealed = false) (hbind : (s.readCode F).bindings F = 2) (htwin : ((s.readCode F).twinStart F).2 = false) {g : Fin 96} {b : Bool}
    {a : Alloc} (hc : (s.readCode F).choose F (fun _ => true) = some (g, b)) (ha : (s.readCode F).alloc g F none none = some a)
    (hblock : F.blockFits a.extents = true) : ∃ t ver, exec (.furrowStart mb k (.ok l)) s = .next t ∧
      Ends (s.readCode F) t mb c rest 0 [] none ∧ t.furrow? F.id = some { F.startedOn g a.extents 0 F.restarts ver with run := none } := by
  have hs' : (s.readCode F).sealed = false := hs
  have hfirst : takeFirst (fun d => d.k == k) (s.readCode F).mailboxes[mb].active = some (c, rest) := by
    rw [State.readCode, s.asks_mailbox]
    exact h.first
  have hF : (s.readCode F).furrow? F.id = some F := (State.named_ok hn).1
  obtain ⟨hmail, ver, hG⟩ := State.firstStart_spec hF ha (bytesAt l 0 F.desc.codeLen)
  generalize hv : (s.readCode F).firstStart F g none (bytesAt l 0 F.desc.codeLen) = v at hmail hG
  refine ⟨((v.noteBreach F.id g b).endRun F.id).finish mb k eOk [], ver, ?_, ends_finish hfirst ?_ _ _, ?_⟩
  · rw [furrowStart_fetched h hn hst hb ht hw hcrc, State.startCreated_rolling hfit hs' hbind htwin hc ha hblock, hv]
  · exact (v.noteBreach_mailboxes ..).trans hmail
  · refine updFurrow_mine (s := v.noteBreach F.id g b) ?_
    rw [furrow_of_furrows (v.noteBreach_furrows ..), hG]

end

/-! FURROW_STOP (R492) -/

section
variable (h : Runs s mb k 0x0303 c rest) (hn : s.named mb c false = .ok F)
include h hn

theorem furrowStop_running (hst : F.st = .running) : EndsOn (s.becoming F .stopped) (.furrowStop mb k) s mb c rest 0 [] := by
  refine h.endsOn (m := s.becoming F .stopped) rfl ?_
  show execFurrowStop mb k s = _
  rw [execFurrowStop, onFurrow_ok h hn, hst]
  rfl

theorem furrowStop_stopped (hst : F.st = .stopped) : EndsAlone (.furrowStop mb k) s mb c rest 0 [] := by
  refine h.endsAlone ?_
  show execFurrowStop mb k s = _
  rw [execFurrowStop, onFurrow_ok h hn, hst]
  rfl

theorem furrowStop_gone (hst : F.st = .unplaced ∨ F.st = .failed) : EndsAlone (.furrowStop mb k) s mb c rest 0xC [] := by
  refine h.endsAlone ?_
  show execFurrowStop mb k s = _
  rw [execFurrowStop, onFurrow_ok h hn]
  rcases hst with hst | hst
  · rw [hst]; rfl
  · rw [hst]; rfl

end

section
variable (h : Runs s mb k 0x0304 c rest) (hn : s.named mb c false = .ok F)
include h hn

theorem furrowDestroy_running (hst : F.st = .running) : EndsAlone (.furrowDestroy mb k) s mb c rest 0xC [] := by
  refine h.endsAlone ?_
  show execFurrowDestroy mb k s = _
  rw [execFurrowDestroy, onFurrow_ok h hn, hst]
  rfl

theorem furrowDestroy_eq (hst : F.st = .stopped ∨ F.st = .failed ∨ F.st = .created) :
    exec (.furrowDestroy mb k) s = .next ((s.destroy F).finish mb k eOk []) := by
  show execFurrowDestroy mb k s = _
  rw [execFurrowDestroy, onFurrow_ok h hn]
  rcases hst with hst | hst | hst
  · rw [hst]
  · rw [hst]
  · rw [hst]

end

theorem furrowQuery_tells (h : Runs s mb k 0x0305 c rest) (hn : s.named mb c true = .ok F) {g : Fin 96} (hg : F.engine = some g) :
    EndsAlone (.furrowQuery mb k) s mb c rest 0
      [nw (if s.sower.migs.any fun m => m.fid == F.id then FurrowSt.moving else F.st).code, nw (g.val + 256 * (g.val / 24)),
        (bit 1 F.side ++ BitVec.ofNat 16 (F.twin.getD noTwin) : BitVec 17).setWidth 32, nw F.migrations] := by
  refine h.endsAlone ?_
  show execFurrowQuery mb k s = _
  rw [execFurrowQuery, onFurrow_ok h hn, hg]
  dsimp only
  rw [placeWord]
  rfl

end

/-- Settles O38: each furrow command ends with its status, and leaves the furrow as R492 has it. -/
theorem furrowCommands : Obligations.FurrowCommands := by
  intro s mb k op c rest F l f id r h becomes named code u marked
  refine ⟨?create, ?badCrc, ?start, ?stop, ?destroy, ?query, ?errors⟩
  case create =>
    rintro rfl hlen hc ht
    obtain ⟨hnew, hlow, hid⟩ := State.createCheck_id hc
    exact ⟨hnew, hlow, hid, furrowCreate_made h hlen hc ht⟩
  case badCrc =>
    rintro rfl hlen hcrc
    exact furrowCreate_badCrc h hlen hcrc
  case start =>
    rintro rfl ⟨hn, -⟩
    refine ⟨furrowStart_stopped h hn r, furrowStart_running h hn r, furrowStart_unplaced h hn r, furrowStart_failed h hn r, ?_⟩
    intro hst hb ht hw
    refine ⟨furrowStart_badCode h hn hst hb ht hw, furrowStart_noFit h hn hst hb ht hw, furrowStart_sealed h hn hst hb ht hw, ?_⟩
    intro hcrc hfit hs hbind htwin g b a hc ha hblock
    obtain ⟨t, ver, he, hends, hG⟩ := furrowStart_rolling h hn hst hb ht hw hcrc hfit hs hbind htwin hc ha hblock
    exact ⟨t, he, hends, _, hG, rfl, rfl, rfl, rfl, rfl, rfl, rfl, rfl⟩
  case stop =>
    rintro rfl ⟨hn, -⟩
    exact ⟨furrowStop_running h hn, furrowStop_stopped h hn, furrowStop_gone h hn⟩
  case destroy =>
    rintro rfl ⟨hn, -⟩
    refine ⟨furrowDestroy_running h hn, fun hst => ?_⟩
    obtain ⟨hmail, hplot, hseed, hhost⟩ := State.destroy_keeps ((State.named_ok hn).2 rfl)
    obtain ⟨hgone, hothers⟩ := s.destroy_furrow F
    exact ⟨_, furrowDestroy_eq h hn hst, hgone, hplot, hseed, hhost, h.ends hmail _ _, hothers⟩
  case query =>
    rintro rfl hn st moves g hg
    have q := furrowQuery_tells h hn hg
    rw [FurrowSt.code_moving] at q
    exact ⟨_, q⟩
  case errors =>
    intro _ e he
    refine ⟨?_, ?_, ?_⟩
    · rintro rfl
      exact h.endsAlone (congrArg _ (onFurrow_error h he _))
    · rintro rfl
      exact h.endsAlone (congrArg _ (onFurrow_error h he _))
    · rintro rfl
      exact h.endsAlone (congrArg _ (onFurrow_error h he _))

end Sys2Proof.Machine
end

section
/-! PROOFS. What a furrow that has left an engine lets go on: the engine's retirement, its Field's drain, a reset that has waited (R64, R93,
R100). -/

namespace Sys2Proof.Machine

/-- The end of bridge transfers changes Fields and Plot alone. -/
theorem State.bridgeAbort_rest (s : State) (f : Fin 4) : s.bridgeAbort f = { s with
    fields := (s.bridgeAbort f).fields, plot := (s.bridgeAbort f).plot, seed := (s.bridgeAbort f).seed
    ledger := (s.bridgeAbort f).ledger, tally := (s.bridgeAbort f).tally } := by
  obtain ⟨u, P, hw, -, hu⟩ := s.bridgeAbort_eq f
  rw [hu, hw.rest]

/-- An engine g of s that may have been retired in t, and Fields and banks beside it: furrows, the sequencer and the other engines stand. -/
structure LeftOf (s t : State) (g : Fin 96) : Prop where
  furrows : t.furrows = s.furrows
  sower : t.sower = s.sower
  pins : t.pins = s.pins
  others : ∀ k : Fin 96, k ≠ g → t.engines[k] = { s.engines[k] with hdlSp := t.engines[k].hdlSp }

namespace LeftOf

variable {s t u : State} {g : Fin 96}

theorem refl (s : State) (g : Fin 96) : LeftOf s s g := ⟨rfl, rfl, rfl, fun _ _ => rfl⟩

theorem trans (h : LeftOf s t g) (h' : LeftOf t u g) : LeftOf s u g :=
  ⟨h'.furrows.trans h.furrows, h'.sower.trans h.sower, h'.pins.trans h.pins, fun k hk => by rw [h'.others k hk, h.others k hk]⟩

end LeftOf

theorem State.retireDone_idle {s : State} {g : Fin 96} (h : s.engines[g].retireDue = none) : s.retireDone g = s := by
  rw [State.retireDone, h]

theorem State.retireDone_busy {s : State} {g : Fin 96} (h : ¬ (s.residents g = [] ∧ s.engines[g].st ≠ .retired)) : s.retireDone g = s := by
  cases hd : s.engines[g].retireDue with
  | none => exact State.retireDone_idle hd
  | some code =>
    rw [State.retireDone, hd]
    exact if_neg fun ⟨hr, hst⟩ => h ⟨List.isEmpty_iff.mp hr, hst⟩

/-- A Ledger record stands beside the engines. -/
theorem LeftOf.log {s t : State} {g : Fin 96} (h : LeftOf s t g) (c : Fin 15) (e : Nat) (f : Option (Fin 4)) (o : Nat) (a b : Word) :
    LeftOf s (t.log c e f o a b) g :=
  ⟨(State.log_furrows ..).trans h.furrows, (State.log_sower ..).trans h.sower, (State.log_pins ..).trans h.pins,
    fun k hk => by rw [State.log_engines]; exact h.others k hk⟩

theorem LeftOf.finishOk {s t : State} {g : Fin 96} (h : LeftOf s t g) (p : ActiveCmd → Bool) (r : ActiveCmd → List Word) :
    LeftOf s (t.finishOk p r) g := by
  have hs : (t.finishOk p r).sower = t.sower := by rw [t.finishOk_rest]
  have hp : (t.finishOk p r).pins = t.pins := by rw [t.finishOk_rest]
  exact ⟨(State.finishOk_furrows ..).trans h.furrows, hs.trans h.sower, hp.trans h.pins,
    fun k hk => by rw [State.finishOk_engines]; exact h.others k hk⟩

theorem LeftOf.raise {s t : State} {g : Fin 96} (h : LeftOf s t g) (ev f : Nat) : LeftOf s (t.raise ev f) g :=
  ⟨(State.raise_furrows ..).trans h.furrows, (State.raise_sower ..).trans h.sower, (State.raise_pins ..).trans h.pins,
    fun k hk => by rw [State.raise_engines]; exact h.others k hk⟩

theorem State.retired_left (s : State) (g : Fin 96) (code : Fin 8) : LeftOf s (s.retired g code) g := by
  have hu := (s.retireMarked g).releaseEmpty_released (fieldOf g)
  have hl : LeftOf s ((s.retireMarked g).releaseEmpty (fieldOf g)) g := by
    refine ⟨hu.furrows, hu.sower, by rw [hu.rest]; rfl, fun k hk => ?_⟩
    rw [hu.engine, State.retireMarked, State.updSeed_engines, State.updEngine_other _ _ hk]
  exact hl.log ..

theorem State.retireDone_left (s : State) (g : Fin 96) : LeftOf s (s.retireDone g) g := by
  cases hd : s.engines[g].retireDue with
  | none => rw [State.retireDone_idle hd]; exact .refl s g
  | some code =>
    by_cases h : s.residents g = [] ∧ s.engines[g].st ≠ .retired
    · rw [State.retireDone_empty hd h.1 h.2]
      exact ((s.retired_left g code).raise ..).finishOk ..
    · rw [State.retireDone_busy h]
      exact .refl s g

theorem State.bridgeAbort_left (s : State) (f : Fin 4) (g : Fin 96) : LeftOf s (s.bridgeAbort f) g := by
  have he : (s.bridgeAbort f).engines = s.engines := by rw [s.bridgeAbort_rest]
  exact ⟨s.bridgeAbort_furrows f, by rw [s.bridgeAbort_rest], by rw [s.bridgeAbort_rest], fun k _ => by rw [he]⟩

theorem State.setFieldSt_left (s : State) (f : Fin 4) (st : FieldSt) (g : Fin 96) : LeftOf s (s.setFieldSt f st) g :=
  ⟨State.setFieldSt_furrows .., State.setFieldSt_sower .., by rw [s.setFieldSt_rest],
    fun k _ => by rw [State.setFieldSt_engines]⟩

theorem State.updField_left (s : State) (f : Fin 4) (h : Field → Field) (g : Fin 96) : LeftOf s (s.updField f h) g :=
  ⟨rfl, rfl, rfl, fun _ _ => rfl⟩

theorem State.drainDone_left (s : State) (f : Fin 4) (g : Fin 96) : LeftOf s (s.drainDone f) g := by
  by_cases hst : s.fields[f].st = .draining
  · by_cases hn : ∃ F ∈ s.furrows, F.on f
    · rw [State.drainDone_busy (.inr hn)]
      exact .refl s g
    · rw [State.drainDone_empty hst fun F hF hon => hn ⟨F, hF, hon⟩]
      exact (((s.setFieldSt_left f .out g).trans (State.bridgeAbort_left ..)).trans (State.updField_left ..)).finishOk ..
  · rw [State.drainDone_busy (.inl hst)]
    exact .refl s g

/-- Without a Field that waits for its reset, none is reset. -/
theorem State.emptiedDone_idle {s : State} (h : s.sower.resetAfter = []) (f : Fin 4) : s.emptiedDone f = s := by
  refine if_neg fun ⟨hf, _⟩ => ?_
  rw [h] at hf
  exact List.not_mem_nil hf

theorem State.left_left {s : State} (h : s.sower.resetAfter = []) (g : Fin 96) : LeftOf s (s.left g) g := by
  have hl : LeftOf s ((s.retireDone g).drainDone (fieldOf g)) g := (s.retireDone_left g).trans (State.drainDone_left ..)
  rw [State.left, State.emptiedDone_idle (by rw [hl.sower, h])]
  exact hl

/-- An engine that is not due for retirement stands too. -/
theorem State.left_engine {s : State} (h : s.sower.resetAfter = []) {g k : Fin 96} (hd : s.engines[k].retireDue = none) :
    (s.left g).engines[k] = { s.engines[k] with hdlSp := (s.left g).engines[k].hdlSp } := by
  by_cases e : k = g
  · subst e
    have hl : LeftOf s ((s.retireDone k).drainDone (fieldOf k)) k := (s.retireDone_left k).trans (State.drainDone_left ..)
    rw [State.left, State.emptiedDone_idle (by rw [hl.sower, h]), State.retireDone_idle hd]
    rw [(State.drainDone_left s (fieldOf k) (if k = 0 then 1 else 0)).others k (by split <;> omega)]
  · exact (State.left_left h g).others k e

end Sys2Proof.Machine
end

section
/-! PROOFS. A migration through its states (O48): preparation, the quiescent point, capture, the attempt given up. -/

namespace Sys2Proof.Machine

/-- Migration fid stands in t as n. -/
theorem State.updMig_after {s t : State} {fid : Nat} {m : Migration} (hm : s.mig? fid = some m) (ht : t.sower = s.sower)
    {h : Migration → Migration} (hh : ∀ n, (h n).fid = n.fid := by exact fun _ => rfl) : (t.updMig fid h).mig? fid = some (h m) :=
  updMig_mig ((mig_of_sower ht fid).trans hm) hh

theorem migrationPrepare_takes {s : State} {fid : Nat} {m : Migration} {F : Furrow} {a : Alloc} (hm : s.mig? fid = some m)
    (hF : s.furrow? fid = some F) (hst : m.st = .prepare) (hsrc : s.fields[fieldOf m.src].stallSower = false)
    (hdst : s.fields[fieldOf m.dst].stallSower = false) (hw : s.moveWaits m = false) (hh : s.engines[m.src].st ≠ .halted)
    (he : m.extents = []) (ht : s.targetOk m.dst = true) (hsl : s.slotFor F m.dst = true) (hc : s.sameMicrocode F (fieldOf m.dst) = true)
    (ha : s.migAlloc F m.dst = some a) :
    exec (.migrationPrepare fid) s = .next (((s.wake m.dst).takeAlloc m.dst a).updMig fid fun m =>
      { m with st := .quiesce, extents := if F.handsOver m.dst then [] else a.extents }) := by
  show execMigrationPrepare fid s = _
  rw [execMigrationPrepare, hm, hF]
  dsimp only
  have hgo : ¬ (m.st ≠ .prepare ∨ s.fields[fieldOf m.src].stallSower ∨ s.fields[fieldOf m.dst].stallSower ∨ s.moveWaits m ∨
      s.engines[m.src].st = .halted) := by
    rw [hst, hsrc, hdst, hw]
    tauto
  rw [if_neg hgo, if_neg (by simp [he]), ht, hsl, hc, if_pos (by rfl), ha]

theorem State.wake_sower (s : State) (g : Fin 96) : (s.wake g).sower = s.sower := by rw [s.wake_rest]

theorem State.wake_furrows (s : State) (g : Fin 96) : (s.wake g).furrows = s.furrows := by rw [s.wake_rest]

theorem State.targetOk_usable {s : State} {g : Fin 96} (h : s.targetOk g = true) : s.usable g = true :=
  (Bool.and_eq_true_iff.mp h).1

/-! The quiescent point (R95, R199) -/

theorem State.saveSheaf_rest (s : State) (g : Fin 96) (F : Furrow) : (s.saveSheaf g F).furrows = s.furrows ∧
    (s.saveSheaf g F).sower = s.sower := by
  unfold State.saveSheaf
  split
  · split
    · exact ⟨(State.plotWrite_work ..).furrows, by show (State.plotWrite ..).sower = _; rw [(State.plotWrite_work ..).rest]⟩
    · exact ⟨rfl, rfl⟩
  · exact ⟨rfl, rfl⟩

/-- The furrow leaves the source at its boundary. -/
def State.quiesced (s : State) (fid : Nat) (m : Migration) (F : Furrow) : State :=
  ((if s.engines[m.src].cur = some fid then (s.breakHold m.src).saveSheaf m.src F else s).leaveEngine fid m.src).updFurrow fid
    fun F => { F with st := .moving }

theorem migrationQuiesce_leaves {s : State} {fid : Nat} {m : Migration} {F : Furrow} (hm : s.mig? fid = some m)
    (hF : s.furrow? fid = some F) (hst : m.st = .quiesce) (hh : s.engines[m.src].st ≠ .halted)
    (hq : s.engines[m.src].cur = some fid → s.quiesceable m.src = true) (hcs : mapFind 0xC0 s.engines[m.src].csErr = none) :
    exec (.migrationQuiesce fid) s = .next ((s.quiesced fid m F).updMig fid fun m => { m with st := .capture }) := by
  show execMigrationQuiesce fid s = _
  rw [execMigrationQuiesce, hm, hF]
  dsimp only
  rw [if_neg (by simp [hst]), if_neg hh, if_neg fun ⟨hc, hn⟩ => by simp [hq hc] at hn, State.csFetch_clean hcs]
  rfl

theorem State.quiesced_spec {s : State} {fid : Nat} {F : Furrow} (hF : s.furrow? fid = some F) (m : Migration) :
    (s.quiesced fid m F).sower = s.sower ∧
      (∃ p, (s.quiesced fid m F).furrow? fid = some { F with st := .moving, ctx := { F.ctx with psw := p } }) ∧
      fid ∉ (s.quiesced fid m F).engines[m.src].order ∧ (s.quiesced fid m F).engines[m.src].cur ≠ some fid := by
  unfold State.quiesced
  generalize hu : (if s.engines[m.src].cur = some fid then (s.breakHold m.src).saveSheaf m.src F else s) = u
  have hs : u.sower = s.sower ∧ ∃ p, u.furrow? fid = some { F with ctx := { F.ctx with psw := p } } := by
    rw [← hu]
    split
    · obtain ⟨hf, hs⟩ := (s.breakHold m.src).saveSheaf_rest m.src F
      obtain ⟨p, hp⟩ := State.breakHold_furrow hF m.src
      exact ⟨hs.trans (by rw [s.breakHold_rest]), p, (furrow_of_furrows hf fid).trans hp⟩
    · exact ⟨rfl, _, hF⟩
  obtain ⟨hs, p, hp⟩ := hs
  refine ⟨hs, ⟨p, updFurrow_mine (s := u.leaveEngine fid m.src) hp⟩, ?_, ?_⟩
  · show fid ∉ (u.leaveEngine fid m.src).engines[m.src].order
    rw [State.leaveEngine_eq, State.updEngine_mine]
    exact Engine.leave_order fid _
  · show (u.leaveEngine fid m.src).engines[m.src].cur ≠ some fid
    rw [State.leaveEngine_eq, State.updEngine_mine]
    exact Engine.leave_cur fid _

theorem migrationQuiesce_waits {s : State} {fid : Nat} {m : Migration} {F : Furrow} (hm : s.mig? fid = some m)
    (hF : s.furrow? fid = some F) (hst : m.st = .quiesce) (hh : s.engines[m.src].st ≠ .halted)
    (hc : s.engines[m.src].cur = some fid) (hq : s.quiesceable m.src = false) : exec (.migrationQuiesce fid) s = .next s := by
  show execMigrationQuiesce fid s = _
  rw [execMigrationQuiesce, hm, hF]
  dsimp only
  rw [if_neg (by simp [hst]), if_neg hh, if_pos ⟨hc, by simp [hq]⟩]

/-! An attempt given up (R95) -/

/-- The first migration of a furrow is the first of it in its state. -/
theorem State.mig_inState {s : State} {fid : Nat} {m : Migration} (hm : s.mig? fid = some m) :
    (s.sower.migs.find? fun n => n.fid == fid && n.st == m.st) = some m := by
  obtain ⟨hk, a, b, hl, ha⟩ := List.find?_eq_some_iff_append.mp hm
  rw [hl]
  refine List.find?_eq_some_iff_append.mpr ⟨by simp only [hk, beq_self_eq_true, Bool.and_self], a, b, rfl, fun n hn => ?_⟩
  have := ha n hn
  simp only [Bool.not_eq_true'] at this ⊢
  rw [this, Bool.false_and]

theorem State.quiesceAbort_again {s : State} {fid : Nat} {m : Migration} (hm : s.mig? fid = some m) (hst : m.st = .quiesce)
    (ha : m.aborts < 2) : s.quiesceAbort fid = (s.updFurrow fid fun F => { F with st := m.was }).updMig fid fun n =>
      { n with st := .prepare, aborts := n.aborts + 1 } := by
  rw [State.quiesceAbort, ← hst, State.mig_inState hm]
  dsimp only
  rw [if_neg (by omega)]
  rfl

theorem State.quiesceAbort_drops {s : State} {fid : Nat} {m : Migration} (hm : s.mig? fid = some m) (hst : m.st = .quiesce)
    (ha : 2 ≤ m.aborts) (hw : m.why ≠ forRetire) : s.quiesceAbort fid =
      ((s.updFurrow fid fun F => { F with st := m.was }).endMig fid).log 2 2 (some (fieldOf m.src)) fid 0 0 := by
  rw [State.quiesceAbort, ← hst, State.mig_inState hm]
  dsimp only
  rw [if_pos (by omega), if_neg hw]

theorem migrationQuiesceAbort_eq {s : State} {fid : Nat} {m : Migration} (hm : s.mig? fid = some m)
    (h : ¬ (m.why = forRetire ∧ ((s.quiesceAbort fid).mig? fid).isNone)) :
    exec (.migrationQuiesceAbort fid) s = .next (s.quiesceAbort fid) := by
  show execMigrationQuiesceAbort fid s = _
  rw [execMigrationQuiesceAbort, hm]
  dsimp only
  rw [if_neg h]

theorem migrationCapture_reads {s : State} {fid : Nat} {m : Migration} {F : Furrow} (hm : s.mig? fid = some m)
    (hF : s.furrow? fid = some F) (hst : m.st = .capture) (ho : s.storesOut fid = false) (hl : F.ctxLost = false)
    (hcs : mapFind 0xC0 s.engines[m.src].csErr = none) : exec (.migrationCapture fid) s =
      .next ((s.updFurrow fid fun F => { F with ctxErr := none }).updMig fid fun m => { m with st := .repoint }) := by
  show execMigrationCapture fid s = _
  rw [execMigrationCapture, hm, hF]
  dsimp only
  rw [if_neg (by simp [hst, ho]), hl, if_neg (by decide), State.csFetch_clean hcs]

/-! Rings that stop at a packet boundary (R97) -/

theorem PlotWork.sower {s t : State} (h : PlotWork s t) : t.sower = s.sower := by rw [h.rest]

theorem State.putHeader_sower (s : State) (F : Furrow) (h w : Nat) (v : Word) : (s.putHeader F h w v).sower = s.sower := by
  unfold State.putHeader
  split
  · exact (s.plotWrite_work ..).sower
  · rfl

theorem State.readFrame_work (k : Nat) (s : State) (f : Fin 4) (a n : Nat) (drill : Bool) : PlotWork s (s.readFrame f a n drill k).1 := by
  induction k generalizing s a n with
  | zero => exact .refl s
  | succ k ih =>
    unfold State.readFrame
    split
    · exact .refl s
    · exact (s.noteRead_work ..).trans (ih ..)

theorem State.noteDesc_work (s : State) (f : Fin 4) (F : Furrow) (h : Nat) (i : Word) : PlotWork s (s.noteDesc f F h i).1 := by
  unfold State.noteDesc
  split
  · exact s.noteRange_work 2 f _ 1
  · exact .refl s

theorem State.discardFrame_sower (s : State) (f : Fin 4) (F : Furrow) (h : Nat) : (s.discardFrame f F h).sower = s.sower := by
  unfold State.discardFrame
  dsimp only
  split
  · exact (State.count_sower ..).trans (s.putHeader_sower ..)
  · exact (State.count_sower ..).trans (s.putHeader_sower ..)

theorem State.passPlain_sower (s : State) (F : Furrow) (h : Nat) : (s.passPlain F h).sower = s.sower := s.putHeader_sower ..

theorem State.leaveFrames_sower (n : Nat) (s : State) (f : Fin 4) (fid h : Nat) : (s.leaveFrames f fid h n).sower = s.sower := by
  induction n generalizing s with
  | zero => rfl
  | succ n ih =>
    unfold State.leaveFrames
    split
    · rfl
    · split
      · rfl
      · split
        · rfl
        · rename_i F _ _ _ _ _ _
          have hd := (s.noteDesc_work f F h (s.hidx F h)).sower
          dsimp only
          split
          · exact (ih _).trans ((State.discardFrame_sower ..).trans hd)
          · exact (ih _).trans ((State.passPlain_sower ..).trans ((State.readFrame_work ..).sower.trans hd))

theorem migrationRepoint_goes {s : State} {fid : Nat} {m : Migration} (hm : s.mig? fid = some m) (hst : m.st = .repoint) :
    ∃ u, u.sower = s.sower ∧ (fieldOf m.dst = fieldOf m.src → u = s) ∧
      exec (.migrationRepoint fid) s = .next (u.updMig fid fun m => { m with st := .transfer }) := by
  have hrun : exec (.migrationRepoint fid) s = .next ((if fieldOf m.dst = fieldOf m.src then s
      else [4, 5, 6, 7].foldl (fun (s : State) (h : Nat) => s.leaveFrames (fieldOf m.src) fid h 1024) s).updMig fid
        fun m => { m with st := .transfer }) := by
    show execMigrationRepoint fid s = _
    rw [execMigrationRepoint, hm]
    dsimp only
    rw [if_neg (by simp [hst])]
  refine ⟨_, ?_, fun h => if_pos h, hrun⟩
  split
  · rfl
  · exact foldl_rel (R := fun (s t : State) => t.sower = s.sower) (fun _ => rfl) (fun h h' => h'.trans h) _ s
      fun t h => t.leaveFrames_sower 1024 _ fid h

/-! TRANSFER (R95, R252, R293) -/

section
variable {s : State} {fid : Nat} {m : Migration} {F : Furrow} (hm : s.mig? fid = some m) (hF : s.furrow? fid = some F)
  (hst : m.st = .transfer) (ht : s.targetOk m.dst = true)
include hm hF hst ht

theorem migrationTransfer_hands (hh : F.handsOver m.dst = true) : exec (.migrationTransfer fid false) s = .next
    (((s.handOver F m.dst).updMig fid fun m => { m with handed := true }).updMig fid fun m => { m with st := .resume }) := by
  show execMigrationTransfer fid false s = _
  rw [execMigrationTransfer, hm, hF]
  dsimp only
  rw [if_neg (by simp [hst]), if_neg (by simp [ht]), if_pos hh]

theorem migrationTransfer_swaps (hh : F.handsOver m.dst = false) (hhome : F.home = some (fieldOf m.dst)) :
    exec (.migrationTransfer fid false) s = .next ((s.swapExtents m F false).updMig fid fun m => { m with st := .resume }) := by
  show execMigrationTransfer fid false s = _
  rw [execMigrationTransfer, hm, hF]
  dsimp only
  rw [if_neg (by simp [hst]), if_neg (by simp [ht]), hh, if_neg (by decide), if_pos hhome]

variable (hacross : F.handsOver m.dst = false ∧ F.home ≠ some (fieldOf m.dst))
include hacross

theorem migrationTransfer_copies (hc : s.copyOf m = none) : exec (.migrationTransfer fid false) s = .next (s.startCopy m F) := by
  show execMigrationTransfer fid false s = _
  rw [execMigrationTransfer, hm, hF]
  dsimp only
  rw [if_neg (by simp [hst]), if_neg (by simp [ht]), hacross.1, if_neg (by decide), if_neg hacross.2, hc]

theorem migrationTransfer_copying {o : OwnJob} (hc : s.copyOf m = some o) : exec (.migrationTransfer fid false) s =
    .next (if o.cut then s.failMove m else if o.len ≤ o.moved then s.updMig fid fun m => { m with st := .resume } else s) := by
  show execMigrationTransfer fid false s = _
  rw [execMigrationTransfer, hm, hF]
  dsimp only
  rw [if_neg (by simp [hst]), if_neg (by simp [ht]), hacross.1, if_neg (by decide), if_neg hacross.2, hc]

end

theorem State.handOver_samePlot (s : State) (F : Furrow) (g : Fin 96) : SamePlot s (s.handOver F g) := by
  unfold State.handOver
  split
  · exact .refl s
  · refine foldl_samePlot _ s fun t b => ?_
    dsimp only
    split
    · exact t.updBank_samePlot _ b fun _ => rfl
    · exact .refl t

theorem State.copyBad_bytes (n : Nat) (s : State) (f : Fin 4) (a : Nat) (g : Fin 4) (b : Nat) : SameBytes s (s.copyBad f a g b n) := by
  induction n generalizing s a b with
  | zero => exact .refl s
  | succ n ih =>
    unfold State.copyBad
    refine SameBytes.trans ?_ (ih ..)
    split
    · exact .refl s
    · exact .refl s
    · exact s.setEcc_bytes ..

/-- Bytes that the mover copies read in their new place as they read in the old. -/
theorem State.copyRange_reads {s : State} (hs : mapSorted s.plot) (f : Fin 4) {a b n j : Nat} (hn : n ≤ 4194304) (hj : j < n) :
    (s.copyRange f a f b n).plotByte f (b + j) = s.plotByte f (a + j) := by
  have hnote := s.noteRange_samePlot (wordsSpan a n) f a 1
  unfold State.copyRange
  dsimp only
  generalize (s.noteRange f a 1 (wordsSpan a n)).1 = u at hnote ⊢
  have hlen : (u.plotBytes f a n).length = n := u.plotBytes_length ..
  rw [(State.copyBad_bytes ..).plotByte, State.plotByte_plotWrite_same _ _ _ _ (by rw [hnote.plot]; exact hs) (by omega) j (by omega),
    State.plotBytes_getD _ _ _ _ _ hj, hnote.bytes.plotByte]

/-- What a swap of extents leaves: the furrow in the new ones, its migration with the old. -/
theorem State.swapExtents_spec {s : State} {fid : Nat} {m : Migration} {F G : Furrow} (hm : s.mig? fid = some m)
    (hF : s.furrow? fid = some F) (back : Bool) :
    (s.swapExtents m G back).mig? fid = some { m with extents := G.extents, swapped := !back } ∧
      (s.swapExtents m G back).furrow? fid = some { F with extents := m.extents } ∧ (s.swapExtents m G back).engines = s.engines ∧
      SameBytes (s.copyExtents (fieldOf m.dst) G.extents m.extents) (s.swapExtents m G back) := by
  obtain rfl : m.fid = fid := State.mig_fid hm
  have hw := s.copyExtents_work (fieldOf m.dst) G.extents m.extents
  unfold State.swapExtents
  refine ⟨?_, ?_, hw.engines, ⟨rfl, fun _ _ => rfl⟩⟩
  · exact updMig_mig (s := (s.copyExtents (fieldOf m.dst) G.extents m.extents).updFurrow m.fid fun F => { F with extents := m.extents })
      ((mig_of_sower hw.sower m.fid).trans hm) (h := fun n => { n with extents := G.extents, swapped := !back })
  · exact updFurrow_mine ((hw.furrow m.fid).trans hF)

/-- The furrow of a migration that is given up is at its source again, in the state it had. -/
structure Back (s t : State) (fid : Nat) (m : Migration) (F : Furrow) : Prop where
  mig : t.mig? fid = none
  furrow : ∃ G, t.furrow? fid = some G ∧ G.st = m.was ∧ G.ctx = F.ctx
  order : fid ∈ t.engines[m.src].order

theorem State.cancelMig_back {s : State} {fid : Nat} {m : Migration} {F : Furrow} (hm : s.mig? fid = some m) (hF : s.furrow? fid = some F)
    (hst : F.st = .moving) : Back s (s.cancelMig m) fid m F := by
  obtain rfl : m.fid = fid := State.mig_fid hm
  let u := s.updFurrow m.fid fun F => if F.st = .moving then { F with st := m.was } else F
  have hu : u.furrow? m.fid = some { F with st := m.was } := by
    show (s.updFurrow m.fid _).furrow? m.fid = _
    rw [updFurrow_mine hF (hh := fun G => by split <;> rfl), if_pos hst]
  have hum : u.mig? m.fid = some m := hm
  let v := if m.handed then u.handOver { F with st := m.was } m.src
    else if m.swapped then u.swapExtents m { F with st := m.was } true else u
  have hv : ∃ G, v.furrow? m.fid = some G ∧ G.st = m.was ∧ G.ctx = F.ctx := by
    show ∃ G, (if m.handed then _ else if m.swapped then _ else u).furrow? m.fid = some G ∧ _
    split
    · exact ⟨_, ((u.handOver_work ..).furrow m.fid).trans hu, rfl, rfl⟩
    · split
      · exact ⟨_, (State.swapExtents_spec hum hu true).2.1, rfl, rfl⟩
      · exact ⟨_, hu, rfl, rfl⟩
  have hc : s.cancelMig m = (v.endMig m.fid).joinEngine m.fid m.src := by
    unfold State.cancelMig
    dsimp only
    rw [show (s.updFurrow m.fid fun F => if F.st = .moving then { F with st := m.was } else F).furrow? m.fid =
      some { F with st := m.was } from hu]
  rw [hc]
  refine ⟨?_, ?_, State.joinEngine_order ..⟩
  · rw [mig_of_sower (State.joinEngine_sower ..), State.endMig_mig]
  · rw [furrow_of_furrows (State.joinEngine_furrows ..), furrow_of_furrows (State.endMig_furrows ..)]
    exact hv

theorem State.failMove_back {s : State} {fid : Nat} {m : Migration} {F : Furrow} (hm : s.mig? fid = some m) (hF : s.furrow? fid = some F)
    (hst : F.st = .moving) (hw : m.why ≠ forRetire) : Back s (s.failMove m) fid m F := by
  have hb := State.cancelMig_back hm hF hst
  have he : s.failMove m = s.cancelMig m := by
    unfold State.failMove
    dsimp only
    split
    · rw [if_neg hw]
    · rfl
  rw [he]
  exact hb

theorem migrationTransfer_fails {s : State} {fid : Nat} {m : Migration} {F : Furrow} (hm : s.mig? fid = some m)
    (hF : s.furrow? fid = some F) (hst : m.st = .transfer) : exec (.migrationTransfer fid true) s = .next (s.failMove m) := by
  show execMigrationTransfer fid true s = _
  rw [execMigrationTransfer, hm, hF]
  dsimp only
  rw [if_neg (by simp [hst]), if_pos (.inl rfl)]

/-! RESUME (R95, R96) -/

/-- A furrow that runs on the target of its migration. -/
def Furrow.resumedAs (F : Furrow) (m : Migration) : Furrow :=
  { F with
    st := m.was, engine := some m.dst, home := some (fieldOf m.dst), migrations := F.migrations + 1
    extents := if m.swapped ∨ m.extents.isEmpty then F.extents else m.extents }

/-- The migration leaves the sequencer, and its furrow has its new engine. -/
def State.handedOn (s : State) (fid : Nat) (m : Migration) : State :=
  ((s.updSower fun W => { W with migs := W.migs.filter fun n => n.fid ≠ fid }).updPorts (fieldOf m.src) fun P =>
    { P with own := P.own.filter fun o => o.copy || o.fid != fid }).updFurrow fid fun F => F.resumedAs m

/-- The furrow joins the target, and the banks that are empty in the source's Field become FREE. -/
def State.joinedOn (s : State) (fid : Nat) (m : Migration) (F : Furrow) : State :=
  ((((s.handedOn fid m).joinEngine fid m.dst).count 2 (m.dst.val * 9 + 8) 1).emitSync m.dst fid F.ctx).releaseEmpty (fieldOf m.src)

/-- The command of a migration completes, and that of a drain or a retirement counts the furrow. -/
def State.toldMoved (s : State) (m : Migration) (w : Word) : State :=
  (match m.cmd with
    | some (mb, k) => s.finish mb k eOk [nw m.dst.val, w]
    | none => s).countMoved m

theorem migrationResume_goes {s : State} {fid : Nat} {m : Migration} {F : Furrow} {w : Word} (hm : s.mig? fid = some m)
    (hF : s.furrow? fid = some F) (hst : m.st = .resume) (hh : s.handingOver F = false) (ht : s.targetOk m.dst = true)
    (ha : m.arrived = []) : exec (.migrationResume fid w) s =
      .next (((((s.joinedOn fid m F).toldMoved m w).moveOn fid m.dst)).left m.src) := by
  show execMigrationResume fid w s = _
  rw [execMigrationResume, hm, hF]
  dsimp only
  rw [if_neg (by simp [hst, hh]), if_neg (by simp [ht]), ha, State.deliverArrived, List.foldl_nil]
  unfold State.toldMoved State.joinedOn State.handedOn Furrow.resumedAs
  cases m.cmd with
  | none => rfl
  | some p => rfl

theorem State.countMoved_rest (s : State) (m : Migration) : s.countMoved m = { s with mailboxes := (s.countMoved m).mailboxes } := by
  unfold State.countMoved
  exact foldl_rel (R := fun (s t : State) => t = { s with mailboxes := t.mailboxes }) (fun _ => rfl) (fun h h' => by rw [h', h]) _ s
    fun _ _ => rfl

theorem State.toldMoved_rest (s : State) (m : Migration) (w : Word) :
    s.toldMoved m w = { s with mailboxes := (s.toldMoved m w).mailboxes } := by
  unfold State.toldMoved
  split
  · rw [State.countMoved_rest, State.finish_rest]
  · rw [State.countMoved_rest]

/-- t runs the furrows of s: the furrows, the sequencer and the engines' run lists stand. -/
structure SameRun (s t : State) : Prop where
  furrows : t.furrows = s.furrows
  sower : t.sower = s.sower
  pins : t.pins = s.pins
  st : ∀ k : Fin 96, t.engines[k].st = s.engines[k].st
  order : ∀ k : Fin 96, t.engines[k].order = s.engines[k].order
  due : ∀ k : Fin 96, t.engines[k].retireDue = s.engines[k].retireDue

namespace SameRun

variable {s t u : State}

theorem of_engines (hf : t.furrows = s.furrows) (hs : t.sower = s.sower) (hp : t.pins = s.pins) (he : t.engines = s.engines) : SameRun s t :=
  ⟨hf, hs, hp, fun k => by rw [he], fun k => by rw [he], fun k => by rw [he]⟩

theorem trans (h : SameRun s t) (h' : SameRun t u) : SameRun s u :=
  ⟨h'.furrows.trans h.furrows, h'.sower.trans h.sower, h'.pins.trans h.pins, fun k => (h'.st k).trans (h.st k),
    fun k => (h'.order k).trans (h.order k), fun k => (h'.due k).trans (h.due k)⟩

end SameRun

theorem TraceOnly.sameRun {s t : State} {g : Fin 96} (h : TraceOnly s t g) : SameRun s t := by
  have he (k : Fin 96) : t.engines[k].st = s.engines[k].st ∧ t.engines[k].order = s.engines[k].order ∧
      t.engines[k].retireDue = s.engines[k].retireDue := by
    by_cases hk : k = g
    · subst hk; rw [h.engine]; exact ⟨rfl, rfl, rfl⟩
    · rw [h.engines k hk]; exact ⟨rfl, rfl, rfl⟩
  exact ⟨by rw [h.rest], by rw [h.rest], by rw [h.rest], fun k => (he k).1, fun k => (he k).2.1, fun k => (he k).2.2⟩

theorem Released.sameRun {s t : State} (h : Released s t) : SameRun s t :=
  ⟨h.furrows, h.sower, by rw [h.rest], fun k => by rw [h.engine k], fun k => by rw [h.engine k], fun k => by rw [h.engine k]⟩

theorem State.count_sameRun (s : State) (p i n : Nat) : SameRun s (s.count p i n) :=
  .of_engines (State.count_furrows ..) (State.count_sower ..) (State.count_pins ..) (State.count_engines ..)

theorem State.toldMoved_sameRun (s : State) (m : Migration) (w : Word) : SameRun s (s.toldMoved m w) :=
  .of_engines (by rw [s.toldMoved_rest]) (by rw [s.toldMoved_rest]) (by rw [s.toldMoved_rest]) (by rw [s.toldMoved_rest])

theorem State.joinedOn_sameRun (s : State) (fid : Nat) (m : Migration) (F : Furrow) :
    SameRun ((s.handedOn fid m).joinEngine fid m.dst) (s.joinedOn fid m F) :=
  ((State.count_sameRun ..).trans (State.emitSync_traceOnly ..).sameRun).trans (State.releaseEmpty_released ..).sameRun

/-- A furrow joins an engine that the Sower may place on: the engine is awake and not due for retirement. -/
theorem State.joinEngine_usable {s : State} {g : Fin 96} (h : s.usable g = true) (fid : Nat) :
    (s.joinEngine fid g).engines[g].st = .awake ∧ (s.joinEngine fid g).engines[g].retireDue = none := by
  rw [State.joinEngine_mine]
  refine ⟨State.usable_awake h, ?_⟩
  show (s.wake g).engines[g].retireDue = none
  rw [State.wake_retireDue]
  simp only [State.usable, Bool.and_eq_true, beq_iff_eq] at h
  exact h.1.2

theorem State.handedOn_engines (s : State) (fid : Nat) (m : Migration) : (s.handedOn fid m).engines = s.engines := by
  rw [State.handedOn, State.updFurrow_engines, State.updPorts, State.updField_engines, State.updSower_engines]

/-- The target's engine has its furrow, and is not due for retirement. -/
theorem State.joinedOn_spec {s : State} {fid : Nat} {m : Migration} {F : Furrow} (hF : s.furrow? fid = some F)
    (ht : s.targetOk m.dst = true) : (s.joinedOn fid m F).pins = s.pins ∧
      (s.joinedOn fid m F).sower = { s.sower with migs := s.sower.migs.filter fun n => n.fid ≠ fid } ∧
      (s.joinedOn fid m F).furrow? fid = some (F.resumedAs m) ∧ (s.joinedOn fid m F).engines[m.dst].st = .awake ∧
      fid ∈ (s.joinedOn fid m F).engines[m.dst].order ∧ (s.joinedOn fid m F).engines[m.dst].retireDue = none := by
  have hr := s.joinedOn_sameRun fid m F
  have hu : (s.handedOn fid m).usable m.dst = true := by
    rw [← State.targetOk_usable ht, State.usable, State.usable, s.handedOn_engines]
  obtain ⟨hst, hdue⟩ := State.joinEngine_usable hu fid
  have hj := (s.handedOn fid m).joinEngine_rest fid m.dst
  refine ⟨hr.pins.trans (by rw [hj]; rfl), hr.sower.trans (by rw [hj]; rfl), ?_, by rw [hr.st, hst], ?_, by rw [hr.due, hdue]⟩
  · rw [furrow_of_furrows hr.furrows, furrow_of_furrows (State.joinEngine_furrows ..)]
    exact updFurrow_mine hF
  · rw [hr.order]
    exact State.joinEngine_order ..

/-- What the active plan says of a furrow does not depend on the migrations that stand. -/
theorem State.planned_of_migs {s t : State} {l : List Migration} (h : t.sower = { s.sower with migs := l }) (n fid : Nat) :
    t.planned n fid = s.planned n fid := by
  unfold State.planned State.planTable State.substituted
  rw [h]

theorem migrationResume_runs {s : State} {fid : Nat} {m : Migration} {F : Furrow} {w : Word} (hm : s.mig? fid = some m)
    (hF : s.furrow? fid = some F) (hst : m.st = .resume) (hh : s.handingOver F = false) (ht : s.targetOk m.dst = true)
    (ha : m.arrived = []) (hreset : s.sower.resetAfter = [])
    (hplan : s.sealed = true → (s.planned s.sower.activePlan fid).map Prod.fst = some m.dst) :
    ∃ t, exec (.migrationResume fid w) s = .next t ∧ t.mig? fid = none ∧ t.furrow? fid = some (F.resumedAs m) ∧
      fid ∈ t.engines[m.dst].order ∧ t.engines[m.dst].st = .awake := by
  obtain ⟨hpins, hsower, hfur, hawake, hord, hdue⟩ := State.joinedOn_spec hF ht
  have htold := (s.joinedOn fid m F).toldMoved_sameRun m w
  have hgo := migrationResume_goes (w := w) hm hF hst hh ht ha
  generalize (s.joinedOn fid m F).toldMoved m w = u at htold hgo
  generalize s.joinedOn fid m F = v at hpins hsower hfur hawake hord hdue htold
  have hus := htold.sower.trans hsower
  have hon : u.moveOn fid m.dst = u := by
    refine if_neg fun h => ?_
    obtain ⟨hs, hne⟩ := Bool.and_eq_true_iff.mp h
    have hs : s.sealed = true := by
      rw [← hs, State.sealed, State.sealed, htold.pins, hpins]
    rw [State.planned_of_migs hus, show u.sower.activePlan = s.sower.activePlan by rw [hus], hplan hs] at hne
    simp at hne
  rw [hon] at hgo
  have hur : u.sower.resetAfter = [] := by rw [hus]; exact hreset
  have hl := State.left_left hur m.src
  have hud : u.engines[m.dst].retireDue = none := (htold.due _).trans hdue
  refine ⟨_, hgo, ?_, ?_, ?_, ?_⟩
  · rw [mig_of_sower hl.sower, State.mig?, hus]
    exact find_filter_fid ..
  · rw [furrow_of_furrows (hl.furrows.trans htold.furrows), hfur]
  · rw [State.left_engine hur hud]
    show fid ∈ u.engines[m.dst].order
    rw [htold.order]
    exact hord
  · rw [State.left_engine hur hud]
    show u.engines[m.dst].st = _
    rw [htold.st, hawake]

/-! Banks that have been handed over (R252) -/

theorem State.resume_idle {s : State} {g : Fin 96} (h : ∀ v, s.engines[g].phase ≠ .stalled v) : s.resume g = s := by
  unfold State.resume
  split
  · rename_i v _ hv _
    exact absurd hv (h v)
  · rfl

theorem State.resumeField_idle {s : State} {f : Fin 4} (h : ∀ g : Fin 96, fieldOf g = f → ∀ v, s.engines[g].phase ≠ .stalled v) :
    s.resumeField f = s :=
  foldl_idle _ s fun g hg => State.resume_idle (h g (mem_fieldEngines.mp hg))

theorem bankHandoverCompletion_goes {s : State} {f : Fin 4} {b : Fin 32} (h : s.fields[f].banks[b].st = .handover) :
    exec (.bankHandoverCompletion f b) s =
      .next ((s.updBank f b fun B => { B with st := .owned, owner := B.target, target := 0 }).resumeField f) := by
  show execBankHandoverCompletion f b s = _
  rw [execBankHandoverCompletion, if_pos h]

/-- Settles O48: each state of a migration by what its command does. That the rings of a move within a Field switch in TRANSFER, so that REPOINT
does nothing there, is the model's choice (log 64, log 25). -/
theorem migrations : Obligations.Migrations := by
  intro s fid m F a w f b e d o hm hF src moves alone across back
  have hback {t : State} (h : Back s t fid m F) : back t := by
    obtain ⟨hmig, ⟨G, hG, hst, hctx⟩, hord⟩ := h
    exact ⟨G, hmig, hG, hst, hctx, hord⟩
  refine ⟨?prepare, ?quiesce, ?waits, ?again, ?drops, ?capture, ?repoint, ?transfer, ?fails, ?resume, ?handover⟩
  case prepare =>
    intro hst hsrc hdst hw hh he ht hsl hc ha
    have hu := State.takeAlloc_work (s.wake m.dst) m.dst a
    refine ⟨_, migrationPrepare_takes hm hF hst hsrc hdst hw hh he ht hsl hc ha,
      State.updMig_after hm (hu.sower.trans (s.wake_sower _)), ?_, hu.furrows.trans (s.wake_furrows _)⟩
    exact (hu.engineSt m.dst).trans (State.usable_awake (State.targetOk_usable ht))
  case quiesce =>
    intro hst hh hq hcs
    obtain ⟨hs, ⟨p, hG⟩, hord, hcur⟩ := State.quiesced_spec hF m
    exact ⟨_, _, migrationQuiesce_leaves hm hF hst hh hq hcs, State.updMig_after hm hs, hG, rfl, rfl, rfl, rfl, hord, hcur⟩
  case waits => exact fun hst hh hc hq => migrationQuiesce_waits hm hF hst hh hc hq
  case again =>
    intro hst ha
    have hmig := State.updMig_after (t := s.updFurrow fid fun F => { F with st := m.was }) hm rfl
      (h := fun n => { n with st := .prepare, aborts := n.aborts + 1 })
    have he := State.quiesceAbort_again hm hst ha
    refine ⟨_, migrationQuiesceAbort_eq hm ?_, ?_, ?_, ?_⟩
    · rw [he, hmig]
      exact fun h => Bool.noConfusion h.2
    · rw [he]; exact hmig
    · rw [he]; exact updFurrow_mine hF
    · rw [he]; rfl
  case drops =>
    intro hst ha hw
    have he := State.quiesceAbort_drops hm hst ha hw
    refine ⟨_, migrationQuiesceAbort_eq hm fun h => hw h.1, ?_, ?_, ?_⟩
    · rw [he, mig_of_sower (State.log_sower ..), State.endMig_mig]
    · rw [he, furrow_of_furrows (State.log_furrows ..), furrow_of_furrows (State.endMig_furrows ..)]
      exact updFurrow_mine hF
    · rw [he, State.log_plot]
      exact (State.endMig_samePlot ..).plot
  case capture =>
    intro hst ho hl hcs
    exact ⟨_, migrationCapture_reads hm hF hst ho hl hcs, State.updMig_after hm rfl, updFurrow_mine hF, rfl, rfl⟩
  case repoint =>
    intro hst
    obtain ⟨u, hs, hu, hrun⟩ := migrationRepoint_goes hm hst
    exact ⟨_, hrun, State.updMig_after hm hs, fun h => by rw [hu h]; rfl⟩
  case transfer =>
    intro hst ht
    refine ⟨fun hh => ?_, fun hh hhome => ?_, fun ha hc => ?_, fun ha hc hcut => ⟨fun hl => ?_, fun hl => ?_⟩, fun ha hc hcut hw hmv => ?_⟩
    · have hw := s.handOver_work F m.dst
      exact ⟨_, migrationTransfer_hands hm hF hst ht hh, State.updMig_mig (State.updMig_after hm hw.sower), (hw.furrow fid).trans hF,
        hw.engines, (s.handOver_samePlot F m.dst).plot⟩
    · obtain ⟨hmig, hfur, heng, hbytes⟩ := State.swapExtents_spec (G := F) hm hF false
      refine ⟨_, migrationTransfer_swaps hm hF hst ht hh hhome, State.updMig_mig hmig, hfur, heng, fun he hd hlen hs j hj => ?_⟩
      show (s.swapExtents m F false).plotByte _ _ = _
      rw [hbytes.plotByte, he, hd]
      exact State.copyRange_reads hs _ (show e.len ≤ 4194304 by omega) hj
    · refine ⟨_, migrationTransfer_copies hm hF hst ht ha hc, rfl, fun h hne => ?_, ?_⟩
      · rw [State.startCopy, State.updPorts, State.updField_fields, vupd_other _ _ _ _ fun e => hne e.symm]
      · rw [State.startCopy, State.updPorts_mine]
        exact ⟨_, rfl, rfl, State.mig_fid hm, rfl, rfl, rfl, rfl⟩
    · refine ⟨_, migrationTransfer_copying hm hF hst ht ha hc, ?_, ?_⟩
      · rw [hcut, if_neg (by decide), if_pos hl]
        exact State.updMig_after hm rfl
      · rw [hcut, if_neg (by decide), if_pos hl]
        rfl
    · rw [migrationTransfer_copying hm hF hst ht ha hc, hcut, if_neg (by decide), if_neg (by omega)]
    · refine ⟨_, migrationTransfer_copying hm hF hst ht ha hc, ?_⟩
      rw [hcut, if_pos rfl]
      exact hback (State.failMove_back hm hF hmv hw)
  case fails => exact fun hst hw hmv => ⟨_, migrationTransfer_fails hm hF hst, hback (State.failMove_back hm hF hmv hw)⟩
  case resume =>
    intro hst hh ht ha hreset hplan
    obtain ⟨t, hrun, hmig, hG, hord, hawake⟩ := migrationResume_runs (w := w) hm hF hst hh ht ha hreset hplan
    refine ⟨t, _, hrun, hmig, hG, rfl, rfl, rfl, rfl, rfl, rfl, ?_, hord, hawake⟩
    simp only [Furrow.resumedAs, List.isEmpty_iff]
  case handover =>
    intro hst
    refine ⟨_, bankHandoverCompletion_goes hst, fun hq => ?_⟩
    rw [State.resumeField_idle (s := s.updBank f b _) hq]
    refine ⟨?_, fun k hk => ?_, rfl, rfl⟩
    · rw [State.updBank_mine]
    · rw [State.updBank, State.updField_fields, vupd_same, vupd_other _ _ _ _ fun e => hk e.symm]

end Sys2Proof.Machine
end

section
/-! PROOFS. The plan in force under the Sower's own operations: what a transition sets stands to its end (R22, R90-R94). -/

namespace Sys2Proof.Machine

/-- The plan in force and the number of transitions are those of s. -/
structure SamePlan (s t : State) : Prop where
  active : t.sower.activePlan = s.sower.activePlan
  transitions : t.sower.transitions = s.sower.transitions

namespace SamePlan

variable {s t u : State}

theorem refl (s : State) : SamePlan s s := ⟨rfl, rfl⟩

theorem trans (h : SamePlan s t) (h' : SamePlan t u) : SamePlan s u := ⟨h'.active.trans h.active, h'.transitions.trans h.transitions⟩

theorem of_sower (h : t.sower = s.sower) : SamePlan s t := ⟨by rw [h], by rw [h]⟩

end SamePlan

theorem foldl_samePlan {α : Type} {g : State → α → State} (l : List α) (s : State) (h : ∀ t a, SamePlan t (g t a)) :
    SamePlan s (l.foldl g s) :=
  foldl_rel .refl .trans l s h

theorem LeftOf.samePlan {s t : State} {g : Fin 96} (h : LeftOf s t g) : SamePlan s t := .of_sower h.sower

theorem PlotWork.samePlan {s t : State} (h : PlotWork s t) : SamePlan s t := .of_sower h.sower

theorem State.log_samePlan (s : State) (c : Fin 15) (e : Nat) (f : Option (Fin 4)) (o : Nat) (a b : Word) : SamePlan s (s.log c e f o a b) :=
  .of_sower (State.log_sower ..)

theorem State.updSower_samePlan (s : State) (h : Sower → Sower) (ha : ∀ W, (h W).activePlan = W.activePlan := by exact fun _ => rfl)
    (ht : ∀ W, (h W).transitions = W.transitions := by exact fun _ => rfl) : SamePlan s (s.updSower h) :=
  ⟨ha _, ht _⟩

theorem State.updFurrow_samePlan (s : State) (id : Nat) (h : Furrow → Furrow) : SamePlan s (s.updFurrow id h) := .of_sower rfl
theorem State.updEngine_samePlan (s : State) (g : Fin 96) (h : Engine → Engine) : SamePlan s (s.updEngine g h) := .of_sower rfl
theorem State.updField_samePlan (s : State) (f : Fin 4) (h : Field → Field) : SamePlan s (s.updField f h) := .of_sower rfl
theorem State.updSup_samePlan (s : State) (h : Sup → Sup) : SamePlan s (s.updSup h) := .of_sower rfl
theorem State.updAlm_samePlan (s : State) (h : Almanac → Almanac) : SamePlan s (s.updAlm h) := .of_sower rfl

/-! Furrows that leave their engines -/

theorem State.endMig_samePlan (s : State) (fid : Nat) : SamePlan s (s.endMig fid) := by
  constructor <;> rw [s.endMig_sower]

theorem State.takeOff_samePlan (s : State) (fid : Nat) (st : FurrowSt) : SamePlan s (s.takeOff fid st) := by
  rcases s.takeOff_sower fid st with h | h
  · exact .of_sower h
  · exact ⟨by rw [h], by rw [h]⟩

theorem State.restartLater_samePlan (s : State) (fid how : Nat) : SamePlan s (s.restartLater fid how) :=
  (s.takeOff_samePlan fid .unplaced).trans (State.updSower_samePlan ..)

theorem State.loseFurrow_samePlan (s : State) (fid c : Nat) (o : Option (Fin 4)) : SamePlan s (s.loseFurrow fid c o) := by
  cases h : s.furrow? fid with
  | none => rw [State.loseFurrow_none h]; exact .refl s
  | some F =>
    rw [State.loseFurrow_eq h]
    refine SamePlan.trans ?_ (State.log_samePlan ..)
    split
    · exact s.restartLater_samePlan ..
    · exact s.takeOff_samePlan ..
    · exact s.takeOff_samePlan ..

theorem State.swapExtents_samePlan (s : State) (m : Migration) (F : Furrow) (back : Bool) : SamePlan s (s.swapExtents m F back) :=
  (s.copyExtents_work (fieldOf m.dst) F.extents m.extents).samePlan.trans ⟨rfl, rfl⟩

theorem State.cancelMig_samePlan (s : State) (m : Migration) : SamePlan s (s.cancelMig m) := by
  unfold State.cancelMig
  extract_lets u v
  have hu : SamePlan s u := s.updFurrow_samePlan ..
  have hv : SamePlan u v := by
    unfold v
    split
    · split
      · exact (u.handOver_work ..).samePlan
      · split
        · exact u.swapExtents_samePlan ..
        · exact .refl u
    · exact .refl u
  exact ((hu.trans hv).trans (v.endMig_samePlan _)).trans (.of_sower (State.joinEngine_sower ..))

theorem State.beginMove_samePlan (s : State) (F : Furrow) (dst : Fin 96) (why : Nat) (cmd : Option (Fin 16 × BitVec 16)) :
    SamePlan s (s.beginMove F dst why cmd) := by
  unfold State.beginMove
  split
  · exact .refl s
  · exact s.updSower_samePlan _

/-! A Field that is reset once it is empty (R22, R86) -/

theorem State.finish_samePlan (s : State) (mb : Fin 16) (k : BitVec 16) (st : Nat) (r : List Word) (x : Option Bool) :
    SamePlan s (s.finish mb k st r x) :=
  .of_sower (by rw [s.finish_rest])

theorem State.abortIn_samePlan (s : State) (f : Fin 4) : SamePlan s (s.abortIn f) := by
  unfold State.abortIn
  extract_lets u t
  have hu : SamePlan s u := .of_sower (by unfold u; rw [State.finishAll_rest])
  exact (hu.trans (foldl_samePlan _ u fun v w => v.finish_samePlan ..)).trans (t.updSup_samePlan _)

theorem State.loseField_samePlan (s : State) (f : Fin 4) : SamePlan s (s.loseField f) := by
  refine foldl_samePlan _ s fun t F => ?_
  split
  · exact .refl t
  · split
    · split
      · exact .refl t
      · exact t.updSower_samePlan _
    · exact t.loseFurrow_samePlan ..

theorem State.failEvent_samePlan (s : State) (kind : BitVec 8) (f : Fin 4) : SamePlan s (s.failEvent kind f) := by
  unfold State.failEvent
  split
  · exact s.updSower_samePlan _
  · exact .refl s

theorem State.clearTally_samePlan (s : State) (f : Fin 4) : SamePlan s (s.clearTally f) := .of_sower rfl

theorem State.openWindows_samePlan (s : State) (f : Fin 4) : SamePlan s (s.openWindows f) := s.updField_samePlan ..

theorem State.fieldResetAs_samePlan (s : State) (f : Fin 4) (cause : BitVec 4) (failed : Bool) : SamePlan s (s.fieldResetAs f cause failed) := by
  have h1 : SamePlan s (s.log 0 3 (some f) f.val (cause.setWidth 32) 0) := s.log_samePlan ..
  unfold State.fieldResetAs
  generalize s.log 0 3 (some f) f.val (cause.setWidth 32) 0 = a at h1
  extract_lets a' served b c d e x y z
  have hb : SamePlan a b := (a.abortIn_samePlan f).trans (foldl_samePlan _ _ fun t m => t.cancelMig_samePlan m)
  have hd : SamePlan a d := (hb.trans (.of_sower (State.setFieldSt_sower ..))).trans (State.loseField_samePlan ..)
  have he : SamePlan d e := by
    unfold e
    split
    · exact d.failEvent_samePlan ..
    · exact .refl d
  have hx : SamePlan e x := (e.bridgeAbort_left f 0).samePlan.trans (foldl_samePlan _ _ fun t g => t.updEngine_samePlan ..)
  have hy : SamePlan a y := ((hd.trans he).trans hx).trans (x.updField_samePlan ..)
  have hz : SamePlan a z := (hy.trans (y.clearTally_samePlan f)).trans (State.openWindows_samePlan _ f)
  split
  · exact h1
  · split
    · exact (h1.trans hz).trans (z.updSup_samePlan _)
    · exact h1.trans hz

theorem State.emptiedDone_samePlan (s : State) (f : Fin 4) : SamePlan s (s.emptiedDone f) := by
  unfold State.emptiedDone
  split
  · exact (State.updSower_samePlan ..).trans (State.fieldResetAs_samePlan ..)
  · exact .refl s

theorem State.left_samePlan (s : State) (g : Fin 96) : SamePlan s (s.left g) := by
  have hd := (s.retireDone_left g).samePlan.trans (State.drainDone_left _ (fieldOf g) g).samePlan
  exact hd.trans (State.emptiedDone_samePlan ..)

/-! A transition (R90-R94) -/

theorem State.resubstitute_samePlan (s : State) (q : Nat) : SamePlan s (s.resubstitute q) := by
  unfold State.resubstitute
  extract_lets t u
  have hu : SamePlan s u := s.updSower_samePlan _
  refine hu.trans (foldl_samePlan _ u fun v g => ?_)
  dsimp only
  split
  · split
    · exact v.updSower_samePlan _
    · exact .refl v
  · exact .refl v

theorem State.applyBlockItem_samePlan (s : State) (x : Item) : SamePlan s (s.applyBlockItem x) := by
  unfold State.applyBlockItem
  split
  · split
    · exact .of_sower rfl
    · exact .refl s
  · exact s.updAlm_samePlan _
  · exact .of_sower rfl
  · exact .refl s

theorem State.firstReturn_samePlan (s : State) : SamePlan s s.firstReturn := by
  unfold State.firstReturn
  split
  · exact .refl s
  · extract_lets u v
    have hu : SamePlan s u := foldl_samePlan _ s fun t e => t.applyBlockItem_samePlan e.2
    have hv : SamePlan u v := foldl_samePlan _ u fun t f => by
      split
      · split
        · exact .refl t
        · exact t.updSup_samePlan _
      · exact .refl t
    exact ((hu.trans hv).trans (v.updSup_samePlan _)).trans (State.updSup_samePlan ..)

theorem State.applyField_samePlan (s : State) (f : Fin 4) : SamePlan s (s.applyField f) := by
  unfold State.applyField
  extract_lets l zones u v
  have hv : SamePlan s v := (s.updField_samePlan ..).trans (u.updSup_samePlan _)
  split
  · exact hv.trans (v.updAlm_samePlan _)
  · exact hv

theorem State.toService_samePlan (s : State) (f : Fin 4) : SamePlan s (s.toService f) := by
  have h : SamePlan s (s.setFieldSt f .inService) := .of_sower (State.setFieldSt_sower ..)
  unfold State.toService
  refine h.trans ?_
  unfold State.keepAwake
  split
  · exact .refl _
  · refine foldl_samePlan _ _ fun t g => ?_
    split
    · exact .of_sower (t.wake_sower g)
    · exact .refl t

theorem State.reclaim_samePlan (s : State) (f : Fin 4) : SamePlan s (s.reclaim f) :=
  foldl_samePlan _ s fun t _ => foldl_samePlan _ t fun u b => (u.updBank_work f b _).samePlan

theorem State.wakeWaiting_samePlan (s : State) (f : Fin 4) : SamePlan s (s.wakeWaiting f) := by
  unfold State.wakeWaiting
  exact s.updSower_samePlan _

theorem State.returnField_samePlan (s : State) (f : Fin 4) : SamePlan s (s.returnField f) := by
  unfold State.returnField
  extract_lets bad u
  have hu : SamePlan s u := s.updSup_samePlan _
  split
  · exact hu.trans (u.log_samePlan ..)
  · split
    · exact hu
    · exact ((((hu.trans u.firstReturn_samePlan).trans (State.applyField_samePlan ..)).trans (State.toService_samePlan ..)).trans
        (State.reclaim_samePlan ..)).trans (State.wakeWaiting_samePlan ..)

theorem State.transitFurrow_samePlan (s : State) (p : Nat) (old : Option (Fin 96 × Word)) (fid : Nat) :
    SamePlan s (s.transitFurrow p old fid) := by
  unfold State.transitFurrow
  split
  · exact .refl s
  · rename_i F _
    split
    · exact .refl s
    · split
      · have h := (s.updSower_samePlan fun W => { W with restarts := W.restarts.filter fun r => r.1 ≠ fid }).trans
          (State.takeOff_samePlan _ fid .unplaced)
        dsimp only
        split
        · exact h.trans (State.left_samePlan ..)
        · exact h
      · split
        · split
          · exact .refl s
          · split
            · exact s.updSower_samePlan _
            · exact s.updFurrow_samePlan ..
        · split
          · exact .refl s
          · extract_lets u
            have hu : SamePlan s u := by
              unfold u
              split
              · split
                · exact .refl s
                · exact s.cancelMig_samePlan _
              · exact .refl s
            split
            · exact hu
            · split
              · exact hu.trans (u.loseFurrow_samePlan ..)
              · split
                · exact hu.trans (u.beginMove_samePlan ..)
                · exact hu

/-- A transition sets its plan and counts itself (R90). -/
theorem State.transit_plan (s : State) (kind : BitVec 8) (subject : Fin 4) (q : Nat) :
    (s.transit kind subject q).sower.activePlan = q ∧ (s.transit kind subject q).sower.transitions = s.sower.transitions + 1 := by
  unfold State.transit
  extract_lets p old u v used w x y z a
  have hv : SamePlan u v := u.resubstitute_samePlan q
  have hw : SamePlan v w := foldl_samePlan _ v fun t f => by
    split
    · exact t.returnField_samePlan f
    · exact .refl t
  have hx : SamePlan w x := by
    unfold x
    split
    · exact w.updSower_samePlan _
    · exact .refl w
  have hy : SamePlan x y := foldl_samePlan _ x fun t e => t.transitFurrow_samePlan ..
  have hz : SamePlan y z := y.updSower_samePlan _
  have h : SamePlan u ((a.raise 0 subject.val).emptiedDone subject) :=
    (((((((hv.trans hw).trans hx).trans hy).trans hz).trans (z.log_samePlan ..)).trans (.of_sower (State.raise_sower ..))).trans
      (State.emptiedDone_samePlan ..))
  exact ⟨h.active, h.transitions⟩

end Sys2Proof.Machine
end

section
/-! PROOFS. What the Sower does of itself (R81-R84, R90-R93, R99-R101, R211, R428). -/

namespace Sys2Proof.Machine

/-! Load windows (R81) -/

/-- A furrow with a window's cycles among its last 16. -/
def Furrow.loaded (w : Nat → Nat) (F : Furrow) : Furrow := { F with loads := (w F.id :: F.loads).take 16 }

/-- Furrows that take the cycles of a window. -/
def State.loaded (s : State) (w : Nat → Nat) (l : List Furrow) : State :=
  l.foldl (fun (s : State) (F : Furrow) => s.updFurrow F.id (Furrow.loaded w)) s

theorem State.loaded_rest (s : State) (w : Nat → Nat) (l : List Furrow) : s.loaded w l = { s with furrows := (s.loaded w l).furrows } :=
  foldl_rel (R := fun (s t : State) => t = { s with furrows := t.furrows })
    (g := fun (s : State) (F : Furrow) => s.updFurrow F.id (Furrow.loaded w)) (fun _ => rfl) (fun h h' => by rw [h', h]) l s fun _ _ => rfl

/-- Each furrow of a list without repetitions takes its cycles once. -/
theorem State.loaded_furrow (w : Nat → Nat) (l : List Furrow) (s : State) (hl : (l.map Furrow.id).Nodup) (id : Nat) :
    (s.loaded w l).furrow? id = if id ∈ l.map Furrow.id then (s.furrow? id).map (Furrow.loaded w) else s.furrow? id := by
  induction l generalizing s with
  | nil => rfl
  | cons F l ih =>
    rw [List.map_cons, List.nodup_cons] at hl
    rw [State.loaded, List.foldl_cons, ← State.loaded, ih _ hl.2, updFurrow_furrow s F.id (Furrow.loaded w) (fun _ => rfl),
      List.map_cons]
    by_cases e : id = F.id
    · rw [e, if_neg hl.1, if_pos rfl, if_pos List.mem_cons_self]
    · rw [if_neg e]
      simp only [List.mem_cons, e, false_or]

/-- An engine's load and its windows above the target, as a window of total cycles leaves them. -/
def State.windowed (s : State) (g : Fin 96) (total : Nat) : State :=
  s.updEngine g fun E =>
    { E with
      load := min 1000 (total * 1000 / s.rateOf (fieldOf g))
      overWins := if decide (s.target * s.rateOf (fieldOf g) < s.loadOn g) then E.overWins + 1 else 0 }

/-- Cycles of a window by furrow. -/
def cyclesOf (used : List (Nat × Nat)) (fid : Nat) : Nat := ((used.filter fun u => u.1 == fid).map Prod.snd).sum

theorem loadMonitorWindow_eq (s : State) (g : Fin 96) (used : List (Nat × Nat)) : exec (.loadMonitorWindow g used) s = .next
    ((s.loaded (cyclesOf used) (s.residents g)).windowed g ((s.residents g).map fun R => cyclesOf used R.id).sum) := by
  rfl

theorem loadMonitorWindow_takes {s : State} {F : Furrow} (hF : s.furrow? F.id = some F) (g : Fin 96) (used : List (Nat × Nat)) :
    ∃ t, exec (.loadMonitorWindow g used) s = .next t ∧
      t.engines[g].load = min 1000 (((s.residents g).map fun R => cyclesOf used R.id).sum * 1000 / s.rateOf (fieldOf g)) ∧
      t.engines[g].overWins = (if t.target * t.rateOf (fieldOf g) < t.loadOn g then s.engines[g].overWins + 1 else 0) ∧
      ((s.furrows.map Furrow.id).Nodup → F.engine = some g → t.furrow? F.id = some (F.loaded (cyclesOf used))) ∧
      (∀ k : Fin 96, k ≠ g → t.engines[k] = s.engines[k]) ∧ t.plot = s.plot := by
  refine ⟨_, loadMonitorWindow_eq s g used, ?_⟩
  have hrest := s.loaded_rest (cyclesOf used) (s.residents g)
  have hfur := State.loaded_furrow (cyclesOf used) (s.residents g) s
  generalize s.loaded (cyclesOf used) (s.residents g) = u at hrest hfur
  have he : u.engines = s.engines := by rw [hrest]
  have hrate : u.rateOf (fieldOf g) = s.rateOf (fieldOf g) := by rw [hrest]; rfl
  refine ⟨?_, ?_, fun hn hg => ?_, fun k hk => ?_, ?_⟩
  · rw [State.windowed, State.updEngine_mine, hrate]
  · rw [State.windowed, State.updEngine_mine, he]
    simp only [decide_eq_true_eq]
    rfl
  · have hin : F.id ∈ (s.residents g).map Furrow.id :=
      List.mem_map_of_mem (List.mem_filter.mpr ⟨List.mem_of_find?_eq_some hF, by rw [hg]; exact beq_self_eq_true _⟩)
    refine (furrow_of_furrows (s := u) (by rfl) F.id).trans ?_
    rw [hfur ((List.filter_sublist.map _).nodup hn), if_pos hin, hF]
    rfl
  · rw [State.windowed, State.updEngine_other _ _ hk, he]
  · rw [State.windowed, State.updEngine_plot, hrest]

/-! A rebalance (R83, R266) -/

/-- Furrows stand, and so does every migration, perhaps with more beside it. -/
structure MovesKept (s t : State) : Prop where
  furrows : t.furrows = s.furrows
  migs : ∀ m ∈ s.sower.migs, m ∈ t.sower.migs

namespace MovesKept

variable {s t u : State}

theorem refl (s : State) : MovesKept s s := ⟨rfl, fun _ h => h⟩

theorem trans (h : MovesKept s t) (h' : MovesKept t u) : MovesKept s u :=
  ⟨h'.furrows.trans h.furrows, fun m hm => h'.migs m (h.migs m hm)⟩

theorem of_same (hf : t.furrows = s.furrows) (hs : t.sower = s.sower) : MovesKept s t := ⟨hf, fun m hm => by rw [hs]; exact hm⟩

end MovesKept

theorem PlotWork.movesKept {s t : State} (h : PlotWork s t) : MovesKept s t := .of_same h.furrows h.sower

/-- A fold of steps that may fail, each of which keeps a relation, keeps it. -/
theorem foldl_bind_rel {α σ : Type} {R : σ → σ → Prop} (refl : ∀ s, R s s) (trans : ∀ {s t u}, R s t → R t u → R s u) {step : σ → α → Option σ}
    (h : ∀ s a t, step s a = some t → R s t) (l : List α) {s t : σ}
    (ht : l.foldl (fun (r : Option σ) (a : α) => r.bind fun s => step s a) (some s) = some t) : R s t := by
  have none_stays (l : List α) : l.foldl (fun (r : Option σ) (a : α) => r.bind fun s => step s a) none = none := by
    induction l with
    | nil => rfl
    | cons a l ih => exact ih
  induction l generalizing s with
  | nil =>
    obtain rfl := Option.some.inj ht
    exact refl s
  | cons a l ih =>
    rw [List.foldl_cons, Option.bind_some] at ht
    cases hs : step s a with
    | none =>
      rw [hs, none_stays] at ht
      cases ht
    | some u =>
      rw [hs] at ht
      exact trans (h s a u hs) (ih ht)

theorem State.beginMove_added {F : Furrow} {src : Fin 96} (hF : F.engine = some src) (s : State) (dst : Fin 96) (why : Nat)
    (cmd : Option (Fin 16 × BitVec 16)) : ∃ m ∈ (s.beginMove F dst why cmd).sower.migs,
      m.fid = F.id ∧ m.src = src ∧ m.dst = dst ∧ m.st = .prepare ∧ m.why = why := by
  rw [State.beginMove, hF]
  exact ⟨_, List.mem_append_right _ (List.mem_singleton_self _), rfl, rfl, rfl, rfl, rfl⟩

theorem State.beginMove_kept (s : State) (F : Furrow) (dst : Fin 96) (why : Nat) (cmd : Option (Fin 16 × BitVec 16)) :
    MovesKept s (s.beginMove F dst why cmd) := by
  unfold State.beginMove
  split
  · exact .refl s
  · exact ⟨rfl, fun m hm => List.mem_append_left _ hm⟩

theorem State.noteBreach_kept (s : State) (fid : Nat) (g : Fin 96) (b : Bool) : MovesKept s (s.noteBreach fid g b) :=
  .of_same (s.noteBreach_furrows fid g b) (by rw [s.noteBreach_rest])

theorem State.vacate_kept (s : State) (g : Fin 96) (n : Nat) : MovesKept s (s.vacate g n).1 := by
  unfold State.vacate
  extract_lets l moved
  split
  · exact .refl s
  · cases ht : moved with
    | none => exact .refl s
    | some t =>
      refine foldl_bind_rel .refl .trans (fun u F v hv => ?_) l ht
      split at hv
      · obtain rfl := Option.some.inj hv
        exact u.beginMove_kept ..
      · cases hv

theorem State.vacateBank_kept {s t : State} {f : Fin 4} {b : Fin 32} (h : s.vacateBank f b = some t) : MovesKept s t := by
  refine foldl_bind_rel .refl .trans (fun u F v hv => ?_) _ h
  split at hv
  · cases hv
  · split at hv
    · obtain rfl := Option.some.inj hv
      exact (u.beginMove_kept ..).trans (State.noteBreach_kept ..)
    · cases hv

theorem State.remapFlagged_work (s : State) (f : Fin 4) (b : Fin 32) : PlotWork s (s.remapFlagged f b).1 := by
  unfold State.remapFlagged
  dsimp only
  split
  · dsimp only
    exact (s.retireBank_work f b).trans (State.updSeed_work ..)
  · exact s.remapRows_work f b _

theorem State.destructiveTest_work (s : State) (f : Fin 4) (b : Fin 32) (l : List Nat) (again : Bool) :
    PlotWork s (s.destructiveTest f b l again).1 := by
  unfold State.destructiveTest
  split
  · exact s.passBank_work f b
  · extract_lets t B rows u
    have ht : PlotWork s t := (s.logRows_work f b l).trans (State.badSpares_work ..)
    have hu : PlotWork s u := ht.trans (t.remapRows_work f b rows)
    split
    · exact ht.trans (t.retireBank_work f b)
    · split
      · exact hu.trans (u.retireBank_work f b)
      · exact hu.trans (u.passBank_work f b)

theorem State.fresh_kept (s : State) (w : Nat) : MovesKept s (s.fresh w).2 := .of_same (by rfl) (by rfl)

theorem State.repairAlone_kept (s : State) (f : Fin 4) (b : Fin 32) : MovesKept s (s.repairAlone f b) := by
  have h : MovesKept s (s.remapFlagged f b).1 := (s.remapFlagged_work f b).movesKept
  unfold State.repairAlone
  extract_lets r
  change MovesKept s r.1 at h
  generalize r = r at h
  split
  · exact h.trans ((r.1.fresh_kept 1033).trans (State.destructiveTest_work ..).movesKept)
  · exact h

theorem State.repairFlagged_kept (s : State) (f : Fin 4) : MovesKept s (s.repairFlagged f) := by
  refine foldl_rel .refl .trans _ s fun t b => ?_
  split
  · exact .refl t
  · split
    · exact t.repairAlone_kept f b
    · split
      · rename_i u hu
        exact State.vacateBank_kept hu
      · exact .of_same (State.log_furrows ..) (State.log_sower ..)
    · exact .refl t

theorem State.noteLight_furrows (s : State) (f : Fin 4) : (s.noteLight f).furrows = s.furrows :=
  foldl_rel (R := fun (s t : State) => t.furrows = s.furrows) (fun _ => rfl) (fun h h' => Eq.trans h' h) (fieldEngines f) s
    fun _ _ => State.updEngine_furrows ..

/-- An overloaded engine with one furrow to give gives it to the engine chosen. -/
theorem State.relieve_one {u : State} {g h : Fin 96} {F : Furrow} (hl : u.lightFirst g = [F])
    (ho : u.target * u.rateOf (fieldOf g) < u.loadLeft g) (hc : u.choose F (mayRebalance F) = some (h, false)) :
    u.relieve g 8 = (u.beginMove F h forBalance none, 7) := by
  have hn : ¬ (8 = 0 ∨ u.loadLeft g ≤ u.target * u.rateOf (fieldOf g)) := by omega
  rw [State.relieve, hl, List.foldl_cons, List.foldl_nil, if_neg hn, hc]
  rfl

theorem State.balance_one {u : State} {f : Fin 4} {g h : Fin 96} {F : Furrow} (ho : u.overloaded f = [g]) (hl : u.lightFirst g = [F])
    (hload : u.target * u.rateOf (fieldOf g) < u.loadLeft g) (hc : u.choose F (mayRebalance F) = some (h, false)) :
    MovesKept (u.beginMove F h forBalance none) (u.balance f) := by
  rw [State.balance, ho, List.foldl_cons, List.foldl_nil, State.relieve_one hl hload hc]
  exact foldl_rel (R := fun (r q : State × Nat) => MovesKept r.1 q.1) (fun r => .refl r.1) .trans _ (u.beginMove F h forBalance none, 7)
    fun r g => r.1.vacate_kept g r.2

theorem rebalance_moves {s : State} {f : Fin 4} {g h : Fin 96} {F : Furrow} (hs : s.sealed = false) (ha : s.sowerActs f = true)
    (hst : s.fields[f].st = .inService) (ho : (s.noteLight f).overloaded f = [g]) (hl : (s.noteLight f).lightFirst g = [F])
    (hload : (s.noteLight f).target * (s.noteLight f).rateOf (fieldOf g) < (s.noteLight f).loadLeft g)
    (hc : (s.noteLight f).choose F (mayRebalance F) = some (h, false)) (hg : F.engine = some g) :
    ∃ t m, exec (.rebalance f) s = .next t ∧ m ∈ t.sower.migs ∧ m.fid = F.id ∧ m.src = g ∧ m.dst = h ∧ m.st = .prepare ∧
      m.why = forBalance ∧ t.furrows = s.furrows := by
  have he : exec (.rebalance f) s = .next (((s.noteLight f).balance f).repairFlagged f) :=
    congrArg Host.Outcome.next (if_neg fun hn => by
      rw [hs, ha] at hn
      exact hn.elim nofun fun hn => hn.elim nofun fun hn => hn hst)
  have hk := (State.balance_one ho hl hload hc).trans (State.repairFlagged_kept _ f)
  obtain ⟨m, hm, h1, h2, h3, h4, h5⟩ := (s.noteLight f).beginMove_added hg h forBalance none
  exact ⟨_, m, he, hk.migs m hm, h1, h2, h3, h4, h5,
    (hk.furrows.trans (State.beginMove_kept ..).furrows).trans (s.noteLight_furrows f)⟩

/-! Doze (R84, R468) -/

theorem dozeEntry_goes {s : State} {g : Fin 96} (hst : s.engines[g].st = .awake) (hr : s.residents g = []) (ht : s.isTarget g = false)
    (hk : s.sealed = true ∨ s.sower.packing = true ∨ s.fields[fieldOf g].st ≠ .inService) (hp : s.sup.passThrough = false) :
    ∃ t, exec (.dozeEntry g) s = .next t ∧ t.engines[g].st = .doze ∧ t.engines[g].lastLoaded = none ∧
      (∀ k : Fin 96, k ≠ g → t.engines[k] = s.engines[k]) ∧ t.furrows = s.furrows ∧ t.plot = s.plot := by
  have hkept : (!s.sealed && !s.sower.packing && s.fields[fieldOf g].st == .inService) = false := by
    rcases hk with h | h | h
    · rw [h]; rfl
    · rw [h, Bool.not_true, Bool.and_false, Bool.false_and]
    · rw [beq_false_of_ne h, Bool.and_false]
  have h := s.emitEngine_traceOnly g 0xFFF Ctx.zero (packet 2 g.val 0xFFF 0 [s.now])
  refine ⟨(s.emitEngine g 0xFFF Ctx.zero (packet 2 g.val 0xFFF 0 [s.now])).updEngine g fun E =>
    { E with st := .doze, lastLoaded := none }, ?_, ?_, ?_, fun k hk => ?_, ?_, ?_⟩
  · exact congrArg Host.Outcome.next (if_pos ⟨hst, by rw [hr]; rfl, by rw [ht]; decide, by rw [hkept]; decide, by rw [hp]; decide⟩)
  · rw [State.updEngine_mine]
  · rw [State.updEngine_mine]
  · rw [State.updEngine_other _ _ hk, h.engines k hk]
  · rw [State.updEngine_furrows, h.rest]
  · rw [State.updEngine_plot, h.rest]

/-! A plan's transition (R90-R93) -/

section
variable {s : State} {kind : BitVec 8} {f : Fin 4} {events : List (BitVec 8 × Fin 4)}

/-- The oldest event is taken in Sealed mode, once no transition is in progress and no Field stalls the Sower. -/
theorem planTransition_eq (he : s.sower.events = (kind, f) :: events) (hs : s.sealed = true) (ht : s.transiting = false)
    (hf : ∀ k : Fin 4, s.fields[k].stallSower = false) : execPlanTransition kind f s = .next
      (match s.transitionFor kind.toNat f.val with
      | some q => (s.updSower fun W => { W with events := events }).transit kind f q
      | none => s.updSower fun W => { W with events := events }) := by
  have hstall : (s.fields.toList.any fun F => F.stallSower) = false := by
    refine List.any_eq_false.mpr fun F hF => ?_
    obtain ⟨i, hi, rfl⟩ := Vector.getElem_of_mem (Vector.mem_toList_iff.mp hF)
    rw [show s.fields[i].stallSower = false from hf ⟨i, hi⟩]
    decide
  unfold execPlanTransition
  rw [he]
  dsimp only
  rw [if_neg (by rw [hs, ht, hstall]; simp)]
  rfl

theorem planTransition_stays (he : s.sower.events = (kind, f) :: events) (hs : s.sealed = true) (ht : s.transiting = false)
    (hf : ∀ k : Fin 4, s.fields[k].stallSower = false) (hn : s.transitionFor kind.toNat f.val = none) :
    exec (.planTransition kind f) s = .next { s with sower := { s.sower with events := events } } := by
  show execPlanTransition kind f s = _
  rw [planTransition_eq he hs ht hf, hn]
  rfl

theorem planTransition_goes (he : s.sower.events = (kind, f) :: events) (hs : s.sealed = true) (ht : s.transiting = false)
    (hf : ∀ k : Fin 4, s.fields[k].stallSower = false) {q : Nat} (hq : s.transitionFor kind.toNat f.val = some q) :
    ∃ t, exec (.planTransition kind f) s = .next t ∧ t.sower.activePlan = q ∧ t.sower.transitions = s.sower.transitions + 1 := by
  refine ⟨(s.updSower fun W => { W with events := events }).transit kind f q, ?_, State.transit_plan ..⟩
  show execPlanTransition kind f s = _
  rw [planTransition_eq he hs ht hf, hq]

end

/-! The retirement of an empty engine (R92, R99, R100) -/

/-- The retirement map is that of s. -/
def SameMap (s t : State) : Prop := t.seed.retiredEngines = s.seed.retiredEngines

namespace SameMap

variable {s t u : State}

theorem refl (s : State) : SameMap s s := rfl

theorem trans (h : SameMap s t) (h' : SameMap t u) : SameMap s u := Eq.trans h' h

theorem of_seed (h : t.seed = s.seed) : SameMap s t := by
  unfold SameMap
  rw [h]

end SameMap

theorem State.log_sameMap (s : State) (c : Fin 15) (e : Nat) (f : Option (Fin 4)) (o : Nat) (a b : Word) : SameMap s (s.log c e f o a b) :=
  .of_seed (State.log_seed ..)

theorem State.count_sameMap (s : State) (p i n : Nat) : SameMap s (s.count p i n) := .of_seed (by rw [count_rest])

theorem State.updField_sameMap (s : State) (f : Fin 4) (h : Field → Field) : SameMap s (s.updField f h) := .of_seed rfl

theorem State.putBytes_sameMap (s : State) (f : Fin 4) (a : Nat) (l : List Byte) : SameMap s (s.putBytes f a l) :=
  .of_seed (by rw [s.putBytes_plot f a l])

theorem State.flagRow_sameMap (s : State) (f : Fin 4) (a : Nat) : SameMap s (s.flagRow f a) := by
  unfold State.flagRow
  extract_lets e t
  have ht : SameMap s t := by
    unfold t
    split
    · exact .refl s
    · exact s.updSeed_retiredEngines _
  split
  · exact ht.trans (t.log_sameMap ..)
  · exact ht

theorem State.noteCorr_sameMap (s : State) (f : Fin 4) (a : Nat) : SameMap s (s.noteCorr f a) := by
  unfold State.noteCorr
  extract_lets t B w old times u
  have hu : SameMap s u := (s.count_sameMap ..).trans (t.updField_sameMap ..)
  split
  · exact hu.trans (u.flagRow_sameMap f a)
  · exact hu

theorem State.noteUncorr_sameMap (s : State) (f : Fin 4) (a e : Nat) : SameMap s (s.noteUncorr f a e) := by
  unfold State.noteUncorr
  extract_lets t u v
  have ht : SameMap s t := s.count_sameMap ..
  have hv : SameMap s v := (ht.trans (t.log_sameMap ..)).trans (u.flagRow_sameMap f a)
  split
  · exact ht
  · split
    · exact hv.trans (v.updField_sameMap ..)
    · exact hv

theorem State.writeWord_sameMap (s : State) (f : Fin 4) (a : Nat) (l : List Byte) : SameMap s (s.writeWord f a l) := by
  unfold State.writeWord
  split
  · exact (s.updField_sameMap ..).trans (State.putBytes_sameMap ..)
  · split
    · exact s.putBytes_sameMap f a l
    · exact ((s.noteCorr_sameMap f a).trans (State.updField_sameMap ..)).trans (State.putBytes_sameMap ..)
    · exact ((s.noteUncorr_sameMap f a 2).trans (State.updField_sameMap ..)).trans (State.putBytes_sameMap ..)

theorem State.writeWords_sameMap (n : Nat) (s : State) (f : Fin 4) (a : Nat) (l : List Byte) : SameMap s (s.writeWords f a l n) := by
  induction n generalizing s a l with
  | zero => exact .refl s
  | succ n ih =>
    unfold State.writeWords
    split
    · exact .refl s
    · exact (s.writeWord_sameMap f a _).trans (ih _ _ _)

theorem State.landUnits_sameMap (s : State) (t : Fin 4) (j : Job) : SameMap s (s.landUnits t j) := by
  unfold State.landUnits
  split
  · exact .refl s
  · split
    · exact .refl s
    · extract_lets size need pos pos' free
      split
      · exact .refl s
      · split
        · exact .refl s
        · exact s.writeWords_sameMap ..

theorem State.bridgeAbort_sameMap (s : State) (f : Fin 4) : SameMap s (s.bridgeAbort f) := by
  unfold State.bridgeAbort
  extract_lets u ports fieldsOf
  have hu : SameMap s u := foldl_rel .refl .trans _ s fun t k => foldl_rel .refl .trans _ t fun v j => by
    split
    · exact v.landUnits_sameMap ..
    · exact .refl v
  clear_value u
  exact hu.trans (.of_seed (by rfl))

theorem State.drainDone_sameMap (s : State) (f : Fin 4) : SameMap s (s.drainDone f) := by
  by_cases h : s.fields[f].st ≠ .draining ∨ ∃ F ∈ s.furrows, F.on f
  · rw [State.drainDone_busy h]
    exact .refl s
  · push Not at h
    rw [State.drainDone_empty h.1 h.2]
    exact (((SameMap.of_seed (by rw [s.setFieldSt_rest])).trans (State.bridgeAbort_sameMap ..)).trans (State.updField_sameMap ..)).trans
      (.of_seed (State.finishOk_seed ..))

/-- An engine stands where a Field's drain ends, but for its headland stack. -/
theorem State.drainDone_engine (s : State) (f : Fin 4) (g : Fin 96) :
    (s.drainDone f).engines[g] = { s.engines[g] with hdlSp := (s.drainDone f).engines[g].hdlSp } :=
  (s.drainDone_left f (if g = 0 then 1 else 0)).others g (by split <;> omega)

theorem State.retired_due (s : State) (g : Fin 96) (code : Fin 8) : (s.retired g code).engines[g].retireDue = none := by
  rw [State.retired, State.log_engines, ((s.retireMarked g).releaseEmpty_released (fieldOf g)).engine, State.retireMarked,
    State.updSeed_engines, State.updEngine_mine]

theorem engineRetirement_goes {s : State} {g : Fin 96} {code : Fin 8} (hd : s.engines[g].retireDue = some code)
    (hst : s.engines[g].st ≠ .retired) (ha : s.sowerActs (fieldOf g) = true) (hr : s.residents g = []) :
    ∃ t, exec (.engineRetirement g code) s = .next t ∧ t.engines[g].st = .retired ∧ t.engines[g].retireDue = none ∧
      g ∈ t.seed.retiredEngines ∧ t.furrows = s.furrows ∧ (s.fields[fieldOf g].st ≠ .draining → t.plot = s.plot) := by
  have hv := State.vacateEngine_empty (s := s) hr
  have he : exec (.engineRetirement g code) s = .next (((s.vacateEngine g).retireDone g).drainDone (fieldOf g)) :=
    congrArg Host.Outcome.next (if_pos ⟨hd, hst, ha⟩)
  generalize s.vacateEngine g = u at hv he
  have hfur : u.furrows = s.furrows := by rw [hv.rest]
  have hplot : u.plot = s.plot := by rw [hv.rest]
  have hfields : u.fields = s.fields := by rw [hv.rest]
  have hr' : u.residents g = [] := by rw [State.residents, hfur]; exact hr
  have hdone := State.retireDone_empty ((hv.due g).trans hd) hr' fun e => hst (hv.st g e)
  obtain ⟨-, k2, k3, k4⟩ := u.retired_keeps g code
  obtain ⟨m1, m2⟩ := u.retired_marks g code
  refine ⟨_, he, ?_, ?_, ?_, ?_, fun hdr => ?_⟩
  · rw [State.drainDone_engine, hdone, State.finishOk_engines, State.raise_engines, m1]
  · rw [State.drainDone_engine, hdone, State.finishOk_engines, State.raise_engines, State.retired_due]
  · rw [State.drainDone_sameMap, hdone, State.finishOk_seed, State.raise_seed]
    exact m2
  · rw [(State.drainDone_left _ (fieldOf g) g).furrows, hdone, State.finishOk_furrows, State.raise_furrows, k3, hfur]
  · rw [State.drainDone_busy (.inl ?_), hdone, State.finishOk_plot, State.raise_plot, k2, hplot]
    rw [hdone, State.finishOk_fields, State.raise_fields, k4, hfields]
    exact hdr

/-! A cold restart (R101, R128, R211, R419) -/

/-- A start with a cause: the furrow is at ENTRY and in the engine's run list, and the sequencer stands. -/
theorem State.startOn_spec {s : State} {fid : Nat} {F : Furrow} (hF : s.furrow? fid = some F) (g : Fin 96) (extents : List Extent)
    (code : Option (List Byte)) {cause : Nat} (hc : cause ≠ 0) : (s.startOn fid g extents code cause).sower = s.sower ∧
      fid ∈ (s.startOn fid g extents code cause).engines[g].order ∧
      ∃ ver, (s.startOn fid g extents code cause).furrow? fid = some (F.startedOn g extents cause (F.restarts + 1) ver) := by
  obtain ⟨u, ver, hu, he⟩ := State.startOn_eq hF g extents code cause
  rw [he, if_neg hc]
  refine ⟨?_, State.joinEngine_order .., ver, ?_⟩
  · rw [State.joinEngine_sower, State.updFurrow_sower, hu.sower]
  · rw [furrow_of_furrows (State.joinEngine_furrows ..)]
    exact updFurrow_mine ((hu.furrow fid).trans hF)

/-- A furrow's own Plot on an engine of its Field: what a restart there takes, hands over or copies. -/
def State.keptPlot (s : State) (F : Furrow) (g : Fin 96) (a : Alloc) : State :=
  let u := s.takeAlloc g a
  let v := if a.extents = F.extents then u.adopt F g else u
  if F.desc.wholeBanks then v.handOver F g
  else if a.extents = F.extents then v else v.copyExtents (fieldOf g) F.extents a.extents

theorem State.keptPlot_work (s : State) (F : Furrow) (g : Fin 96) (a : Alloc) : AllocWork s (s.keptPlot F g a) := by
  unfold State.keptPlot
  extract_lets u v
  have hv : AllocWork s v := by
    unfold v
    split
    · exact (s.takeAlloc_work g a).trans (u.adopt_work F g).alloc
    · exact s.takeAlloc_work g a
  split
  · exact hv.trans (v.handOver_work F g).alloc
  · split
    · exact hv
    · exact hv.trans (v.copyExtents_work ..).alloc

section
variable {s : State} {F : Furrow} {g : Fin 96} {only : Option Word} {a : Alloc}

theorem State.restartOn_here (hF : s.furrow? F.id = some F) (ha : s.allocFor g F only = some a)
    (hk : F.home = some (fieldOf g) ∧ !F.extents.isEmpty) (code : List Byte) : s.restartOn F.id g only code none =
      (((s.keptPlot F g a).updFurrow F.id fun F => { F with extents := a.extents }).releaseEmpty (fieldOf g)).startOn F.id g a.extents none 1 := by
  rw [State.restartOn, hF]
  dsimp only
  rw [ha]
  dsimp only
  rw [if_pos hk]
  rfl

theorem State.restartOn_away (hF : s.furrow? F.id = some F) (ha : s.allocFor g F only = some a)
    (hk : ¬ (F.home = some (fieldOf g) ∧ !F.extents.isEmpty)) (code : List Byte) : s.restartOn F.id g only code none =
      (((s.releasePlot F.id).takeAlloc g a).fillAlloc (fieldOf g) a).startOn F.id g a.extents (some code) 2 := by
  rw [State.restartOn, hF]
  dsimp only
  rw [ha]
  dsimp only
  rw [if_neg hk]
  rfl

/-- Wherever it restarts, the furrow is at ENTRY in its new extents, and the sequencer stands. -/
theorem State.restartOn_spec (hF : s.furrow? F.id = some F) (ha : s.allocFor g F only = some a) (code : List Byte) :
    (s.restartOn F.id g only code none).sower = s.sower ∧ F.id ∈ (s.restartOn F.id g only code none).engines[g].order ∧
      ∃ cause ver, (s.restartOn F.id g only code none).furrow? F.id = some (F.startedOn g a.extents cause (F.restarts + 1) ver) := by
  by_cases hk : F.home = some (fieldOf g) ∧ !F.extents.isEmpty
  · rw [State.restartOn_here hF ha hk]
    have hw := s.keptPlot_work F g a
    generalize s.keptPlot F g a = u at hw
    have hr := (u.updFurrow F.id fun F => { F with extents := a.extents }).releaseEmpty_released (fieldOf g)
    have hu : u.furrow? F.id = some F := (hw.furrow F.id).trans hF
    obtain ⟨h1, h2, ver, h3⟩ := State.startOn_spec (F := { F with extents := a.extents })
      ((furrow_of_furrows hr.furrows F.id).trans (updFurrow_mine hu)) g a.extents none one_ne_zero
    refine ⟨h1.trans (hr.sower.trans hw.sower), h2, 1, ver, h3⟩
  · rw [State.restartOn_away hF ha hk]
    have hr := State.releasePlot_released hF
    generalize s.releasePlot F.id = u at hr
    have hw : AllocWork u ((u.takeAlloc g a).fillAlloc (fieldOf g) a) := (u.takeAlloc_work g a).trans (State.fillAlloc_work ..).alloc
    have hu : u.furrow? F.id = some { F with extents := [], home := none } :=
      (furrow_of_furrows hr.furrows F.id).trans (updFurrow_mine hF)
    obtain ⟨h1, h2, ver, h3⟩ := State.startOn_spec ((hw.furrow F.id).trans hu) g a.extents (some code) two_ne_zero
    refine ⟨h1.trans (hw.sower.trans hr.sower), h2, 2, ver, h3⟩

/-- A furrow no longer waits for its restart. -/
def State.waitsNot (s : State) (fid : Nat) : State := s.updSower fun W => { W with restarts := W.restarts.filter fun r => r.1 ≠ fid }

/-- A furrow that has restarted on an engine: a breach of the headroom is recorded, and a run of escalations is timed from now. -/
def State.restarted (s : State) (fid : Nat) (g : Fin 96) (only : Option Word) (l : List Byte) (breach : Bool) : State :=
  (((s.restartOn fid g only l none).waitsNot fid).noteBreach fid g breach).updFurrow fid fun F =>
    { F with run := F.run.map fun q => (q.1, some (q.2.getD s.now)) }

/-- The furrow of s has restarted on an engine in t, in extents of its own there. -/
def RestartedOn (s t : State) (F : Furrow) (g : Fin 96) (extents : List Extent) : Prop :=
  ∃ G, t.furrow? F.id = some G ∧ G.st = .running ∧ G.engine = some g ∧ G.home = some (fieldOf g) ∧ G.extents = extents ∧
    G.ctx.pc = nw F.desc.entry ∧ G.ctx.psw = 0x00068700#32 ∧ G.restarts = F.restarts + 1 ∧ F.id ∈ t.engines[g].order ∧
    t.sower.restarts = s.sower.restarts.filter (fun r => r.1 ≠ F.id)

theorem State.restarted_spec (hF : s.furrow? F.id = some F) (ha : s.allocFor g F only = some a) (l : List Byte) (breach : Bool) :
    RestartedOn s (s.restarted F.id g only l breach) F g a.extents := by
  obtain ⟨h1, h2, cause, ver, h3⟩ := State.restartOn_spec hF ha l
  unfold State.restarted
  generalize s.restartOn F.id g only l none = u at h1 h2 h3
  have hb := (u.waitsNot F.id).noteBreach_rest F.id g breach
  have hf : ((u.waitsNot F.id).noteBreach F.id g breach).furrow? F.id = some (F.startedOn g a.extents cause (F.restarts + 1) ver) :=
    (furrow_of_furrows (State.noteBreach_furrows ..) F.id).trans h3
  refine ⟨_, updFurrow_mine hf, rfl, rfl, rfl, rfl, rfl, rfl, rfl, ?_, ?_⟩
  · rw [State.updFurrow_engines, hb]
    exact h2
  · rw [State.updFurrow_sower, hb]
    show u.sower.restarts.filter _ = _
    rw [h1]

section
variable {how : Nat} {breach : Bool} {l : List Byte} (hr : s.sower.restarts.find? (fun r => r.1 == F.id) = some (F.id, how))
  (hF : s.furrow? F.id = some F) (hst : F.st = .unplaced) (ha : s.supAlive = true)
include hr hF hst ha

theorem coldRestart_fails (hc : s.restartChoice F how = some none) : exec (.coldRestart F.id (.ok l)) s = .next
    ((s.waitsNot F.id).updFurrow F.id fun F => { F with st := .failed }) := by
  show execColdRestart F.id (.ok l) s = _
  unfold execColdRestart
  rw [hr, hF]
  dsimp only
  rw [if_neg (by simp [hst, ha]), hc]
  rfl

theorem coldRestart_keeps (hc : s.restartChoice F how = some (some (g, only, breach))) (hk : F.keepsPlot g = true) :
    exec (.coldRestart F.id (.ok l)) s = .next (s.restarted F.id g only [] breach) := by
  show execColdRestart F.id (.ok l) s = _
  unfold execColdRestart
  rw [hr, hF]
  dsimp only
  rw [if_neg (by simp [hst, ha]), hc]
  dsimp only
  rw [if_pos hk]
  rfl

theorem coldRestart_fetches (hc : s.restartChoice F how = some (some (g, only, breach))) (hk : F.keepsPlot g = false)
    (hw : s.codeWaits F = false) (hl : crc32cOf (bytesAt l 0 F.desc.codeLen) = F.desc.codeCrc) : exec (.coldRestart F.id (.ok l)) s = .next
      ((s.readCode F).restarted F.id g only (bytesAt l 0 F.desc.codeLen) breach) := by
  show execColdRestart F.id (.ok l) s = _
  unfold execColdRestart
  rw [hr, hF]
  dsimp only
  rw [if_neg (by simp [hst, ha]), hc]
  dsimp only
  rw [if_neg (by simp [hk]), if_neg (by simp [hw]), Furrow.firmware_ok hl]
  rfl

theorem coldRestart_goes (hc : s.restartChoice F how = some (some (g, only, breach))) (hal : s.allocFor g F only = some a)
    (hk : F.home = some (fieldOf g) ∧ F.extents ≠ [] ∨ s.codeWaits F = false ∧ crc32cOf (bytesAt l 0 F.desc.codeLen) = F.desc.codeCrc) :
    ∃ t, exec (.coldRestart F.id (.ok l)) s = .next t ∧ RestartedOn s t F g a.extents := by
  cases hp : F.keepsPlot g with
  | true => exact ⟨_, coldRestart_keeps hr hF hst ha hc hp, State.restarted_spec hF hal [] breach⟩
  | false =>
    rcases hk with ⟨hh, he⟩ | ⟨hw, hl⟩
    · simp [Furrow.keepsPlot, hh, he] at hp
    · have hf : (s.readCode F).furrow? F.id = some F := hF
      have ha' : (s.readCode F).allocFor g F only = some a := hal
      exact ⟨_, coldRestart_fetches hr hF hst ha hc hp hw hl, State.restarted_spec hf ha' _ breach⟩

end

end

/-! A rewritten Sower table, the end of a run of escalations (R211, R428) -/

theorem sowerTableRewrite_goes {s : State} {f : Fin 4} (ha : s.supAlive = true) (hs : s.fields[f].stallSower = true) :
    exec (.sowerTableRewrite f) s = .next (s.updField f fun F => { F with sowerErr := none, stallSower := false }) :=
  congrArg Host.Outcome.next (if_pos ⟨ha, hs⟩)

theorem escalationRunEnd_goes {s : State} {F : Furrow} {n : Nat} {tm : DWord} (hF : s.furrow? F.id = some F) (hr : F.run = some (n, some tm))
    (ht : 1000000000 ≤ s.since tm) : exec (.escalationRunEnd F.id) s = .next (s.endRun F.id) := by
  show execEscalationRunEnd F.id s = _
  rw [execEscalationRunEnd, hF, Option.bind_some, hr]
  exact congrArg Host.Outcome.next (if_pos ht)

/-- Settles O49. That a lost furrow waits UNPLACED for its cold restart is the model's choice (log 30). -/
theorem sowerActs : Obligations.SowerActs := by
  unfold Obligations.SowerActs
  intro s g h used f F kind q events code a only breach how n tm l cycles u hF
  refine ⟨loadMonitorWindow_takes hF g used, fun hs ha hst ho hl hload hc hg => rebalance_moves hs ha hst ho hl hload hc hg,
    fun hst hr ht hk hp => dozeEntry_goes hst hr ht hk hp,
    fun he hs ht hf => ⟨fun hn => planTransition_stays he hs ht hf hn, fun hq => planTransition_goes he hs ht hf hq⟩,
    fun hd hst ha hr => engineRetirement_goes hd hst ha hr, fun hr hst ha hc hal hk => ?_, fun hr hst ha hc => ?_,
    fun ha hst => ⟨_, sowerTableRewrite_goes ha hst, ?_, fun k hk => ?_, rfl⟩,
    fun hr ht => ⟨_, escalationRunEnd_goes hF hr ht, updFurrow_mine hF, fun id hid => updFurrow_other s hid, rfl⟩⟩
  · obtain ⟨t, ht, G, hG⟩ := coldRestart_goes hr hF hst ha hc hal hk
    exact ⟨t, G, ht, hG⟩
  · exact ⟨_, coldRestart_fails hr hF hst ha hc, updFurrow_mine (s := s.waitsNot F.id) hF, rfl⟩
  · rw [State.updField_fields, vupd_same]
  · rw [State.updField_fields, vupd_other _ _ _ _ hk.symm]

end Sys2Proof.Machine
end
